-- ==== Sys2Proof/Word.lean ====
section
/-! DEFINITION. Word.lean: the widths of the JX940's values (R10, R39, R72). Nothing here but names of widths. -/

namespace Sys2Proof

/-- One byte of memory, of a register window or of a handle's storage. -/
abbrev Byte := BitVec 8

/-- One lane's 4-byte slot of a window line (R72). -/
abbrev Slot := BitVec 32

/-- A 64-bit value: a pair's lane value, an address, a quadword (R73). -/
abbrev Dword := BitVec 64

/-- A 64-bit instruction word, an extension word or a block header (R39, R44). -/
abbrev Iword := BitVec 64

/-- A set of lanes of one group: bit `l` stands for lane `l` (R13). -/
abbrev Mask := BitVec 32

end Sys2Proof
end

