-- ==== Sys2Proof/Syntax.lean ====
section
/-! DEFINITION. Syntax.lean: the instruction formats of R55 to R62, the arguments of the device's events, and `Instr`, with one
constructor for each row of spec/opcode_table.json: 148 instructions (a format record each) and 97 events (the device's other
indivisible steps, spec/95_what_each_step_holds.md). -/

namespace Sys2Proof

/-- The guard of an instruction (R39, R40): `p` 0 to 14 names a predicate, 15 names `pt`; `neg` is GN. -/
structure Guard where
  neg : Bool
  p   : BitVec 4
deriving DecidableEq, Repr

/-- Format V (R55). The 10-bit slots are read by `operandOf` (R48) where the entry calls them registers. -/
structure FmtV where
  g    : Guard
  d    : BitVec 10
  a    : BitVec 10
  b    : BitVec 10
  c    : BitVec 10
  etag : BitVec 5
  rm   : BitVec 2
deriving DecidableEq, Repr

/-- Format I (R56). -/
structure FmtI where
  g    : Guard
  d    : BitVec 10
  a    : BitVec 10
  imm  : BitVec 16
  etag : BitVec 5
  z    : Bool
deriving DecidableEq, Repr

/-- Format M (R57, R183). `off` is bits [26:7]: OFF20, or the row and column registers of LDT and STT, or OP and OFF16 of
ATOM and ATOMF. -/
structure FmtM where
  g    : Guard
  data : BitVec 10
  base : BitVec 10
  off  : BitVec 20
  size : BitVec 3
  mod  : BitVec 4
deriving DecidableEq, Repr

/-- Format T (R58). -/
structure FmtT where
  g   : Guard
  x   : BitVec 10
  y   : BitVec 10
  z   : BitVec 10
  q   : BitVec 10
  mod : BitVec 7
deriving DecidableEq, Repr

/-- Format C (R59). -/
structure FmtC where
  g   : Guard
  off : BitVec 27
  reg : BitVec 10
  aux : BitVec 10
deriving DecidableEq, Repr

/-- Format P (R60). -/
structure FmtP where
  g    : Guard
  pd   : BitVec 4
  pe   : BitVec 4
  a    : BitVec 10
  b    : BitVec 10
  pa   : BitVec 4
  pb   : BitVec 4
  cond : BitVec 5
  etag : BitVec 5
deriving DecidableEq, Repr

/-- Format E (R61). -/
structure FmtE where
  g   : Guard
  a   : BitVec 10
  b   : BitVec 10
  c   : BitVec 10
  n   : BitVec 10
  mod : BitVec 7
deriving DecidableEq, Repr

/-- Format S (R62). -/
structure FmtS where
  g   : Guard
  d   : BitVec 10
  a   : BitVec 10
  csr : BitVec 12
  mod : BitVec 15
deriving DecidableEq, Repr

/-- The special registers of R48. -/
inductive SReg where
  | lane | grp | team | core | clus | teamidx | cause | fpc | frag | ufc | zero | one
deriving DecidableEq, Repr

/-- What a 10-bit register operand field holds (R48). -/
inductive Operand where
  | v (n : Nat)
  | sr (r : SReg)
  | port (k : Nat)
  | reserved
deriving DecidableEq, Repr

/-- Which chain an event or CTAIL acts on (R269): a copy chain of a core, a collective chain of a die, the Press chain of a
stream, a service chain of a context. -/
inductive ChainRef where
  | copy (core n : Nat)
  | coll (die n : Nat)
  | press (stream : Nat)
  | svc (ctx n : Nat)
deriving DecidableEq, Repr

/-- A management register without behaviour of its own beyond its fields (R11, R206, R309, R310, R332, R366, R388), and what service
firmware holds of contexts, tenancies and ports (R155, R286, R298, R308, R334, R381, R382). -/
inductive MgmtReg where
  | plsrc
  | plstat
  | featureOffer
  | lease (ctx : Nat)
  | deschedTime (ctx : Nat)
  | serviceLimit (ctx : Nat)
  | contexts (ten : Nat)
  | priorityCeiling (ten : Nat)
  | coreQuota (ten : Nat)
  | shareWeight (ten : Nat)
  | hbmWeight (ten : Nat)
  | linkWeight (ten : Nat)
  | scopePolicy (ten : Nat)
  | vectorCount (ten : Nat)
  | laneThreshold (port : Nat)
  /-- `mem`: the port offers nothing but CXL.io and CXL.mem, in flit mode, to Type 3 devices (R335). -/
  | cxlWindow (port : Nat) (mem : Bool)
  | contextTenancy (ctx : Nat)
  | contextRoot (ctx : Nat)
  | errorRing (ctx n va : Nat)
  | serviceQueue (ctx : Nat)
  | allocation (ctx core : Nat)
  | tenantDevice (ten peer : Nat)
  | portPeer (port peer : Nat)
  | fabricWindow (ten peer base len : Nat)
deriving DecidableEq, Repr

/-- R209, R386: an access of a host thread. A fence at `.sys` waits for the thread's earlier stores. -/
inductive HostAccess where
  | load (va : Dword) (n : Nat)
  | store (va : Dword) (bytes : List Byte)
  | fence
deriving DecidableEq, Repr

/-- A request of system software in the mailbox (R387). -/
inductive Request where
  | writeRange (idx : Nat) (w0 w1 w2 w3 : Dword)
  | loadPattern (src : Dword) (slot : Nat)
  | resetContext (ctx : Nat)
  | ackInterrupt (vec : Nat)
  | submitNode (ctx : Nat) (addr : Dword)
  | nodeDone (nid : Nat)
  /-- R384: the peers that the group reaches over Ultra Ethernet are named. -/
  | createGroup (ctx group ranks rank : Nat) (ultraEthernet : List Nat)
  /-- R392: a context's attestation record, signed together with a nonce. -/
  | attest (ctx : Nat) (nonce : List Byte)
  /-- R209, R386: a host thread of the tenancy accesses a device-shared range of a context. -/
  | hostAccess (ctx : Nat) (a : HostAccess)
deriving DecidableEq, Repr

/-- What a directory event of a frame carries (R364): the frame (physical key divided by 256), the requester of R353 and the
bytes it touches, bit `b` for byte `b` of the frame. -/
structure HomeReq where
  frame : Nat
  req   : Nat
  bytes : BitVec 256
deriving DecidableEq, Repr

/-- What service firmware does for a SVCREQ entry (R298, R338, R388): the word that it writes to REPLY, its writes to flash, by address, and
the vectors that it raises. -/
structure SvcReply where
  word    : Dword
  writes  : List (Nat × List Byte) := []
  vectors : List Nat := []
deriving DecidableEq, Repr

/-- A switch of service firmware to an image is requested (R393); `serving` names a context once for each of its oldest calls that is in
service. -/
structure SwitchRequest where
  image   : List Byte
  serving : List Nat
deriving DecidableEq, Repr

/-- The instructions and events of the device: one constructor for each row of the opcode table. -/
inductive Instr where
  -- class 0x0, integer vector (R129)
  | iadd (f : FmtV) | isub (f : FmtV) | imul (f : FmtV) | imulh (f : FmtV) | imad (f : FmtV)
  | imin (f : FmtV) | imax (f : FmtV) | iabs (f : FmtV) | ineg (f : FmtV)
  | and (f : FmtV) | or (f : FmtV) | xor (f : FmtV) | not (f : FmtV)
  | shl (f : FmtV) | shr (f : FmtV) | sar (f : FmtV) | rotl (f : FmtV)
  | popc (f : FmtV) | clz (f : FmtV) | brev (f : FmtV) | sel (f : FmtV)
  | clmul (f : FmtV) | clmulh (f : FmtV) | bfx (f : FmtV) | bfi (f : FmtV)
  | shuf (f : FmtV) | bcast (f : FmtV) | ireduce (f : FmtV) | dot4 (f : FmtV)
  -- class 0x1, float vector (R139)
  | fadd (f : FmtV) | fsub (f : FmtV) | fmul (f : FmtV) | ffma (f : FmtV) | fmin (f : FmtV) | fmax (f : FmtV)
  | fabs (f : FmtV) | fneg (f : FmtV) | frcp (f : FmtV) | frsq (f : FmtV) | fsqrt (f : FmtV) | fdiv (f : FmtV)
  | fexp2 (f : FmtV) | flog2 (f : FmtV) | fsinpi (f : FmtV) | fcospi (f : FmtV)
  | fclass (f : FmtV) | frnd (f : FmtV) | fscale (f : FmtV) | fdot2 (f : FmtV) | freduce (f : FmtV)
  -- class 0x2, conversions (R111)
  | cvt (f : FmtV) | cvts (f : FmtV) | scalesel (f : FmtV) | tag (f : FmtV) | tagr (f : FmtV)
  | pack (f : FmtV) | unpack (f : FmtV) | bpsplit (f : FmtV) | bpjoin (f : FmtV)
  -- class 0x3, immediate (R151, R152); MOVI.W carries its extension iword
  | movi (f : FmtI) | moviW (f : FmtI) (ext : Iword)
  | iaddi (f : FmtI) | andi (f : FmtI) | ori (f : FmtI) | xori (f : FmtI)
  | shli (f : FmtI) | shri (f : FmtI) | sari (f : FmtI) | imuli (f : FmtI) | lea (f : FmtI)
  -- classes 0x4 and 0x5, memory (R183, R213)
  | ld (f : FmtM) | lda (f : FmtM) | ldt (f : FmtM) | ldu (f : FmtM) | pref (f : FmtM)
  | st (f : FmtM) | stl (f : FmtM) | stt (f : FmtM) | atom (f : FmtM) | atomf (f : FmtM) | cas (f : FmtM)
  | flush (f : FmtM) | inv (f : FmtM) | zero (f : FmtM)
  -- handles (R192)
  | talloc (f : FmtE) | tfree (f : FmtE)
  -- class 0x6, matrix (R255)
  | tdesc (f : FmtT) | tload (f : FmtT) | tstore (f : FmtT) | tfromh (f : FmtT) | ttoh (f : FmtT) | tzero (f : FmtT)
  | mma (f : FmtT) | accz (f : FmtT) | drain (f : FmtT) | accget (f : FmtT) | accput (f : FmtT) | ttrans (f : FmtT)
  | gset (f : FmtT) | gget (f : FmtT)
  /-- The matrix engine of `core` takes its next queued instruction and performs it (R252). -/
  | matrixEngineIssue (core : Nat)
  -- class 0x7, control (R221); BRM carries its two extension iwords
  | br (f : FmtC) | brm (f : FmtC) (e0 e1 : Iword) | jtab (f : FmtC) | jind (f : FmtC) | call (f : FmtC) | ret (f : FmtC)
  | exit (f : FmtC) | bar (f : FmtC) | barc (f : FmtC) | yield (f : FmtC) | rejoin (f : FmtC) | kill (f : FmtC)
  | tfence (f : FmtC) | trap (f : FmtC) | nop (f : FmtC) | fragq (f : FmtC)
  -- class 0x8, predicates (R234)
  | icmp (f : FmtP) | fcmp (f : FmtP) | pand (f : FmtP) | por (f : FmtP) | pxor (f : FmtP)
  | pnot (f : FmtP) | pmov (f : FmtP) | pany (f : FmtP) | pset (f : FmtP)
  -- class 0x9, engines (R291, R213)
  | cput (f : FmtE) | ctail (f : FmtE) | ctailOpen (f : FmtE) | semadd (f : FmtE) | semwait (f : FmtE) | semread (f : FmtE)
  | publish (f : FmtE) | enq (f : FmtE) | svc (f : FmtE) | mwait (f : FmtE) | collabort (f : FmtE) | fence (f : FmtE)
  -- class 0xA, control registers (R318, R218)
  | csrr (f : FmtS) | csrw (f : FmtS) | csrs (f : FmtS) | csrc (f : FmtS) | clock (f : FmtS) | errq (f : FmtS)
  -- class 0xB, register space (table before R93)
  | mov (f : FmtV) | rget (f : FmtV) | rput (f : FmtV) | sbind (f : FmtV) | sstat (f : FmtV)
  -- chain entries: the engine takes the next entry of the chain and performs it (R273 to R279, R341, R344, R384)
  | nopEntry (c : ChainRef) | copyEntry (c : ChainRef) | copy3d (c : ChainRef) | copyh (c : ChainRef)
  | signal (c : ChainRef) | waitsem (c : ChainRef) | link (c : ChainRef)
  | pressAppend (c : ChainRef) | pressSync (c : ChainRef) | pressTrim (c : ChainRef)
  | collAllreduce (c : ChainRef) | collAllgather (c : ChainRef) | collRedscat (c : ChainRef)
  | collAlltoall (c : ChainRef) | collBcast (c : ChainRef)
  /-- Service firmware performs the entry's function and writes its reply (R279, R298). -/
  | svcreq (c : ChainRef) (reply : SvcReply)
  | entryComplete (c : ChainRef)
  -- wakes and completions inside a core
  | semaphoreWake (core sem : Nat)
  | mwaitWake (core frag : Nat) | mwaitTimeout (core frag : Nat)
  | releasePerform (core slot : Nat) | loadReturn (core slot : Nat)
  | tableWalkComplete (core ctx : Nat) (va : Dword)
  | leaseExpiry (core frame : Nat)
  | fragExhaustedRetry (core slot : Nat)
  -- service actions on the remnant that a fragment id of a core names (R305, R309, R310)
  | retry (core : Nat) (fid : BitVec 8) | resumePast (core : Nat) (fid : BitVec 8)
  | redirect (core : Nat) (fid : BitVec 8) (target : Dword) | serviceKill (core : Nat) (fid : BitVec 8)
  | terminate (ctx : Nat)
  | llServiceTimeout (core : Nat) (fid : BitVec 8) | llDesched (tid : Nat)
  -- translation (R162, R165)
  | invalidationComplete (ctx : Nat) (va len : Dword)
  | mappingChange (ctx : Nat) (va len : Dword) (writes : List (Nat × Dword))
  | mapEntryWrite (loader : Bool) (key : Nat) (value : Dword)
  -- flash and the Press (R337, R339, R342, R269)
  | flashBlockArrival (block : Nat)
  | recordPost (stream : Nat)
  | streamBind (stream ctx : Nat) (va pa len : Nat) | streamUnbind (stream : Nat)
  -- the Cutter and the host (R284 to R290, R315, R386, R298)
  | nodeDispatch (nid origin : Nat) | nodeComplete (nid : Nat)
  | hostSubmission (ctx : Nat) (addr : Dword) | hostNodeDone (nid : Nat)
  | preempt (nid : Nat) (tids : List Nat) | teamSave (tid : Nat) | restore (tid core : Nat)
  | svcReply (ctx : Nat) (reply : Dword)
  -- events of a frame at its home (R364, R365)
  | homeRd (r : HomeReq) | homeRdx (r : HomeReq) | homeUpg (r : HomeReq) | homeWr (r : HomeReq) | homeAt (r : HomeReq)
  | homeEvc (r : HomeReq) | homeWb (r : HomeReq) | homeAck (r : HomeReq) | homeData (r : HomeReq)
  | homeFl (r : HomeReq) | homeIv (r : HomeReq) | homeZr (r : HomeReq)
  | pushApply (die key : Nat) (word : Slot)
  | rangeEntryWrite (ten idx : Nat) (w0 w1 w2 w3 : Dword)
  | patternLoad (cmd : BitVec 32)
  -- management (R11, R390, R387, R388, R392)
  | registerWrite (r : MgmtReg) (value : Dword)
  | featureAcceptWrite (value : BitVec 128)
  | mailboxRequest (ten : Nat) (r : Request)
  | interruptAck (ten vec : Nat)
  | loadContainer (ctx : Nat) (file : List Byte)
  -- Seam and collectives (R379 to R381, R394, R385)
  /-- A flit: its header, and the 248 bytes after it, payload and CRC (R379). -/
  | flitReceive (port : Nat) (header : Dword) (rest : List Byte)
  | replayRequest (port : Nat) (named : BitVec 12)
  | laneRepair (port lane : Nat) | retrainComplete (port : Nat)
  | fabricWriteAck (c : ChainRef)
  | abortToken (ctx group : Nat)
  | collectivePacket (ctx group attempt rank : Nat) (data : List Byte)
  -- HBM and power (R332, R333, R335)
  | alertBackOff (stack bank : Nat) | hbmRefresh (stack bank : Nat) | activate (stack bank : Nat)
  | cxlPortDown (port : Nat)
  -- Trier (R376, R377)
  | trierScanStart (core : Nat) | trierScanComplete (core : Nat) (failing : BitVec 8) | trierScanAbort (core : Nat)
  | coreRemap (core site : Nat)
  -- losses, resets, power (R378, R389, R351, R345, R393)
  | dieLost (die : Nat) | contextReset (ctx : Nat) | tenancyReset (ten : Nat) | dieReset (die : Nat) | deviceReset
  | powerLoss | powerReturn
  | firmwareSwitch (r : SwitchRequest)
  | bankSwitch
  | spuriousWake (core frag : Nat)
  | blockEraseOrRelocationStart (block : Nat) | blockEraseOrRelocationEnd (block : Nat)
  | flushOrInvComplete (core slot : Nat)
  | powerControllerSetsLimit (stack : Option Nat) (value : Nat)
deriving DecidableEq, Repr

/-- Which agent moves next: the group in a slot of a core issues, or an event happens. -/
inductive Turn where
  | issue (core slot : Nat)
  | event (i : Instr)
deriving DecidableEq, Repr, Inhabited

end Sys2Proof
end

