-- ==== Sys2Proof/Config.lean ====
section
/-! DEFINITION. Config.lean: what one implementation fixes, and the free values (opaque constants: nothing can be proved of
their values). Every free value is named in a log entry of notes/assumptions. -/

namespace Sys2Proof

/-- FREE VALUE. The `n`th open choice of the machine as a 64-bit value: path delays within R204's bounds, the amount by which
device time advances between two steps, the predictor's span (R171), whether a prefetch fills (R186), which of two allowed
bytes an overlapping copy moves (R276). Log entries 2, 3 and 4. -/
opaque Config.free : Nat → Dword

/-- FREE VALUE. Which agent moves at the `n`th open choice, where `State.script` names none (R403 and the other rules that leave the order
of the device's agents open). Log entry 1. -/
opaque Config.turn : Nat → Turn

/-- FREE VALUE. The mantissa (first argument: the precision asked for) of a transcendental result that the last precision
tried still leaves undecided; no finite float is known to reach it (R145). Log entry 5. -/
opaque Config.undecided : Nat → Nat → Nat

/-- IMPLEMENTATION CONSTANT. SHA3-256 of a byte string (R391, R392): the spec names the standard and gives no algorithm.
Log entry 6. -/
opaque Config.sha3_256 : List Byte → BitVec 256

/-- IMPLEMENTATION CONSTANT. ML-DSA-44 verification of a signature of a measurement under a public key (R391, R392). Log
entry 6. -/
opaque Config.mldsa44Verify : List Byte → BitVec 256 → List Byte → Bool

/-- IMPLEMENTATION CONSTANT. The four fuse slots: the hash of the public key that each holds (R392). Log entry 6. -/
opaque Config.fuseKeyHash : Nat → BitVec 256

/-- IMPLEMENTATION CONSTANT. The ML-DSA-44 signature of a byte string under the device's identity key (R392). Log entry 6. -/
opaque Config.identitySign : List Byte → Nat

/-- PART CONSTANT. The CRC of 8 bytes that closes a Seam flit over its header and payload, whose polynomial the spec does not give (R379).
Log entry 84. -/
opaque Config.flitCrc : List Byte → Dword

/-- PART CONSTANT. Check symbol `k`, 0 to 15, of the Reed-Solomon code of a row's 512 data symbols, whose polynomials the spec does not give
(R328). Log entry 84. -/
opaque Config.checkSymbol : List (BitVec 16) → Nat → BitVec 16

/-- PART CONSTANT. The features this part offers, bits 7 to 0 of FEATURE_OFFER, whose reset value the spec gives as the
part's own (R390). Log entry 7. -/
opaque Config.featureOffer : BitVec 8

/-- PART CONSTANT. The contents of the word at a Press log address after an unposted but wholly buffered record met a loss of
power: whether it survived (R345). Log entry 4. -/
opaque Config.bufferedSurvives : Nat → Bool

/-- PART CONSTANT. How many frames the directory of the fabric switch can track beside one (R383). Log entry 60. -/
opaque Config.switchFrames : Nat

end Sys2Proof
end

