-- ==== Sys2Proof/Machine/State.lean ====
section
/-! DEFINITION. Machine/State.lean: everything the spec gives the device to hold, as plain data, and the device after reset. A `Table`
is an association list by rising key that lists no default entry; it stands for a register file, a table or a memory. -/

namespace Sys2Proof.Machine

/-- A sparse map from numbers: entries in strictly rising order of key. -/
abbrev Table (α : Type) := List (Nat × α)

/-- Bytes by address, in the canonical form of `Memory.wf` (Machine/Data.lean). Addressed memory is keyed by
tier * 2^52 + tier-local physical address (R157, R161); a core's scratchpad by core * 2^19 + byte (R178). -/
abbrev Memory := List Host.Cell

/-- Why the machine stops. The spec has no stop: every fault of a program is a state of a fragment (R304). -/
inductive Fault where
  /-- An instruction was executed with no resident fragment to issue it: `State.cur` names none. Raised by the instruction meanings
  only; no turn of `step` reaches it, because `step` selects a fragment first. Safe: the machine stops where nothing is defined. -/
  | noIssuer
deriving DecidableEq, Repr

/-- Why an instruction has no meaning. -/
inductive Refusal where
  /-- The instruction of this mnemonic is not modelled. Raised by `exec` alone. Safe: nothing can be proved of its effect. -/
  | notModelled (mnemonic : String)
deriving DecidableEq, Repr

/-- One 128-byte line of a register window and its format tag (R72, R81). Bit 8b is bit 0 of the line's byte b. -/
structure Line where
  bits : BitVec 1024
  tag  : BitVec 5
deriving DecidableEq, Repr

/-- A tile descriptor (R243); all zero after reset (R71). -/
structure TileDesc where
  off      : Nat
  rows     : Nat
  tag      : Nat
  planes   : Nat
  rowBytes : Nat
  se       : Bool
  sclOff   : Nat
  gauge    : Nat
deriving DecidableEq, Repr

/-- A lane's binding of a stream port (R86, R87). A port that is unbound in a lane has no entry. -/
structure Binding where
  base  : Dword
  write : Bool
  tag   : Nat
  n0    : Nat
  n1    : Nat
  n2    : Nat
  s0    : Slot
  s1    : Slot
  s2    : Slot
  i0    : Nat
  i1    : Nat
  i2    : Nat
  ended : Bool
deriving DecidableEq, Repr

/-- What holds a sleeping fragment (R18). -/
inductive Sleep where
  /-- BAR, with the barrier's number (R229). -/
  | bar (n : Nat)
  /-- BARC (R229). -/
  | barc
  /-- SEMWAIT on the semaphore with this key (core * 64 + number): threshold and DEC (R295). -/
  | sem (key thr : Nat) (dec : Bool)
  /-- MWAIT on the frame with this number: the moment by which it wakes, and that at which a store that wakes it performs (R217). -/
  | mwait (frame : Nat) (deadline : Option Nat) (fire : Option Nat)
deriving DecidableEq, Repr

/-- Running, waiting and mending fragments are `ready`: `Group.run` names the running one and `Fragment.mend` the mending ones. -/
inductive FragSt where
  | ready
  | asleep (w : Sleep)
  | parked
deriving DecidableEq, Repr

/-- A fragment (R16), with what a remnant carries (R29, R31, R32). -/
structure Fragment where
  slot    : Nat
  blk     : Nat
  idx     : Nat
  /-- The header of `blk` has been fetched and checked (R45); `hdr` then holds it. -/
  entered : Bool
  hdr     : Iword
  mask    : Mask
  st      : FragSt
  mend    : Bool
  /-- The cause it parked with, 0 for none. -/
  cause   : Nat
  /-- A mending remnant's cause, faulting block and index, and RECONV copy (R16, R31, R232). -/
  mcause  : Nat
  oblk    : Nat
  oidx    : Nat
  reconv  : BitVec 19
  /-- It parked at a header or at an iword that was not fetched (R305). -/
  noInstr : Bool
  /-- The iwords of the instruction at which it parked (R305). -/
  iwords  : Nat
  /-- The faulting address and the walk's marks that its record names (R307). -/
  addr    : Nat
  /-- The flash blocks that its lanes await, a list for each lane, or the block that could not be read (R337). -/
  blocks  : List (List Nat)
  /-- The flag set P that TFENCE raised (R320). -/
  raised  : BitVec 9
  /-- Device time at which it parked (R309). -/
  since   : Nat
  /-- A woken fragment's acquire, performed before its next instruction: the scope (R230, R295). -/
  acq     : Option Nat
deriving DecidableEq, Repr

/-- One lane's part of an outstanding load: the register bytes it will write, and what it read where (R173). -/
structure LanePart where
  lane   : Nat
  /-- The address, 2^64 for an element of a handle. -/
  va     : Nat
  value  : BitVec 128
  /-- The bytes that are still to be read at the home, as (byte of the value, key) (R173). -/
  miss   : List (Nat × Nat)
  /-- The poisoned bytes read: the cause of their tier (R311), and the address. -/
  poison : List (Nat × Nat)
  /-- The largest future Tv of another group's store that it read, 0 for none (R208). -/
  tv     : Nat
deriving DecidableEq, Repr

/-- A load that has issued and not returned (R173, R205): where `place` puts it (R184). -/
structure PendingLoad where
  data   : BitVec 10
  size   : Nat
  signed : Bool
  /-- The scope of the acquire that the return performs (R207, R214). A load to a write port stores at its return (R90). -/
  acq    : Option Nat
  /-- The context that translated its addresses; the physical parts of its accesses; the spans of granules that its return fetches, by
  frame (R171, R370). -/
  ctx    : Nat
  accs   : List (Nat × Nat)
  spans  : Table (List (Nat × Nat))
  parts  : List LanePart
deriving DecidableEq, Repr

/-- A FLUSH or INV in progress (R190): level, whether it discards, and the range. -/
structure RangeOp where
  inv   : Bool
  level : Nat
  start : Nat
  len   : Nat
deriving DecidableEq, Repr

/-- A resident group (R13, R69 to R71, R80). -/
structure Group where
  tid     : Nat
  grp     : Nat
  lines   : Nat
  win     : Table Line
  preds   : Table Mask
  tiles   : Table TileDesc
  accs    : Table Nat
  streams : Table Binding
  ufc     : Table Nat
  mode    : BitVec 32
  flags   : BitVec 32
  status  : BitVec 32
  mendReg : Dword
  uft     : BitVec 32
  /-- The lanes that have not exited (R23). -/
  live    : Mask
  /-- The arrived lanes at barriers 0 to 7, and at the cluster's barrier under key 8 (R25, R229). -/
  arr     : Table Mask
  /-- The horizon H (R205). -/
  horizon : Nat
  /-- Stores to TIER 11 or host-shared pages that have not been acknowledged (R205). -/
  unacked : Nat
  loads   : List PendingLoad
  /-- An instruction that is held at issue, and the fragment that issues it (R205, R298, R365, R403). -/
  held    : Option (Nat × Instr)
  /-- A FENCE.rel that has not performed: its scope. Later stores wait for it and later loads do not (R216). -/
  fence   : Option Nat
  /-- The latest Tv of the group's atomics at `.clus` or wider: no later store of the group has an earlier one (R203). -/
  floor   : Nat
  rangeOp : Option RangeOp
  /-- The index of the running fragment (R19). -/
  run     : Option Nat
  /-- YIELD (R22): by yielder, the fragments that its pass still waits for. -/
  passes  : Table (List Nat)
  /-- The fragment halted with GF_FRAG_EXHAUSTED and how many pool entries it needs (R304). -/
  halted  : Option (Nat × Nat)
deriving DecidableEq, Repr

/-- Bounds, format, action and hit count of a gauge (R127, R253, R266). -/
structure Gauge where
  lo   : Slot
  hi   : Slot
  int  : Bool
  act  : BitVec 2
  hits : Nat
deriving DecidableEq, Repr

/-- An allocated tile-table entry (R177, R178): level 1 or 2; the owning team id or cluster key; at level 2 the holder's `sr.team`; shape;
storage; whether the twin core holds it as well (R374; log entry 16). -/
structure Handle where
  level : Nat
  owner : Nat
  holder : Nat
  rows  : Nat
  cols  : Nat
  es    : Nat
  base  : Nat
  twin  : Bool
deriving DecidableEq, Repr

/-- A matrix instruction in its core's engine queue (R252), with its rows and the gauge it read at issue (R254). -/
structure MatrixOp where
  slot  : Nat
  instr : Instr
  rows  : Mask
  gauge : Option Gauge
  /-- The address of its iword and its fragment's id, for the record of R251. -/
  fpc   : Nat
  frag  : Nat
deriving DecidableEq, Repr

/-- A bolt of a cache (R170): granules `lo` to `hi` - 1 of a frame. Caches 0 to 719 are the cores' L1; 1024 + d is die d's proxy
slices (R353); 2048 + 48 * d + n is home slice n of die d. A read copy holds its bytes and its granules' poison (R331); the words that a
core owns and those of a home slice are held by `State.mem`. No lease is `none`. -/
structure Bolt where
  cache : Nat
  frame : Nat
  lo    : Nat
  hi    : Nat
  owned : Bool
  data  : BitVec 2048
  poison : BitVec 16
  /-- A home slice's granules that have been written since the slice last wrote them to its tier (R330, R331). -/
  dirty : BitVec 16
  fill  : Nat
  lease : Option Nat
deriving DecidableEq, Repr

/-- A byte of a store whose Tv lies in the future for some agent (R204), oldest first in coherence order (R196). -/
structure Flight where
  /-- Numbers the store in coherence order. -/
  id   : Nat
  key  : Nat
  core : Nat
  slot : Nat
  lane : Nat
  tv   : Nat
  old  : Byte
  new  : Byte
  /-- Whether the byte's granule was poisoned before the store (R331). -/
  psn  : Bool
  /-- The caches whose readers see it before its Tv: cores that have read it at the home (R188, R196), and the proxies of the dies that it
  has been pushed to (R361). -/
  seen : List Nat
  /-- The context of its agent (R346). -/
  ctx  : Nat
deriving DecidableEq, Repr

/-- A word pushed to a requester's die and not yet applied there (R361, R371): the store that it carries, and the moment by which that
must be acknowledged (R204). -/
structure Push where
  die  : Nat
  key  : Nat
  word : Slot
  id   : Nat
  tv   : Nat
  /-- The store wrote the word's whole granule (R331). -/
  whole : Bool
deriving DecidableEq, Repr

/-- A strong access that a home remembers: its bytes' first key, its moment, and what they held before it (R167). -/
structure Strong where
  key    : Nat
  time   : Nat
  before : List Byte
deriving DecidableEq, Repr

/-- A TLB entry of a core (R163): its level, 1 or 2, and one page or one run, with its entry's address and value. -/
structure TlbEntry where
  level : Nat
  core : Nat
  ctx  : Nat
  base : Nat
  size : Nat
  pte  : Nat
  val  : Dword
deriving DecidableEq, Repr

/-- An invalidation in progress (R165); `publish` names the slot of the group whose PUBLISH it is (R212). -/
structure Inval where
  ctx     : Nat
  start   : Nat
  len     : Nat
  publish : Option Nat
deriving DecidableEq, Repr

/-- Why a chain stops (R273), and what its record says of it: DETAIL, and the marks of a walk (R307). -/
structure Stop where
  cause  : Nat
  detail : Nat := 0
  malf   : Bool := false
  psn    : Bool := false
deriving DecidableEq, Repr

/-- What a started entry still waits for, beside its Tv. -/
inductive Await where
  | ready
  /-- WAITSEM: its semaphore (R278). -/
  | sem
  /-- PRESS.SYNC: DSEQ to reach a number (R344). -/
  | sync (n : Nat)
  /-- The acknowledgement of its writes to fabric and host-shared pages, by the numbers of these stores (R273, R394). -/
  | fabric (ids : List Nat)
  /-- COLL.*: the data of the other ranks of a group's attempt (R384, R385). -/
  | coll (group attempt : Nat)
  /-- The entry failed: its chain stops at it once every earlier entry has completed (R273). -/
  | fail (x : Stop)
deriving DecidableEq, Repr

/-- An entry that an engine has started and that has not completed (R273). -/
structure Started where
  pos   : Nat
  hdr   : Dword
  tv    : Nat
  /-- The generation that stamps it (R274). -/
  gen   : Nat
  await : Await
  /-- LINK: the new ring (R278). COLL.*: the entry's bytes. -/
  body  : List Byte
  /-- COPYH: the tile-table entry that it names (R277), by level, owner, holder and index, which a save and a restore leave as they are. -/
  handle : Option (Nat × Nat × Nat × Nat)
deriving DecidableEq, Repr

/-- A chain (R269 to R274). -/
structure Chain where
  isOpen  : Bool
  /-- The holding team for a copy chain, else the holding context. -/
  holder  : Nat
  ctx     : Nat
  base    : Nat
  logn    : Nat
  start   : Nat
  tail    : Nat
  done    : Nat
  /-- The position of the next entry to start. -/
  nxt     : Nat
  cwaddr  : Nat
  stopped : Bool
  /-- Closing: no new positions are taken (R301). -/
  closing : Bool
  /-- Stamps by tail movement: positions below `.1` carry generation `.2.1` and team `.2.2` (R274). -/
  stamps  : List (Nat × Nat × Nat)
  started : List Started
  /-- The last number that a PRESS.APPEND of the chain has taken, 0 for none (R344). -/
  seq     : Nat
deriving DecidableEq, Repr

/-- Who waits at a semaphore (R281), in order of arrival. -/
inductive SemWaiter where
  | frag (core fi : Nat)
  | chain (c : ChainRef)
deriving DecidableEq, Repr

/-- A waiter of a semaphore: its key, threshold and DEC (R281), and whether the semaphore is remote to it (R295). -/
structure SemWait where
  who : SemWaiter
  key : Nat
  thr : Nat
  dec : Bool
  remote : Bool
  /-- When it arrived, in the order of arrivals. -/
  since : Nat
deriving DecidableEq, Repr

/-- A team resident on a core (R13 to R15). -/
structure Team where
  ctx     : Nat
  node    : Nat
  core    : Nat
  twin    : Option Nat
  /-- The cluster's index in the grid, `sr.clus`; `sr.team`; `sr.teamidx` (R15). -/
  clus    : Nat
  num     : Nat
  teamidx : Nat
  gpt     : Nat
  slots   : List Nat
  semBase : Nat
  semCnt  : Nat
  handles : List Nat
  scope   : Nat
  arg     : Dword
  /-- Since when no group has had an eligible fragment while a remnant is parked (R310). -/
  stuck   : Option Nat
  /-- The Cutter has requested it to stop (R289). -/
  stopping : Bool
deriving DecidableEq, Repr

/-- What service decided of a parked remnant while its team was saved (R33, R305). -/
inductive Resolution where
  | retry | resume | redirect (target : Nat) | kill
deriving DecidableEq, Repr

/-- A saved team (R314): its groups by slot and its fragments and their generations by index; the tile-table entries of the cluster that
move with it, by holder * 256 + index, with generation and storage; its semaphore block; the gauge file; its copy chains by number; the
waits of its fragments and chains. -/
structure SavedTeam where
  team     : Team
  groups   : Table Group
  frags    : Table Fragment
  gens     : Table Nat
  handles  : Table (Handle × Nat × List Byte)
  sems     : List Nat
  gauges   : Table Gauge
  chains   : Table Chain
  waits    : List SemWait
  /-- Outstanding service results by fragment index, applied at restore (R33). -/
  pending  : List (Nat × Resolution)
  /-- Queued for restore (R289, R310). -/
  ready    : Bool
deriving DecidableEq, Repr

/-- An error record (R307) before it is laid out in memory. -/
structure Record where
  time    : Nat
  cause   : Nat
  inMend  : Bool
  malf    : Bool
  psn     : Bool
  mendBad : Bool
  lost    : Bool
  ctx     : Nat
  ten     : Nat
  core    : Nat
  slot    : Nat
  frag    : Nat
  mask    : Mask
  fpc     : Nat
  addr    : Nat
  aux     : Nat
  detail  : BitVec 128
deriving DecidableEq, Repr

/-- A context's error ring (R308). -/
structure Ring where
  base : Dword
  key  : Nat
  n    : Nat
  prod : Nat
  cons : Nat
  drop : Nat
  lost : Bool
deriving DecidableEq, Repr

/-- Whether a context runs, is lost (R312), is frozen (R375) or is not in use. -/
inductive CtxMode where
  | live | lost | frozen | free
deriving DecidableEq, Repr

/-- A service request posted by SVC (R298). -/
structure SvcReq where
  func  : Slot
  arg   : Dword
  reply : Dword
  /-- It was in service when a switch of firmware was requested (R393). -/
  old   : Bool
deriving DecidableEq, Repr

/-- A hardware context (R155, R274, R298, R308 to R310). -/
structure Ctx where
  ten     : Nat
  root    : Nat
  gen     : Nat
  mode    : CtxMode
  lease   : Nat
  descT   : Nat
  limit   : Nat
  ring    : Option Ring
  /-- The cores of the context's allocation (R286). -/
  alloc   : List Nat
  svcq    : List SvcReq
  svcCap  : Nat
  hostq   : List Nat
  attest  : BitVec 256
  /-- Poisoned pages retired by a loss are marked in their leaves; the first reliability cause of a loss (R312). -/
  cause   : Nat
deriving DecidableEq, Repr

/-- A tenancy (R388) and its counts. -/
structure Ten where
  contexts : Nat
  ceiling  : Nat
  quota    : Nat
  weight   : Nat
  hbmW     : Nat
  linkW    : Nat
  policy   : Nat
  vectors  : Nat
  devices  : List Nat
  /-- Discarded completions (R346), dropped increments (R284), dropped packets (R385), dropped interrupts (R389). -/
  discard  : Nat
  dropInc  : Nat
  dropPkt  : Nat
  dropInt  : Nat
deriving DecidableEq, Repr

/-- Where a launch node stands (R284 to R289). -/
inductive NodeSt where
  | waiting | ready | placed | done
deriving DecidableEq, Repr

/-- A launch node (R282) in the Cutter's pool. -/
structure Node where
  ctx     : Nat
  addr    : Nat
  desc    : List Byte
  st      : NodeSt
  pred    : Nat
  /-- Core of the enqueuer, 1023 for a host submission; its team (R284, R287). -/
  origin  : Nat
  team    : Option Nat
  /-- The cluster of that team (R284). -/
  cluster : Nat
  /-- Order of becoming ready, and of dispatch. -/
  order   : Nat
  /-- Next open-grid index, mirrored by every live dispatcher, and the leader die (R36, R37). -/
  next    : Nat
  leader  : Nat
  granted : Nat
  lost    : Nat
  /-- Why it failed, 0 for success, and the marks of the walk that failed (R284, R307). -/
  reason  : Nat
  malf    : Bool
  psn     : Bool
  /-- Teams that have ended, and the largest horizon of their groups (R300). -/
  ended   : Nat
  horizon : Nat
  /-- The stores, by number, whose acknowledgements a FENCE.rel of an ended group waits for (R205, R300). -/
  acks    : List Nat
deriving DecidableEq, Repr

/-- A load that had not returned when its group ended: the group's slot by core and number, its node, and the load (R300). -/
structure Orphan where
  key  : Nat
  node : Nat
  load : PendingLoad
deriving DecidableEq, Repr

/-- A held request of a frame: the event and what it carries (R365), and the access of this device, by its group's or its
chain's number, that makes it when it is served. -/
structure HeldReq where
  event : Nat
  req   : HomeReq
  own   : Option Nat
deriving DecidableEq, Repr

/-- A frame's directory entry at its home (R352, R353, R359, R360, R365). -/
structure Dir where
  st      : Nat
  /-- The requesters that hold copies: 0 to 5 (R353); at the switch the fabric peers are 6 + their number, and the host dies of
  their devices 518 + it (R369, R383; log entry 60). -/
  sharers : List Nat
  /-- Requesters whose acknowledgement or data is awaited, and the WAIT code (R363). -/
  awaited : List Nat
  wait    : Nat
  held    : List HeldReq
  /-- Access and write masks by requester (R360). -/
  acc     : Table (BitVec 256)
  wr      : Table (BitVec 256)
  /-- Order in which the frame became tracked (R383). -/
  since   : Nat
deriving DecidableEq, Repr

/-- An entry of the range table (R355). -/
structure RangeEntry where
  valid  : Bool
  base   : Nat
  limit  : Nat
  tier   : Nat
  ten    : Nat
  pat    : Nat
  hostsh : Bool
deriving DecidableEq, Repr

/-- A pattern slot's table (R363): owner tenancy (none for a standard pattern), flags, descriptors and entries. -/
structure Pattern where
  ten    : Option Nat
  idtag  : BitVec 32
  upd    : Bool
  masks  : Bool
  sdesc  : List (BitVec 8)
  entry  : List (BitVec 32)
deriving DecidableEq, Repr

/-- A record of a stream: its number, log offset, the bytes skipped before it, and its header block and payload (R340). -/
structure PressRec where
  seq   : Nat
  off   : Nat
  skip  : Nat
  bytes : List Byte
deriving DecidableEq, Repr

/-- A Press stream (R339 to R345, R405): its binding and region, what its control page holds, the last number assigned, where the last
assigned record ends, and the records from TRIMSEQ on. -/
structure Stream where
  ctx     : Option Nat
  va      : Nat
  pa      : Nat
  len     : Nat
  dseq    : Nat
  trimseq : Nat
  head    : Nat
  tailoff : Nat
  last    : Nat
  nextOff : Nat
  recs    : List PressRec
deriving DecidableEq, Repr

/-- A Seam port (R379 to R381). -/
structure Port where
  /-- Last delivered; next to send; one past the newest in the replay buffer; last acknowledged: modulo 4,096. -/
  rx      : BitVec 12
  tx      : BitVec 12
  top     : BitVec 12
  acked   : BitVec 12
  /-- The flit from which the sender resends, if a replay is outstanding. -/
  replay  : Option (BitVec 12)
  /-- A replay request that this receiver has sent, naming the last delivered number. -/
  asked   : Option (BitVec 12)
  /-- Bit l: lane l has failed; the lanes in use. -/
  failed  : BitVec 16
  lanes   : BitVec 16
  training : Bool
  /-- Since when it retrains (R381, R401). -/
  since   : Nat
  down    : Bool
  thresh  : Nat
  peers   : List Nat
deriving DecidableEq, Repr

/-- A collective group of a context (R384, R385). -/
structure Coll where
  ranks   : Nat
  rank    : Nat
  /-- The peers that it reaches over Ultra Ethernet; the others over Seam. -/
  ue      : List Nat
  attempt : BitVec 16
  /-- Source bytes that peers have sent in this attempt, by rank. -/
  inbox   : Table (List Byte)
  /-- Abort tokens sent to the other ranks. -/
  tokens  : Nat
deriving DecidableEq, Repr

/-- An HBM stack (R329, R332, R333). -/
structure Stack where
  limit     : Nat
  activates : List Nat
  corrected : Nat
  alerts    : Nat
deriving DecidableEq, Repr

/-- A bank of a stack (R333): postponed refreshes; refreshes owed before it accepts an activate; an alert waits. -/
structure Bank where
  postponed : Nat
  owed      : Nat
  alert     : Bool
deriving DecidableEq, Repr

/-- A CXL port (R334, R335). -/
structure CxlPort where
  window : Nat
  down   : Bool
deriving DecidableEq, Repr

/-- A core's Trier state (R376, R377). -/
structure Trier where
  last    : Nat
  running : Option Nat
  /-- The time by which a launch that needs the core has it (R376, R401). -/
  abortBy : Option Nat
deriving DecidableEq, Repr

/-- Service firmware's banks (R393): the one in use, whether a switch waits, and the image in each. -/
structure Firmware where
  bank    : Bool
  pending : Bool
  image0  : List Byte
  image1  : List Byte
deriving DecidableEq, Repr

/-- The fragment that issues. -/
structure Cur where
  core : Nat
  slot : Nat
  frag : Nat
deriving DecidableEq, Repr

/-- The device. -/
structure State where
  /-- The device time counter (R2). -/
  time      : Nat
  /-- MODEL'S OWN. How many free values have been used (log entry 2). -/
  free      : Nat
  /-- MODEL'S OWN. What moves next, and who issues (log entry 1). -/
  script    : List Turn
  cur       : Option Cur
  -- memory
  mem       : Memory
  /-- The iwords that the cores' instruction caches hold, by core * 2^54 + key (R3, R43). -/
  icache    : Table Iword
  flight    : List Flight
  bolts     : List Bolt
  /-- The 16-byte granules that read as poisoned at their home (R331), the 64-byte blocks with the poison bit of their sideband set (R328,
  R330), and the erroneous symbols of HBM rows (R329). -/
  poison    : List Nat
  badBlocks : List Nat
  badSyms   : Table (List Nat)
  /-- MODEL'S OWN. Groups whose next instruction reads register, scratchpad, L1 or L2 data that is uncorrectable (R303, R311; log entry 55). -/
  sram      : List Nat
  tlb       : List TlbEntry
  invals    : List Inval
  -- homes and patterns
  ranges    : Table RangeEntry
  patterns  : Table Pattern
  dirs      : Table Dir
  marks     : List Nat
  plsrc     : Dword
  /-- PLCMD's fields; GO reads as 0 (R366). -/
  plcmd     : BitVec 32
  plstat    : BitVec 32
  pushes    : List Push
  /-- Recent strong accesses at the homes (R167). -/
  strongs   : List Strong
  -- flash
  resident  : List Nat
  reading   : List Nat
  busy      : List Nat
  -- cores
  groups    : Table Group
  frags     : Table Fragment
  fgens     : Table Nat
  handles   : Table Handle
  hgens     : Table Nat
  scratch   : Memory
  gauges    : Table Gauge
  sems      : Table Nat
  semq      : List SemWait
  /-- By semaphore, the time by which waiters that its counter satisfies have been served (R281, R401). -/
  wakeBy    : Table Nat
  /-- Semaphores that hold an increment released at `.dev` (R348). -/
  devSems   : List Nat
  mq        : Table (List MatrixOp)
  lastSlot  : Table Nat
  /-- The group slots that have issued in this dcy, by core (R242, R403). -/
  issued    : Table (List Nat)
  /-- What the cores' spatial predictors have learned, by core * 1,024 + entry (R171). -/
  spatial   : Table Nat
  -- engines
  chains    : Table Chain
  streams   : Table Stream
  colls     : Table Coll
  -- the Cutter
  teams     : Table Team
  saved     : Table SavedTeam
  nodes     : Table Node
  /-- Loads of groups that have ended, oldest first (R300). -/
  orphans   : List Orphan
  credits   : Table Nat
  deficits  : Table Nat
  lastTen   : Table Nat
  order     : Nat
  -- contexts and tenancies
  ctxs      : Table Ctx
  tens      : Table Ten
  devlog    : List Record
  /-- Outstanding interrupts by tenancy * 64 + vector, each with the contexts that it was raised for (R388, R389). -/
  pendingInt : Table (List Nat)
  -- memory tiers and fabric
  hbmStacks : Table Stack
  banks     : Table Bank
  /-- Idle dcy that the power controller inserts into the matrix engines' issue (R332). -/
  idleDcy   : Nat
  cxl       : Table CxlPort
  ports     : Table Port
  windows   : List (Nat × Nat × Nat × Nat)
  -- system
  accept    : Option (BitVec 8)
  offerReg  : BitVec 128
  mailbox   : List (Nat × Nat)
  revoked   : List Nat
  fw        : Firmware
  trier     : Table Trier
  coreMap   : Table Nat
  /-- The physical sites out of use, by die * 192 + site (R377). -/
  failedSites : List Nat
  withdrawn : List Nat
  lostDies  : List Nat
  powered   : Bool
deriving DecidableEq, Repr

/-- R71: a zero line, tagged RAW. -/
def Line.zero : Line := ⟨0, 0⟩

/-- R71, R243: the zero descriptor. -/
def TileDesc.zero : TileDesc := ⟨0, 0, 0, 0, 0, false, 0, 0⟩

/-- R253: an unused gauge: action off, bounds and hits 0. -/
def Gauge.off : Gauge := ⟨0, 0, false, 0, 0⟩

/-- The device after reset. Every table is empty (each entry then reads as the reset value its type gives); the device time
counter and every register start at zero (log entries 2, 7 and 10); FEATURE_ACCEPT is not yet written (R390). -/
def State.reset : State where
  time := 0
  free := 0
  script := []
  cur := none
  mem := []
  icache := []
  flight := []
  bolts := []
  poison := []
  badBlocks := []
  badSyms := []
  sram := []
  tlb := []
  invals := []
  ranges := []
  patterns := []
  dirs := []
  marks := []
  plsrc := 0
  plcmd := 0
  plstat := 0
  pushes := []
  strongs := []
  resident := []
  reading := []
  busy := []
  groups := []
  frags := []
  fgens := []
  handles := []
  hgens := []
  scratch := []
  gauges := []
  sems := []
  semq := []
  wakeBy := []
  devSems := []
  mq := []
  lastSlot := []
  issued := []
  spatial := []
  chains := []
  streams := []
  colls := []
  teams := []
  saved := []
  nodes := []
  orphans := []
  credits := []
  deficits := []
  lastTen := []
  order := 0
  ctxs := []
  tens := []
  devlog := []
  pendingInt := []
  hbmStacks := []
  banks := []
  idleDcy := 0
  cxl := []
  ports := []
  windows := []
  accept := none
  offerReg := Config.featureOffer.zeroExtend 128
  mailbox := []
  revoked := []
  fw := ⟨false, false, [], []⟩
  trier := []
  coreMap := []
  failedSites := []
  withdrawn := []
  lostDies := []
  powered := true

end Sys2Proof.Machine
end

