-- ==== Sys2Proof/Machine/Data.lean ====
section
/-! DEFINITION. Machine/Data.lean: operations on tables, memories, byte strings, lane masks and window lines. Little-endian byte order
(R10) is decided here, once. -/

namespace Sys2Proof.Machine

/-- The entry under `n`. -/
def Table.find {α : Type} : Table α → Nat → Option α
  | [], _ => none
  | (k, v) :: t, n => if k = n then some v else Table.find t n

/-- Sets the entry under `n`, keeping keys in rising order. -/
def Table.put {α : Type} : Table α → Nat → α → Table α
  | [], n, x => [(n, x)]
  | (k, v) :: t, n, x => if n = k then (n, x) :: t else if n < k then (n, x) :: (k, v) :: t else (k, v) :: Table.put t n x

/-- Removes the entry under `n`. -/
def Table.del {α : Type} (t : Table α) (n : Nat) : Table α := t.filter (fun e => e.1 != n)

/-- The entry under `n`, or the default that an unlisted key reads as. -/
def Table.getD {α : Type} (t : Table α) (d : α) (n : Nat) : α := (Table.find t n).getD d

/-- Sets what `n` reads as, listing no entry equal to the default. -/
def Table.setD {α : Type} [DecidableEq α] (t : Table α) (d : α) (n : Nat) (x : α) : Table α :=
  if x = d then Table.del t n else Table.put t n x

/-- Changes the entry under `n`, if there is one. -/
def Table.upd {α : Type} (t : Table α) (n : Nat) (f : α → α) : Table α :=
  match Table.find t n with
  | none => t
  | some x => Table.put t n (f x)

/-- Changes every entry. -/
def Table.mapV {α : Type} (t : Table α) (f : Nat → α → α) : Table α := t.map (fun e => (e.1, f e.1 e.2))

/-- Inserts a number into a rising list without repeats. -/
def insertNat : List Nat → Nat → List Nat
  | [], n => [n]
  | k :: t, n => if n = k then k :: t else if n < k then n :: k :: t else k :: insertNat t n

/-- Keys of addressed memory: tier * 2^52 + tier-local physical address (R157, R161). -/
def keyOf (tier pa : Nat) : Nat := tier * 2 ^ 52 + pa

/-- The tier of a key: 0 HBM, 1 second tier, 2 flash, 3 fabric. -/
def tierOf (key : Nat) : Nat := key / 2 ^ 52

/-- What an unlisted address reads as: erased flash 0xFF (R343, R345); HBM, the second tier and fabric 0 (log entry 8: the spec gives
their contents after power-on no value); scratchpad storage 0 (R178). -/
def Memory.dflt (key : Nat) : Byte := if tierOf key = 2 then 0xFF else 0

/-- Reads a byte of addressed memory. -/
def Memory.read (m : Memory) (key : Nat) : Byte := Table.getD m (Memory.dflt key) key

/-- Writes a byte of addressed memory. -/
def Memory.write (m : Memory) (key : Nat) (b : Byte) : Memory := Table.setD m (Memory.dflt key) key b

/-- The canonical form: keys strictly rising, no entry equal to what its address reads as unlisted. -/
def Memory.wf : Memory → Bool
  | [] => true
  | [(k, v)] => v != Memory.dflt k
  | (k, v) :: (k', v') :: t => v != Memory.dflt k && decide (k < k') && Memory.wf ((k', v') :: t)

/-- Reads `n` bytes from `key` on. -/
def Memory.reads (m : Memory) (key : Nat) : Nat → List Byte
  | 0 => []
  | n + 1 => m.read key :: m.reads (key + 1) n

/-- Writes bytes from `key` on. -/
def Memory.writes (m : Memory) (key : Nat) : List Byte → Memory
  | [] => m
  | b :: t => (m.write key b).writes (key + 1) t

/-- The little-endian number of a byte string (R10). -/
def leNat : List Byte → Nat
  | [] => 0
  | b :: t => b.toNat + 256 * leNat t

/-- The `n` bytes of a number, lowest first (R10). -/
def leBytes (x : Nat) : Nat → List Byte
  | 0 => []
  | n + 1 => BitVec.ofNat 8 x :: leBytes (x / 256) n

/-- Bytes `lo` to `lo` + `n` - 1 of a byte string as a number. -/
def leField (bs : List Byte) (lo n : Nat) : Nat := leNat ((bs.drop lo).take n)

/-- Reads a number of `n` bytes. -/
def Memory.readNat (m : Memory) (key n : Nat) : Nat := leNat (m.reads key n)

/-- Writes a number of `n` bytes. -/
def Memory.writeNat (m : Memory) (key n x : Nat) : Memory := m.writes key (leBytes x n)

/-- Bits `lo` to `lo` + `n` - 1 of a number. -/
def bits (x lo n : Nat) : Nat := x / 2 ^ lo % 2 ^ n

/-- A number of `n` bits read as two's complement. -/
def signed (n x : Nat) : Int := if x % 2 ^ n < 2 ^ (n - 1) then (x % 2 ^ n : Nat) else (x % 2 ^ n : Nat) - (2 ^ n : Nat)

/-- An integer modulo 2^n. -/
def wrap (n : Nat) (x : Int) : Nat := (x % (2 ^ n : Nat)).toNat

/-- Replaces the `n` bits of `x` from `lo` on. -/
def setBits {w : Nat} (x : BitVec w) (lo n : Nat) (v : Nat) : BitVec w :=
  (x &&& ~~~(BitVec.ofNat w ((2 ^ n - 1) * 2 ^ lo))) ||| BitVec.ofNat w (v % 2 ^ n * 2 ^ lo)

/-- The 32 lanes, ascending. -/
def lanes32 : List Nat := List.range 32

/-- The lanes of a mask, ascending. -/
def Mask.lanes (m : Mask) : List Nat := lanes32.filter m.getLsbD

/-- The mask of one lane. -/
def Mask.one (l : Nat) : Mask := 1#32 <<< l

/-- The mask of a list of lanes. -/
def Mask.of : List Nat → Mask
  | [] => 0
  | l :: t => Mask.one l ||| Mask.of t

/-- The lowest lane of a mask. -/
def Mask.leader (m : Mask) : Option Nat := (Mask.lanes m).head?

/-- Lane `l`'s slot of a line (R72). -/
def Line.slot (x : Line) (l : Nat) : Slot := x.bits.extractLsb' (32 * l) 32

/-- A line with lane `l`'s slot replaced. -/
def Line.setSlot (x : Line) (l : Nat) (v : Slot) : Line := ⟨setBits x.bits (32 * l) 32 v.toNat, x.tag⟩

/-- Byte `b` of a line. -/
def Line.byte (x : Line) (b : Nat) : Byte := x.bits.extractLsb' (8 * b) 8

/-- Line `n` of a group's window (R72). -/
def Group.line (g : Group) (n : Nat) : Line := Table.getD g.win Line.zero n

/-- Sets line `n`. -/
def Group.setLine (g : Group) (n : Nat) (x : Line) : Group := { g with win := Table.setD g.win Line.zero n x }

/-- Writes slots of line `n` and its tag (R82): nothing when no lane is given. -/
def Group.writeSlots (g : Group) (n : Nat) (tag : Nat) (vs : List (Nat × Slot)) : Group :=
  if vs.isEmpty then g
  else g.setLine n { vs.foldl (fun x v => x.setSlot v.1 v.2) (g.line n) with tag := BitVec.ofNat 5 tag }

/-- Byte `b` of the window. -/
def Group.byte (g : Group) (b : Nat) : Byte := (g.line (b / 128)).byte (b % 128)

/-- Bytes of the window. -/
def Group.bytes (g : Group) (b : Nat) : Nat → List Byte
  | 0 => []
  | n + 1 => g.byte b :: g.bytes (b + 1) n

/-- Writes bytes into the window and leaves tags alone. -/
def Group.setBytes (g : Group) (b : Nat) : List Byte → Group
  | [] => g
  | v :: t =>
    let x := g.line (b / 128)
    (g.setLine (b / 128) { x with bits := setBits x.bits (8 * (b % 128)) 8 v.toNat }).setBytes (b + 1) t

/-- Tags a line and leaves its data alone. -/
def Group.setTag (g : Group) (n tag : Nat) : Group := g.setLine n { g.line n with tag := BitVec.ofNat 5 tag }

/-- Tags the lines from `n` on. -/
def Group.setTags (g : Group) (n cnt tag : Nat) : Group := (List.range cnt).foldl (fun g i => g.setTag (n + i) tag) g

/-- The tag of line `n`. -/
def Group.tag (g : Group) (n : Nat) : Nat := (g.line n).tag.toNat

/-- Predicate `p` in every lane; 15 is `pt` (R77). -/
def Group.pred (g : Group) (p : Nat) : Mask := if p = 15 then BitVec.allOnes 32 else Table.getD g.preds 0 p

/-- Writes predicate `p` in the lanes of `m` from `v` (R234). -/
def Group.setPred (g : Group) (p : Nat) (m v : Mask) : Group :=
  { g with preds := Table.setD g.preds 0 p ((g.pred p &&& ~~~m) ||| (v &&& m)) }

/-- The lanes whose guard is true (R40). -/
def Group.guard (g : Group) (gd : Guard) : Mask :=
  if gd.neg then ~~~(g.pred gd.p.toNat) else g.pred gd.p.toNat

/-- The key of a core's group slot, fragment, handle, semaphore or gauge. -/
def slotKey (core slot : Nat) : Nat := core * 16 + slot
def fragKey (core fi : Nat) : Nat := core * 64 + fi
def handleKey (core idx : Nat) : Nat := core * 256 + idx
def semKey (core i : Nat) : Nat := core * 64 + i

/-- The group in a slot of a core. -/
def State.group? (s : State) (core slot : Nat) : Option Group := Table.find s.groups (slotKey core slot)

/-- Puts a group into a slot. -/
def State.putGroup (s : State) (core slot : Nat) (g : Group) : State :=
  { s with groups := Table.put s.groups (slotKey core slot) g }

/-- Changes a group. -/
def State.updGroup (s : State) (core slot : Nat) (f : Group → Group) : State :=
  { s with groups := Table.upd s.groups (slotKey core slot) f }

/-- The fragment under an index of a core's table (R17). -/
def State.frag? (s : State) (core fi : Nat) : Option Fragment := Table.find s.frags (fragKey core fi)

/-- Puts a fragment into the table. -/
def State.putFrag (s : State) (core fi : Nat) (f : Fragment) : State :=
  { s with frags := Table.put s.frags (fragKey core fi) f }

/-- Changes a fragment. -/
def State.updFrag (s : State) (core fi : Nat) (f : Fragment → Fragment) : State :=
  { s with frags := Table.upd s.frags (fragKey core fi) f }

/-- R17: frees a fragment entry; its generation advances modulo 4. -/
def State.freeFrag (s : State) (core fi : Nat) : State :=
  { s with frags := Table.del s.frags (fragKey core fi),
           fgens := Table.setD s.fgens 0 (fragKey core fi) ((Table.getD s.fgens 0 (fragKey core fi) + 1) % 4) }

/-- R16: a fragment's id: GEN over INDEX. -/
def State.fragId (s : State) (core fi : Nat) : Nat := Table.getD s.fgens 0 (fragKey core fi) * 64 + fi

/-- The fragments of a group, by index. -/
def State.fragsOf (s : State) (core slot : Nat) : List (Nat × Fragment) :=
  (List.range 64).filterMap (fun i =>
    match s.frag? core i with
    | some f => if f.slot = slot then some (i, f) else none
    | none => none)

/-- A context the device has not been given: no tenancy's, root 0, default lease (R206) and descheduling time (R310). -/
def Ctx.unused : Ctx :=
  ⟨0, 0, 0, .free, 2048, 65536, 0, none, [], [], 16, [], 0, 0⟩

/-- A context (R8: 1,024 of them). -/
def State.ctx (s : State) (c : Nat) : Ctx := Table.getD s.ctxs Ctx.unused c

/-- Changes a context. -/
def State.updCtx (s : State) (c : Nat) (f : Ctx → Ctx) : State :=
  { s with ctxs := Table.setD s.ctxs Ctx.unused c (f (s.ctx c)) }

/-- A tenancy's limits before service firmware sets them (log entry 9). -/
def Ten.unset : Ten := ⟨1, 0, 720, 1, 1, 1, 0, 64, [], 0, 0, 0, 0⟩

/-- A tenancy (R8: up to 64). -/
def State.ten (s : State) (t : Nat) : Ten := Table.getD s.tens Ten.unset t

/-- Changes a tenancy. -/
def State.updTen (s : State) (t : Nat) (f : Ten → Ten) : State :=
  { s with tens := Table.setD s.tens Ten.unset t (f (s.ten t)) }

/-- The next free value (log entry 2). -/
def State.freeVal (s : State) : Nat := (Config.free s.free).toNat

/-- A free value has been used. -/
def State.useFree (s : State) : State := { s with free := s.free + 1 }

/-- Device time reaches a moment, if it has not passed it. -/
def State.later (s : State) (t : Nat) : State := { s with time := max s.time t }

/-- Feature `k` is accepted (R390). -/
def State.feature (s : State) (k : Nat) : Bool :=
  match s.accept with
  | none => false
  | some a => a.getLsbD k

end Sys2Proof.Machine

namespace Sys2Proof.Machine.Cause

/-! The causes of R303 by name. -/

def unmapped : Nat := 0x001
def protect : Nat := 0x002
def flashStore : Nat := 0x003
def misaligned : Nat := 0x004
def badTarget : Nat := 0x005
def tableRange : Nat := 0x006
def regBound : Nat := 0x007
def handle : Nat := 0x008
def writeTwice : Nat := 0x009
def streamEnd : Nat := 0x00A
def illegalClass : Nat := 0x041
def illegalOpcode : Nat := 0x042
def illegalField : Nat := 0x043
def badHeader : Nat := 0x044
def tagMismatch : Nat := 0x045
def tagMixed : Nat := 0x046
def fragExhausted : Nat := 0x047
def privilege : Nat := 0x049
def tileShape : Nat := 0x04A
def chain : Nat := 0x04B
def arithBase : Nat := 0x081
def flashWait : Nat := 0x0C1
def flashStall : Nat := 0x0C2
def translation : Nat := 0x0C3
def serviceTimeout : Nat := 0x0C4
def desched : Nat := 0x0C5
def hbmUncorr : Nat := 0x101
def tier2Uncorr : Nat := 0x102
def flashUncorr : Nat := 0x103
def sramUncorr : Nat := 0x104
def residue : Nat := 0x105
def redundancy : Nat := 0x106
def linkDown : Nat := 0x107
def trierFail : Nat := 0x108
def mixedSize : Nat := 0x109
def preempt : Nat := 0x181
def kill : Nat := 0x182
def tenancyReset : Nat := 0x183
def scopeNarrowed : Nat := 0x184
def contextLost : Nat := 0x185
def collAbort : Nat := 0x186
def userBase : Nat := 0x1E0

end Sys2Proof.Machine.Cause
end

