-- ==== Sys2Proof/Machine/Fp.lean ====
section
/-! DEFINITION. Machine/Fp.lean: exact values, the number formats of R98 to R107, their rounding, and the float operations of R141 to
R149 on exact values. A finite value is a sign, a natural number and a power of two; an inexact one carries a sticky mark that it lies
strictly above its number. -/

namespace Sys2Proof.Machine

/-- The sticky flags, as bits of `gs.flags` (R303, R317). -/
def AF.invalid : BitVec 9 := 0x001
def AF.divZero : BitVec 9 := 0x002
def AF.overflow : BitVec 9 := 0x004
def AF.underflow : BitVec 9 := 0x008
def AF.inexact : BitVec 9 := 0x010
def AF.gauge : BitVec 9 := 0x020
def AF.accSat : BitVec 9 := 0x040
def AF.intOverflow : BitVec 9 := 0x080
def AF.residue : BitVec 9 := 0x100

/-- A value: a NaN, an infinity, or sign * m * 2^e. -/
inductive FV where
  | nan (signalling : Bool)
  | inf (neg : Bool)
  | fin (neg : Bool) (m : Nat) (e : Int)
deriving DecidableEq, Repr

/-- An IEEE-like format: exponent bits, fraction bits (R99, R105). -/
structure FloatFmt where
  eb : Nat
  fb : Nat
deriving DecidableEq, Repr

def F16 : FloatFmt := ⟨5, 10⟩
def BF16 : FloatFmt := ⟨8, 7⟩
def F32 : FloatFmt := ⟨8, 23⟩
def F64 : FloatFmt := ⟨11, 52⟩
def A56F : FloatFmt := ⟨11, 44⟩

/-- The exponent bias. -/
def FloatFmt.bias (f : FloatFmt) : Nat := 2 ^ (f.eb - 1) - 1

/-- The canonical NaN (R99, R105). -/
def FloatFmt.cnan (f : FloatFmt) : Nat := (2 ^ f.eb - 1) * 2 ^ f.fb + 2 ^ (f.fb - 1)

/-- An infinity. -/
def FloatFmt.infBits (f : FloatFmt) (neg : Bool) : Nat := neg.toNat * 2 ^ (f.eb + f.fb) + (2 ^ f.eb - 1) * 2 ^ f.fb

/-- The largest finite value. -/
def FloatFmt.maxBits (f : FloatFmt) (neg : Bool) : Nat := f.infBits neg - 1

/-- R99, R105: the value of an encoding. -/
def FloatFmt.value (f : FloatFmt) (x : Nat) : FV :=
  let neg := bits x (f.eb + f.fb) 1 == 1
  let ex := bits x f.fb f.eb
  let fr := bits x 0 f.fb
  if ex = 2 ^ f.eb - 1 then (if fr = 0 then .inf neg else .nan (bits x (f.fb - 1) 1 == 0))
  else if ex = 0 then .fin neg fr (1 - (f.bias : Int) - f.fb)
  else .fin neg (fr + 2 ^ f.fb) ((ex : Int) - f.bias - f.fb)

/-- R107: an encoding of a subnormal number. -/
def FloatFmt.subnormal (f : FloatFmt) (x : Nat) : Bool := bits x f.fb f.eb == 0 && bits x 0 f.fb != 0

/-- The rounding modes of R106: 1 RNE, 2 RTZ, 3 RTO. `n` is the number at or below, `rem` of `2^sh` what lies above it. -/
def roundUp (rm n rem sh : Nat) (sticky : Bool) : Bool :=
  let half := if sh = 0 then 1 else 2 ^ (sh - 1)
  match rm with
  | 2 => false
  | 3 => (rem != 0 || sticky) && n % 2 == 0
  | _ => if sh = 0 then false
         else decide (half < rem) || (rem == half && (sticky || n % 2 == 1))

/-- A magnitude rounded to a multiple of 2^q: the multiple, and whether it differs. -/
def roundAt (rm m : Nat) (e q : Int) (sticky : Bool) : Nat × Bool :=
  if q ≤ e then
    let n := m * 2 ^ (e - q).toNat
    ((if roundUp rm n 0 0 sticky then n + 1 else n), sticky)
  else
    let sh := min (q - e).toNat (Nat.log2 m + 3)
    let n := m / 2 ^ sh
    let rem := m % 2 ^ sh
    ((if roundUp rm n rem sh sticky then n + 1 else n), rem != 0 || sticky)

/-- R106: rounds a finite magnitude m * 2^e (sticky: and a little more) to an IEEE format: encoding and flags. -/
def FloatFmt.round (f : FloatFmt) (rm : Nat) (neg : Bool) (m : Nat) (e : Int) (sticky : Bool) : Nat × BitVec 9 :=
  let sgn := neg.toNat * 2 ^ (f.eb + f.fb)
  if m = 0 && !sticky then (sgn, 0)
  else
    let top := e + (Nat.log2 m : Int)
    let qmin := 1 - (f.bias : Int) - f.fb
    let q0 := top - f.fb
    let q := max q0 qmin
    let r := roundAt rm m e q sticky
    let carry := r.1 == 2 ^ (f.fb + 1)
    let n := if carry then 2 ^ f.fb else r.1
    let q' := if carry then q + 1 else q
    let tiny := top < 1 - (f.bias : Int) &&
      (let u := roundAt rm m e q0 sticky
       decide (q0 + (Nat.log2 u.1 : Int) < 1 - (f.bias : Int)))
    let ex : Int := q' + f.fb + f.bias
    if 2 ^ f.fb ≤ n && decide ((2 ^ f.eb - 1 : Int) ≤ ex) then
      ((if rm = 1 then f.infBits neg else f.maxBits neg), AF.overflow ||| AF.inexact)
    else
      let enc := if 2 ^ f.fb ≤ n then ex.toNat * 2 ^ f.fb + (n - 2 ^ f.fb) else n
      (sgn + enc, if r.2 then (if tiny then AF.inexact ||| AF.underflow else AF.inexact) else 0)

/-- R100, R106: rounds a value to an IEEE format; the flags of R106. -/
def FloatFmt.roundFV (f : FloatFmt) (rm : Nat) (x : FV) : Nat × BitVec 9 :=
  match x with
  | .nan _ => (f.cnan, 0)
  | .inf n => (f.infBits n, 0)
  | .fin n m e => f.round rm n m e false

-- J8 (R101, R102).

/-- Mantissa width and bias of J8E4 (13) or J8E5 (14). -/
def j8Mant (t : Nat) : Nat := if t = 13 then 3 else 2
def j8Bias (t : Nat) : Nat := if t = 13 then 7 else 15

/-- The magnitude of code `c`, 1 to 0x80, of a J8 format as m * 2^e; 0x80 stands for the next value of an unbounded exponent. -/
def j8Mag (t c : Nat) : Nat × Int := (c % 2 ^ j8Mant t + 2 ^ j8Mant t, (c / 2 ^ j8Mant t : Nat) - (j8Bias t : Int) - j8Mant t)

/-- R101: the value of a J8 code. -/
def j8Value (t x : Nat) : FV :=
  if x = 0 then .fin false 0 0
  else if x = 0x80 then .nan false
  else
    let r := j8Mag t (x % 128)
    .fin (x / 128 == 1) r.1 r.2

/-- Compares m * 2^e with k * 2^g. -/
def cmpMag (m : Nat) (e : Int) (k : Nat) (g : Int) : Ordering :=
  if m = 0 || k = 0 then compare m k
  else
    let a := e + (Nat.log2 m : Int)
    let b := g + (Nat.log2 k : Int)
    if a < b then .lt else if b < a then .gt
    else if e ≤ g then compare m (k * 2 ^ (g - e).toNat) else compare (m * 2 ^ (e - g).toNat) k

/-- The largest code, 0 to 0x80, whose magnitude is at most m * 2^e. -/
def j8Floor (t m : Nat) (e : Int) : Nat :=
  (List.range 0x80).foldl (fun acc c => let r := j8Mag t (c + 1); if cmpMag r.1 r.2 m e = .gt then acc else c + 1) 0

/-- Twice the distance comparison of R106: m * 2^e against the middle of codes `a` and `a` + 1. -/
def j8Middle (t m : Nat) (e : Int) (a : Nat) : Ordering :=
  let lo : Nat × Int := if a = 0 then (0, 0) else j8Mag t a
  let hi := j8Mag t (a + 1)
  let g := min (min lo.2 hi.2) (e + 1)
  compare (m * 2 ^ (e + 1 - g).toNat) (lo.1 * 2 ^ (lo.2 - g).toNat + hi.1 * 2 ^ (hi.2 - g).toNat)

/-- R101, R102, R106: rounds a value to a J8 format. -/
def j8Round (t rm : Nat) (x : FV) : Nat × BitVec 9 :=
  match x with
  | .nan _ => (0x80, 0)
  | .inf n => (0x7F + 128 * n.toNat, AF.overflow ||| AF.inexact)
  | .fin n m e =>
    if m = 0 then (0, 0)
    else
      let a := j8Floor t m e
      let exact : Bool := a != 0 && (let r := j8Mag t a; cmpMag r.1 r.2 m e == .eq)
      let sgn := 128 * n.toNat
      if 0x80 ≤ a then (sgn + 0x7F, AF.overflow ||| AF.inexact)
      else if exact then (sgn + a, 0)
      else
        let up := match rm with
          | 2 => false
          | 3 => a % 2 == 0
          | _ => match j8Middle t m e a with
            | .gt => true
            | .eq => a % 2 == 1
            | .lt => false
        let c := if up then a + 1 else a
        if c = 0x80 then (sgn + 0x7F, AF.overflow ||| AF.inexact)
        else ((if c = 0 then 0 else sgn + c), if a = 0 then AF.underflow ||| AF.inexact else AF.inexact)

-- Values by tag.

/-- The IEEE format of a float tag. -/
def fmtOf (t : Nat) : FloatFmt :=
  match t with
  | 9 => F16
  | 10 => BF16
  | 11 => F32
  | 23 => A56F
  | _ => F64

/-- The exact value of an integer. -/
def FV.ofInt (x : Int) : FV := .fin (decide (x < 0)) x.natAbs 0

/-- R98: an element read by an integer tag. -/
def ival (t w x : Nat) : Int := if 1 ≤ t && t ≤ 4 then signed w x else (x % 2 ^ w : Nat)

/-- R98, R99, R101: the value of an element by its tag (1 to 14); RAW and MASK read as natural numbers. -/
def valueOf (t w x : Nat) : FV :=
  if t = 13 || t = 14 then j8Value t (x % 256)
  else if 9 ≤ t && t ≤ 12 then (fmtOf t).value x
  else FV.ofInt (ival t w x)

/-- A value as an integer rounded under a mode: number, and whether it was integral (R106). -/
def roundInt (rm : Nat) (neg : Bool) (m : Nat) (e : Int) : Int × Bool :=
  let r := roundAt rm m e 0 false
  (if neg then -(r.1 : Int) else r.1, !r.2)

/-- Compares two values as numbers; none when one is a NaN. Zeros are equal. -/
def FV.cmp (a b : FV) : Option Ordering :=
  match a, b with
  | .nan _, _ => none
  | _, .nan _ => none
  | .inf n, .inf k => some (if n = k then .eq else if n then .lt else .gt)
  | .inf n, _ => some (if n then .lt else .gt)
  | _, .inf k => some (if k then .gt else .lt)
  | .fin n m e, .fin k p g =>
    some (if m = 0 && p = 0 then .eq
      else if m = 0 then (if k then .gt else .lt)
      else if p = 0 then (if n then .lt else .gt)
      else if n && !k then .lt
      else if !n && k then .gt
      else if n then (cmpMag m e p g).swap else cmpMag m e p g)

/-- R142: the lesser number, with -0 below +0: whether the first is it. -/
def FV.less (a b : FV) : Bool :=
  match a.cmp b with
  | some .lt => true
  | some .eq => (match a with | .fin n _ _ => n | .inf n => n | .nan _ => false)
  | _ => false

/-- Negates a value. -/
def FV.neg : FV → FV
  | .nan s => .nan s
  | .inf n => .inf (!n)
  | .fin n m e => .fin (!n) m e

/-- A signalling NaN. -/
def FV.isSnan : FV → Bool
  | .nan s => s
  | _ => false

/-- A NaN. -/
def FV.isNan : FV → Bool
  | .nan _ => true
  | _ => false

/-- R141: the exact sum, with AF_INVALID for infinities of opposite sign; an exact zero sum of opposite signs is +0 (R100). -/
def FV.add (a b : FV) : FV × BitVec 9 :=
  match a, b with
  | .nan _, _ => (.nan false, 0)
  | _, .nan _ => (.nan false, 0)
  | .inf n, .inf k => if n = k then (.inf n, 0) else (.nan false, AF.invalid)
  | .inf n, _ => (.inf n, 0)
  | _, .inf k => (.inf k, 0)
  | .fin n m e, .fin k p g =>
    if m = 0 && p = 0 then (.fin (n && k) 0 0, 0)
    else if m = 0 then (.fin k p g, 0)
    else if p = 0 then (.fin n m e, 0)
    else
      let q := min e g
      let x : Int := (if n then -1 else 1) * (m * 2 ^ (e - q).toNat : Nat)
      let y : Int := (if k then -1 else 1) * (p * 2 ^ (g - q).toNat : Nat)
      (.fin (decide (x + y < 0)) (x + y).natAbs q, 0)

/-- R141: the exact product, with AF_INVALID for 0 times an infinity. -/
def FV.mul (a b : FV) : FV × BitVec 9 :=
  match a, b with
  | .nan _, _ => (.nan false, 0)
  | _, .nan _ => (.nan false, 0)
  | .inf n, .inf k => (.inf (n != k), 0)
  | .inf n, .fin k p _ => if p = 0 then (.nan false, AF.invalid) else (.inf (n != k), 0)
  | .fin n m _, .inf k => if m = 0 then (.nan false, AF.invalid) else (.inf (n != k), 0)
  | .fin n m e, .fin k p g => (.fin (n != k) (m * p) (e + g), 0)

/-- An exact value, or one known to lie strictly above its number: what `fout` rounds (R140). -/
structure Exact where
  v      : FV
  sticky : Bool := false
  flags  : BitVec 9 := 0
deriving DecidableEq, Repr

/-- R141: the quotient to 128 bits beyond the divisor, with a sticky mark. -/
def FV.div (a b : FV) : Exact :=
  match a, b with
  | .nan _, _ => ⟨.nan false, false, 0⟩
  | _, .nan _ => ⟨.nan false, false, 0⟩
  | .inf _, .inf _ => ⟨.nan false, false, AF.invalid⟩
  | .inf n, .fin k _ _ => ⟨.inf (n != k), false, 0⟩
  | .fin n _ _, .inf k => ⟨.fin (n != k) 0 0, false, 0⟩
  | .fin n m e, .fin k p g =>
    if p = 0 then (if m = 0 then ⟨.nan false, false, AF.invalid⟩ else ⟨.inf (n != k), false, AF.divZero⟩)
    else if m = 0 then ⟨.fin (n != k) 0 0, false, 0⟩
    else
      let sh := Nat.log2 p + 128
      ⟨.fin (n != k) (m * 2 ^ sh / p) (e - g - sh), m * 2 ^ sh % p != 0, 0⟩

/-- Newton's step for the integer square root, from above. -/
def isqrtFrom (n : Nat) : Nat → Nat → Nat
  | 0, x => x
  | k + 1, x => let y := (x + n / x) / 2; if y < x then isqrtFrom n k y else x

/-- The integer square root. -/
def isqrt (n : Nat) : Nat := if n = 0 then 0 else isqrtFrom n (Nat.log2 n + 8) (2 ^ (Nat.log2 n / 2 + 1))

/-- R141: the square root to at least 64 bits, with a sticky mark. -/
def FV.sqrt (a : FV) : Exact :=
  match a with
  | .nan _ => ⟨.nan false, false, 0⟩
  | .inf n => if n then ⟨.nan false, false, AF.invalid⟩ else ⟨.inf false, false, 0⟩
  | .fin n m e =>
    if m = 0 then ⟨.fin n 0 0, false, 0⟩
    else if n then ⟨.nan false, false, AF.invalid⟩
    else
      let m' := if e % 2 = 0 then m * 2 ^ 160 else m * 2 ^ 161
      let e' := if e % 2 = 0 then (e - 160) / 2 else (e - 161) / 2
      let r := isqrt m'
      ⟨.fin false r e', r * r != m', 0⟩

/-- R144: the reciprocal square root: the root of 2^k / m with a sticky mark. -/
def FV.rsqrt (a : FV) : Exact :=
  match a with
  | .nan _ => ⟨.nan false, false, 0⟩
  | .inf n => if n then ⟨.nan false, false, AF.invalid⟩ else ⟨.fin false 0 0, false, 0⟩
  | .fin n m e =>
    if m = 0 then ⟨.inf n, false, AF.divZero⟩
    else if n then ⟨.nan false, false, AF.invalid⟩
    else
      let k := 2 * Nat.log2 m + 320 + (if e % 2 = 0 then 0 else 1)
      let q := 2 ^ k / m
      let r := isqrt q
      ⟨.fin false r ((-e - k) / 2), r * r != q || 2 ^ k % m != 0, 0⟩

-- Transcendental functions (R145). Fixed point with `k` fraction bits; every truncation loses less than one unit, and the bounds given
-- below are wider than the units lost.

/-- The sum of u^i / (2i + 1) * s^i over i < n, for u in fixed point; s is the alternating sign. -/
def atanSum (k : Nat) (u : Nat) (alt : Bool) : Nat → Nat → Nat → Int
  | 0, _, _ => 0
  | n + 1, i, p =>
    let t : Int := (p / (2 * i + 1) : Nat)
    (if alt && i % 2 == 1 then -t else t) + atanSum k u alt n (i + 1) (p * u / 2 ^ k)

/-- pi in fixed point (Machin). -/
def piFix (k : Nat) : Nat :=
  let g := k + 16
  let at_ : Nat → Int := fun q => atanSum g (2 ^ g / (q * q)) true g 0 (2 ^ g) / q
  ((16 * at_ 5 - 4 * at_ 239) / 2 ^ 16).toNat

/-- ln 2 in fixed point: 2 atanh (1/3). -/
def ln2Fix (k : Nat) : Nat :=
  let g := k + 16
  (2 * atanSum g (2 ^ g / 9) false g 0 (2 ^ g) / 3 / 2 ^ 16).toNat

/-- The sum of x^i / i! over i < n, from term `t` on. -/
def expSum (k x : Nat) : Nat → Nat → Nat → Nat
  | 0, _, _ => 0
  | n + 1, i, t => t + expSum k x n (i + 1) (t * x / 2 ^ k / (i + 1))

/-- The alternating sum 1 - u/(a(a+1)) + u^2/(a(a+1)(a+2)(a+3)) - ...: the series of sin x / x (a = 2) and cos x (a = 1) in u = x^2. -/
def trigSum (k u : Nat) : Nat → Nat → Nat → Int
  | 0, _, _ => 0
  | n + 1, a, t => (t : Int) - trigSum k u n (a + 2) (t * u / 2 ^ k / (a * (a + 1)))

/-- Bounds of a positive value: it lies strictly between lo * 2^e and hi * 2^e. -/
structure Bounds where
  lo : Nat
  hi : Nat
  e  : Int
deriving DecidableEq, Repr

/-- 2^f for 0 < f < 1, f = m * 2^e: it lies between 1 and 2. -/
def exp2Bounds (k m : Nat) (e : Int) : Bounds :=
  let f := if 0 ≤ e + k then m * 2 ^ (e + k).toNat else m / 2 ^ min (-(e + k)).toNat (Nat.log2 m + 1)
  let v := expSum k (f * ln2Fix k / 2 ^ k) k 0 (2 ^ k)
  ⟨max (v - 2 ^ 16) (2 ^ k), min (v + 2 ^ 16) (2 ^ (k + 1)), -k⟩

/-- |log2 x| for x = m * 2^e not a power of two: sign and bounds. -/
def log2Bounds (k m : Nat) (e : Int) : Bool × Bounds :=
  let l := Nat.log2 m
  -- y = m / 2^l lies in (1, 2); above 3/2 it is halved
  let big := decide (3 * 2 ^ l < 2 * m)
  let ex : Int := e + l + (if big then 1 else 0)
  let den : Nat := if big then 2 * 2 ^ l else 2 ^ l
  -- z = (y - 1) / (y + 1), and ln y = 2 z (1 + z^2/3 + ...)
  let num : Int := (m : Int) - den
  let lz := Nat.log2 num.natAbs
  let up : Nat := k + Nat.log2 (m + den) - lz
  let z : Nat := num.natAbs * 2 ^ up / (m + den)
  let zk : Nat := if up ≤ k then z * 2 ^ (k - up) else z / 2 ^ (up - k)
  let s := (atanSum k (zk * zk / 2 ^ k) false k 0 (2 ^ k)).toNat
  -- log2 y = 2 z s / ln 2, a number of `up` fraction bits with k significant
  let r : Nat := 2 * z * s / ln2Fix k
  if ex = 0 then (decide (num < 0), ⟨r - 2 ^ 16, r + 2 ^ 16, -up⟩)
  else
    let rk : Int := (if up ≤ k then r * 2 ^ (k - up) else r / 2 ^ (up - k) : Nat)
    let v := ex * 2 ^ k + (if num < 0 then -rk else rk)
    (decide (v < 0), ⟨v.natAbs - 2 ^ 16, v.natAbs + 2 ^ 16, -k⟩)

/-- sin (pi t) for 0 < t <= 1/4, t = m * 2^e. -/
def sinBounds (k m : Nat) (e : Int) : Bounds :=
  let t := if 0 ≤ e + k then m * 2 ^ (e + k).toNat else m / 2 ^ min (-(e + k)).toNat (Nat.log2 m + 1)
  let x := t * piFix k / 2 ^ k
  let s := (trigSum k (x * x / 2 ^ k) k 2 (2 ^ k)).toNat
  let v := s * piFix k / 2 ^ k
  ⟨(v - 2 ^ 16) * m, (v + 2 ^ 16) * m, e - k⟩

/-- cos (pi t) for 0 < t <= 1/4. -/
def cosBounds (k m : Nat) (e : Int) : Bounds :=
  let t := if 0 ≤ e + k then m * 2 ^ (e + k).toNat else m / 2 ^ min (-(e + k)).toNat (Nat.log2 m + 1)
  let x := t * piFix k / 2 ^ k
  let v := (trigSum k (x * x / 2 ^ k) k 1 (2 ^ k)).toNat
  ⟨v - 2 ^ 16, min (v + 2 ^ 16) (2 ^ k), -k⟩

/-- R145: the rounding that every value within the bounds has, if they all have one. -/
def Bounds.round (b : Bounds) (f : FloatFmt) (rm : Nat) (neg : Bool) : Option (Nat × BitVec 9) :=
  let x := f.round rm neg b.lo b.e true
  let y := f.round rm neg (b.hi - 1) b.e true
  if x = y then some x else none

/-- R145: correct rounding by raising the precision until it is decided; the last resort is a free value (log entry 5). -/
def refine (f : FloatFmt) (rm : Nat) (bounds : Nat → Bool × Bounds) : Nat × BitVec 9 :=
  match [160, 288, 544].findSome? (fun k => let r := bounds k; r.2.round f rm r.1) with
  | some r => r
  | none => let r := bounds 544; f.round rm r.1 (Config.undecided r.2.lo r.2.hi) r.2.e true

/-- R145: 2^a, given as its encoding and flags. -/
def fexp2 (f : FloatFmt) (rm : Nat) (a : FV) : Nat × BitVec 9 :=
  match a with
  | .nan _ => (f.cnan, 0)
  | .inf n => (if n then 0 else f.infBits false, 0)
  | .fin n m e =>
    if m = 0 then f.round rm false 1 0 false
    else
      -- floor and fraction of a
      let sh := min (-e).toNat (Nat.log2 m + 1)
      let ip : Nat := if 0 ≤ e then m * 2 ^ min e.toNat 1100 else m / 2 ^ sh
      let fr : Nat := if 0 ≤ e then 0 else m % 2 ^ sh
      if fr = 0 then f.round rm false 1 (if n then -(ip : Int) else ip) false
      else
        -- a fraction fr * 2^e', where e' = e: the bits below one
        let fl : Int := if n then -(ip : Int) - 1 else ip
        let fr' : Nat := if n then 2 ^ (-e).toNat - fr else fr
        refine f rm (fun k => let b := exp2Bounds k fr' e; (false, { b with e := b.e + fl }))

/-- R145: log2 a. -/
def flog2 (f : FloatFmt) (rm : Nat) (a : FV) : Nat × BitVec 9 :=
  match a with
  | .nan _ => (f.cnan, 0)
  | .inf n => if n then (f.cnan, AF.invalid) else (f.infBits false, 0)
  | .fin n m e =>
    if m = 0 then (f.infBits true, AF.divZero)
    else if n then (f.cnan, AF.invalid)
    else if m = 2 ^ Nat.log2 m then f.roundFV rm (FV.ofInt (e + Nat.log2 m))
    else refine f rm (fun k => log2Bounds k m e)

/-- The magnitude modulo 2 of m * 2^e as a number of quarters and a remainder below one quarter: in units of 2^e' with e' <= -2. -/
def quarters (m : Nat) (e : Int) : Nat × Nat × Int :=
  let e' := min e (-2)
  let x := m * 2 ^ (e - e').toNat
  let unit := 2 ^ (-2 - e').toNat
  (x / unit % 8, x % unit, e')

/-- R145: sin (pi a); `quarter` 2 turns it into cos (pi a). -/
def trigPi (f : FloatFmt) (rm : Nat) (cosine neg : Bool) (m : Nat) (e : Int) : Nat × BitVec 9 :=
  if 2 ≤ e && !cosine then (neg.toNat * 2 ^ (f.eb + f.fb), 0)
  else if 2 ≤ e then f.round rm false 1 0 false
  else
    let q := quarters m e
    -- angle = (q.1 / 4 + rest) * pi
    let half := 2 ^ (-2 - q.2.2).toNat
    let oct := if cosine then (q.1 + 2) % 8 else q.1
    -- sin of oct quarters and a rest: the second half of the circle is negative
    let s := decide (4 ≤ oct) != (neg && !cosine)
    let o := oct % 4
    let rest := q.2.1
    if rest = 0 then
      match o with
      | 0 => ((if cosine then 0 else neg.toNat * 2 ^ (f.eb + f.fb)), 0)
      | 2 => f.round rm s 1 0 false
      | _ => refine f rm (fun k => (s, cosBounds k half q.2.2))
    else
      match o with
      | 0 => refine f rm (fun k => (s, sinBounds k rest q.2.2))
      | 1 => refine f rm (fun k => (s, cosBounds k (half - rest) q.2.2))
      | 2 => refine f rm (fun k => (s, cosBounds k rest q.2.2))
      | _ => refine f rm (fun k => (s, sinBounds k (half - rest) q.2.2))

/-- R145: sin (pi a) or cos (pi a). -/
def ftrig (cosine : Bool) (f : FloatFmt) (rm : Nat) (a : FV) : Nat × BitVec 9 :=
  match a with
  | .nan _ => (f.cnan, 0)
  | .inf _ => (f.cnan, AF.invalid)
  | .fin n m e =>
    if m = 0 then (if cosine then f.round rm false 1 0 false else (n.toNat * 2 ^ (f.eb + f.fb), 0))
    else trigPi f rm cosine n m e

end Sys2Proof.Machine
end

