-- ==== Sys2Proof/Machine/Fields.lean ====
section
/-! DEFINITION. Machine/Fields.lean: the operand fields of R48 and the static field checks of every instruction (R42, R48 to R54 and each
class's slot table): a word that fails one raises GF_ILLEGAL_FIELD whatever the state holds. The checks that need a tag or a stream binding
are made on the state (Machine/Operands.lean). -/

namespace Sys2Proof

/-- R48: what a 10-bit register operand field holds. -/
def operandOf (x : BitVec 10) : Operand :=
  let n := x.toNat
  if n < 0x3C0 then .v n
  else if n < 0x3E0 then
    match n - 0x3C0 with
    | 0 => .sr .lane | 1 => .sr .grp | 2 => .sr .team | 3 => .sr .core | 4 => .sr .clus | 5 => .sr .teamidx
    | 6 => .sr .cause | 7 => .sr .fpc | 8 => .sr .frag | 9 => .sr .ufc | 10 => .sr .zero | 11 => .sr .one
    | _ => .reserved
  else if n < 0x3E8 then .port (n - 0x3E0)
  else .reserved

namespace Fld

/-- A v-register (R48). -/
def isV (x : BitVec 10) : Bool := x.toNat < 0x3C0

/-- An even v-register, the first of a pair (R73, R49). -/
def isPair (x : BitVec 10) : Bool := x.toNat < 0x3C0 && x.toNat % 2 == 0

/-- `sr.zero`. -/
def isZero (x : BitVec 10) : Bool := x.toNat == 0x3CA

/-- `sr.zero` or `sr.one`. -/
def isZeroOne (x : BitVec 10) : Bool := x.toNat == 0x3CA || x.toNat == 0x3CB

/-- A special register (R48). -/
def isSpecial (x : BitVec 10) : Bool := 0x3C0 ≤ x.toNat && x.toNat ≤ 0x3CB

/-- A stream port (R48). -/
def isPort (x : BitVec 10) : Bool := 0x3E0 ≤ x.toNat && x.toNat ≤ 0x3E7

/-- A source slot that takes every operand of R48. -/
def src (x : BitVec 10) : Bool := isV x || isSpecial x || isPort x

/-- A source slot that takes registers and specials but no stream port (R49). -/
def srcNoPort (x : BitVec 10) : Bool := isV x || isSpecial x

/-- A destination slot that takes a v-register or a write port (R49, R124). -/
def dst (x : BitVec 10) : Bool := isV x || isPort x

/-- One port named as a source and as the destination of one instruction (R89). -/
def portClash (d : BitVec 10) (srcs : List (BitVec 10)) : Bool := isPort d && srcs.contains d

/-- An expected-tag field (R52). -/
def etag (x : BitVec 5) : Bool := x.toNat ≤ 24 || x.toNat == 31

/-- A scope field (R53). -/
def scope (n : Nat) : Bool := n ≤ 4

/-- The control slot of R126: `sat` says whether the table allows SAT. -/
def control (sat : Bool) (c : BitVec 10) : Bool := c.toNat < 64 || (sat && c.toNat < 128)

end Fld

namespace WF

open Fld

/-- Two format sources and a control slot (R129, R139). -/
def abControl (sat rounds : Bool) (f : FmtV) : Bool :=
  dst f.d && src f.a && src f.b && control sat f.c && etag f.etag && (rounds || f.rm == 0)
    && !portClash f.d [f.a, f.b]

/-- One format source and a control slot. -/
def aControl (sat rounds : Bool) (f : FmtV) : Bool :=
  dst f.d && src f.a && f.b == 0 && control sat f.c && etag f.etag && (rounds || f.rm == 0) && !portClash f.d [f.a]

/-- Three sources. -/
def abc (rounds : Bool) (f : FmtV) : Bool :=
  dst f.d && src f.a && src f.b && src f.c && etag f.etag && (rounds || f.rm == 0) && !portClash f.d [f.a, f.b, f.c]

/-- Two sources and a slot C of zero. -/
def ab0 (f : FmtV) : Bool :=
  dst f.d && src f.a && src f.b && f.c == 0 && etag f.etag && f.rm == 0 && !portClash f.d [f.a, f.b]

/-- One source and slots B and C of zero. -/
def a00 (f : FmtV) : Bool :=
  dst f.d && src f.a && f.b == 0 && f.c == 0 && etag f.etag && f.rm == 0 && !portClash f.d [f.a]

/-- One source, slot B zero, slot C a number below `n`. -/
def a0num (ok : Nat → Bool) (rounds : Bool) (f : FmtV) : Bool :=
  dst f.d && src f.a && f.b == 0 && ok f.c.toNat && etag f.etag && (rounds || f.rm == 0) && !portClash f.d [f.a]

/-- A class 0x3 row with one format source (R151). -/
def imm (f : FmtI) : Bool := dst f.d && src f.a && etag f.etag && !portClash f.d [f.a]

/-- A class 0x3 shift: IMM16[15:6] and Z are zero (R151). -/
def immShift (f : FmtI) : Bool := imm f && f.imm.toNat < 64 && !f.z

/-- A base operand of format M (R57): an even v-register or `sr.zero`. -/
def base (x : BitVec 10) : Bool := isPair x || isZero x

/-- DATA as a load's destination: a pair's first register is even (R49). -/
def loadData (port : Bool) (f : FmtM) : Bool :=
  (isV f.data && (f.size.toNat != 3 || f.data.toNat % 2 == 0)) || (port && isPort f.data)

/-- DATA as a store's source. -/
def storeData (port : Bool) (f : FmtM) : Bool :=
  (isV f.data && (f.size.toNat != 3 || f.data.toNat % 2 == 0)) || isSpecial f.data || (port && isPort f.data)

/-- DATA of ATOM, ATOMF and CAS: both read and written, so neither a special register nor a port (R49, R89). -/
def rmwData (f : FmtM) : Bool := isV f.data && (f.size.toNat != 3 || f.data.toNat % 2 == 0)

/-- LD and LDU (R183, R184). -/
def load (f : FmtM) : Bool :=
  base f.base && f.size.toNat ≤ 4 && loadData true f && !(f.size.toNat == 4 && f.mod.toNat ≥ 8)

/-- The length operand of FLUSH, INV and ZERO (R183): a line for SIZE 2, a pair for SIZE 3. -/
def lengthReg (f : FmtM) : Bool :=
  (f.size.toNat == 2 && srcNoPort f.data) || (f.size.toNat == 3 && (isPair f.data || isSpecial f.data))

/-- The handle, row and column slots of LDT and STT (R183). -/
def handleRegs (f : FmtM) : Bool :=
  srcNoPort f.base && srcNoPort (f.off.extractLsb' 10 10) && srcNoPort (f.off.extractLsb' 0 10)

/-- A tile slot (R51, R255). -/
def tile (x : BitVec 10) : Bool := x.toNat ≤ 15

/-- An accumulator slot (R51, R255). -/
def acc (x : BitVec 10) : Bool := x.toNat ≤ 7

/-- A gauge slot of GSET and GGET: 1 to 63 (R255). -/
def gauge (x : BitVec 10) : Bool := 1 ≤ x.toNat && x.toNat ≤ 63

/-- A register source of class 0x9 (R291): a v-register, `sr.zero` or `sr.one`. -/
def eReg (x : BitVec 10) : Bool := isV x || isZeroOne x

/-- An address pair of class 0x9. -/
def ePair (x : BitVec 10) : Bool := isPair x || isZeroOne x

/-- SEMADD, SEMWAIT and SEMREAD apart from slot A (R291). -/
def sem (modMax : Nat) (f : FmtE) : Bool :=
  (if f.mod.toNat % 2 == 1 then eReg f.b else f.b == 0) && f.c == 0 && f.n.toNat < 64 && f.mod.toNat ≤ modMax

/-- A pair of a BRM extension iword (R59, R223): NEG with `pt` must have a zero offset. -/
def brmPair (p : BitVec 32) : Bool := p.extractLsb' 27 5 != 31 || p.extractLsb' 0 27 == 0

/-- The four pairs of BRM. -/
def brmPairs (e0 e1 : Iword) : Bool :=
  brmPair (e0.extractLsb' 0 32) && brmPair (e0.extractLsb' 32 32)
    && brmPair (e1.extractLsb' 0 32) && brmPair (e1.extractLsb' 32 32)

/-- PD and PE of class 0x8 (R234). -/
def predDst (f : FmtP) : Bool := f.pd.toNat ≤ 14 && f.pe != f.pd

/-- A register source of class 0x8 (R234): a v-register, `sr.zero` or `sr.one`. -/
def pReg (x : BitVec 10) : Bool := isV x || isZeroOne x

/-- ICMP and FCMP (R234). -/
def cmp (f : FmtP) : Bool :=
  predDst f && pReg f.a && pReg f.b && f.pb == 0 && f.cond.toNat ≤ 7 && etag f.etag

/-- PAND, POR and PXOR. -/
def plogic2 (f : FmtP) : Bool :=
  predDst f && f.pe == 15 && f.a == 0 && f.b == 0 && f.cond.toNat ≤ 3 && f.etag == 31

/-- PNOT, PMOV and PANY: one predicate source and a COND of at most `m`. -/
def plogic1 (m : Nat) (f : FmtP) : Bool :=
  predDst f && f.pe == 15 && f.a == 0 && f.b == 0 && f.pb == 0 && f.cond.toNat ≤ m && f.etag == 31

/-- A control-register number that format S may name (R316): assigned, or service only (which then raises GF_PRIVILEGE). -/
def csrNumber (n : Nat) : Bool := n ≤ 4 || n == 0x10 || 0x800 ≤ n

/-- The register operand of a CSR instruction (R319, step 2): an even pair for a 64-bit register. -/
def csrReg (n : Nat) (x : BitVec 10) : Bool := if n == 3 || n == 0x10 then isPair x else isV x

/-- CSRW, CSRS and CSRC (R318, R319). -/
def csrWrite (f : FmtS) : Bool :=
  f.d == 0 && csrNumber f.csr.toNat && f.mod == 0 && (csrReg f.csr.toNat f.a || isSpecial f.a)

/-- ERRQ (R318, R322). -/
def errq (f : FmtS) : Bool :=
  f.csr == 0 && f.mod.toNat ≤ 5 &&
    (if f.mod.toNat == 5 then f.d == 0 && (isPair f.a || isSpecial f.a)
     else f.a == 0 && (if f.mod.toNat ≤ 2 then isPair f.d else isV f.d))

/-- TAG's target and count (R111). -/
def tagC (c : Nat) : Bool := c % 32 ≤ 24

/-- IREDUCE's operation (R137). -/
def ireduceC (c : Nat) : Bool := c ≤ 5 || c == 64

end WF

open Fld WF in
/-- The static field checks of an instruction; events have no word and no field to check. -/
def fieldsLegal : Instr → Bool
  | .iadd f | .isub f | .imul f => abControl true false f
  | .imulh f | .imin f | .imax f => abControl false false f
  | .imad f => WF.abc false f
  | .iabs f | .ineg f => aControl true false f
  | .and f | .or f | .xor f | .shl f | .shr f | .sar f | .rotl f | .clmul f | .clmulh f | .bfx f | .shuf f => ab0 f
  | .not f | .popc f | .clz f | .brev f => a00 f
  | .sel f => dst f.d && src f.a && src f.b && f.c.toNat < 32 && Fld.etag f.etag && f.rm == 0 && !portClash f.d [f.a, f.b]
  | .bfi f | .dot4 f => WF.abc false f
  | .bcast f => a0num (· < 32) false f
  | .ireduce f => a0num ireduceC false f
  | .fadd f | .fsub f | .fmul f | .fdiv f | .fscale f => abControl false true f
  | .ffma f | .fdot2 f => WF.abc true f
  | .fmin f | .fmax f => abControl false false f
  | .fabs f | .fneg f => aControl false false f
  | .frcp f | .frsq f | .fsqrt f | .fexp2 f | .flog2 f | .fsinpi f | .fcospi f | .frnd f => aControl false true f
  | .fclass f => a00 f
  | .freduce f => a0num (· ≤ 2) (f.c == 0) f
  | .cvt f => a0num (fun c => 1 ≤ c && c ≤ 14) true f
  | .cvts f =>
      isV f.d && srcNoPort f.a && srcNoPort f.b && (f.c.toNat < 64 && (f.c.toNat % 32 == 13 || f.c.toNat % 32 == 14))
        && Fld.etag f.etag
  | .scalesel f => isV f.d && srcNoPort f.a && f.b == 0 && (f.c == 13 || f.c == 14) && Fld.etag f.etag && f.rm == 0
  | .tag f => isV f.d && f.a == 0 && f.b == 0 && tagC f.c.toNat && f.etag == 31 && f.rm == 0
  | .tagr f => isV f.d && isV f.a && f.b == 0 && (1 ≤ f.c.toNat && f.c.toNat ≤ 32) && f.etag == 31 && f.rm == 0
  | .pack f => isV f.d && srcNoPort f.a && f.b == 0 && f.c.toNat ≤ 1 && Fld.etag f.etag && f.rm == 0
  | .unpack f =>
      isV f.d && srcNoPort f.a && f.b == 0 && (f.c.toNat < 8 && f.c.toNat % 4 ≤ 1) && Fld.etag f.etag && f.rm == 0
  | .bpsplit f => isV f.d && isV f.a && f.b == 0 && (2 ≤ f.c.toNat && f.c.toNat ≤ 8) && Fld.etag f.etag && f.rm == 0
  | .bpjoin f =>
      isV f.d && isV f.a && f.b == 0 && (f.c == 0 || (2 ≤ f.c.toNat && f.c.toNat ≤ 8)) && Fld.etag f.etag && f.rm == 0
  | .movi f =>
      dst f.d && f.a == 0 && (Fld.etag f.etag && !(15 ≤ f.etag.toNat && f.etag.toNat ≤ 23))
        && (!(9 ≤ f.etag.toNat && f.etag.toNat ≤ 12) || !f.z)
  | .moviW f _ =>
      dst f.d && f.a == 0 && f.imm == 0 && !f.z && (Fld.etag f.etag && !(15 ≤ f.etag.toNat && f.etag.toNat ≤ 23))
  | .iaddi f | .andi f | .ori f | .xori f | .imuli f => imm f
  | .shli f | .shri f | .sari f => immShift f
  | .lea f => (isPair f.d || isPort f.d) && (isPair f.a || isSpecial f.a || isPort f.a) && Fld.etag f.etag
      && !portClash f.d [f.a]
  | .ld f | .ldu f => load f
  | .lda f =>
      WF.base f.base && f.size.toNat ≤ 4 && loadData false f && !(f.size.toNat == 4 && f.mod.toNat ≥ 8)
        && Fld.scope (f.mod.toNat % 8)
  | .ldt f => handleRegs f && f.size.toNat ≤ 3 && loadData true f && f.mod.toNat % 8 == 0
  | .pref f => f.data == 0 && WF.base f.base && f.size.toNat ≤ 4 && f.mod.toNat < 8
  | .st f => storeData true f && WF.base f.base && f.size.toNat ≤ 4 && f.mod.toNat < 8
  | .stl f => storeData false f && WF.base f.base && f.size.toNat ≤ 4 && Fld.scope f.mod.toNat
  | .stt f => handleRegs f && f.size.toNat ≤ 3 && storeData true f && f.mod == 0
  | .atom f =>
      rmwData f && WF.base f.base && (f.size == 2 || f.size == 3) && (f.off.extractLsb' 16 4).toNat ≤ 8
        && Fld.scope f.mod.toNat
  | .atomf f =>
      rmwData f && WF.base f.base && (f.size == 2 || f.size == 3) && (f.off.extractLsb' 16 4).toNat ≤ 2
        && Fld.scope f.mod.toNat
  | .cas f =>
      rmwData f && WF.base f.base && (2 ≤ f.size.toNat && f.size.toNat ≤ 4) && Fld.scope f.mod.toNat
  | .flush f | .inv f => lengthReg f && WF.base f.base && f.mod.toNat ≤ 2
  | .zero f => lengthReg f && WF.base f.base && f.mod == 0
  | .talloc f =>
      isV f.a && srcNoPort f.b && (f.n == 1 && f.c == 0 || f.n == 2 && srcNoPort f.c) && f.mod.toNat < 64
        && f.mod.toNat / 4 ≤ 14
  | .tfree f => isV f.a && f.b == 0 && f.c == 0 && f.n == 0 && f.mod == 0
  | .tdesc f => f.mod.toNat ≤ 1 && (if f.mod == 1 then acc f.x else tile f.x) && isV f.y && f.z == 0 && f.q == 0
  | .tload f | .tstore f =>
      tile f.x && isPair f.y && (if f.mod.toNat ≥ 8 then isPair f.z else f.z == 0) && f.q == 0 && f.mod.toNat < 16
  | .tfromh f | .ttoh f => tile f.x && isV f.y && isV f.z && isV f.q && f.mod == 0
  | .tzero f => tile f.x && f.y == 0 && f.z == 0 && f.q == 0 && f.mod.toNat ≤ 1
  | .mma f => acc f.x && tile f.y && tile f.z && f.q == 0 && f.mod == 0
  | .accz f => acc f.x && f.y == 0 && f.z == 0 && f.q == 0 && f.mod.toNat ≤ 1
  | .drain f =>
      acc f.x && tile f.y && (if f.mod.toNat % 2 == 1 then tile f.z else f.z == 0) && isV f.q && f.mod.toNat < 16
  | .accget f =>
      isV f.x && acc f.y && f.z == 0 && f.q == 0 && f.mod.toNat < 16 && f.mod.toNat % 4 ≤ 2
        && (f.mod.toNat % 4 != 0 || f.x.toNat % 2 == 0)
  | .accput f => acc f.x && isV f.y && f.z == 0 && f.q == 0 && f.mod.toNat ≤ 2 && (f.mod != 0 || f.y.toNat % 2 == 0)
  | .ttrans f => tile f.x && tile f.y && f.z == 0 && f.q == 0 && f.mod == 0
  | .gset f => gauge f.x && isV f.y && f.z == 0 && f.q == 0 && f.mod.toNat < 8
  | .gget f => isV f.x && gauge f.y && f.z == 0 && f.q == 0 && f.mod == 0
  | .br f => f.reg == 0 && f.aux == 0
  | .brm f e0 e1 => f.reg == 0 && f.aux == 0 && brmPairs e0 e1
  | .jtab f => isV f.reg && 1 ≤ f.aux.toNat
  | .jind f | .ret f => f.off == 0 && isPair f.reg && f.aux == 0
  | .call f => isPair f.reg && f.aux == 0
  | .exit f | .barc f | .yield f | .nop f | .tfence f => f.off == 0 && f.reg == 0 && f.aux == 0
  | .bar f => f.off == 0 && f.reg == 0 && f.aux.toNat ≤ 7
  | .rejoin f => f.reg == 0 && f.aux == 0
  | .kill f => f.off == 0 && isV f.reg && f.aux == 0
  | .trap f => f.off == 0 && (isV f.reg || isZero f.reg) && f.aux.toNat < 32
  | .fragq f =>
      f.off == 0 && isV f.reg
        && (f.aux.toNat ≤ 2 || f.aux == 4 || f.aux == 5 || (8 ≤ f.aux.toNat && f.aux.toNat ≤ 15))
  | .icmp f | .fcmp f => cmp f
  | .pand f | .por f | .pxor f => plogic2 f
  | .pnot f | .pmov f => plogic1 0 f
  | .pany f => plogic1 2 f
  | .pset f =>
      predDst f && f.pe == 15 && f.b == 0 && f.pa == 0 && f.pb == 0 && f.cond.toNat ≤ 2
        && (if f.cond == 2 then pReg f.a && Fld.etag f.etag else f.a == 0 && f.etag == 31)
  | .cput f => ePair f.a && eReg f.b && f.c == 0 && f.n == 0 && f.mod == 0
  | .ctail f =>
      ePair f.a && f.b == 0 && f.c == 0 && f.mod.toNat < 4 && (if f.mod == 2 then f.n.toNat ≤ 255 else f.n.toNat ≤ 3)
  | .ctailOpen f =>
      ePair f.a && f.b == 0 && f.c == 0 && (4 ≤ f.mod.toNat && f.mod.toNat < 8)
        && (if f.mod == 6 then f.n.toNat ≤ 255 else f.n.toNat ≤ 3)
  | .semadd f => eReg f.a && WF.sem 1 f
  | .semwait f => eReg f.a && WF.sem 3 f
  | .semread f => isV f.a && WF.sem 1 f
  | .publish f => ePair f.a && eReg f.b && f.c == 0 && f.n == 0 && Fld.scope f.mod.toNat
  | .enq f => ePair f.a && f.b == 0 && f.c == 0 && f.n == 0 && f.mod.toNat < 16
  | .svc f => ePair f.a && eReg f.b && ePair f.c && f.n == 0 && f.mod == 0
  | .mwait f =>
      isPair f.a && (if f.mod == 1 then isPair f.b || isSpecial f.b else srcNoPort f.b)
        && (isV f.c || isZero f.c) && f.n == 0 && f.mod.toNat ≤ 1
  | .collabort f => eReg f.a && f.b == 0 && f.c == 0 && f.n == 0 && f.mod == 0
  | .fence f =>
      f.a == 0 && f.b == 0 && f.c == 0 && f.n == 0 && f.mod.toNat < 32 && Fld.scope (f.mod.toNat % 8) && 8 ≤ f.mod.toNat
  | .csrr f => f.a == 0 && csrNumber f.csr.toNat && f.mod == 0 && csrReg f.csr.toNat f.d
  | .csrw f | .csrs f | .csrc f => csrWrite f
  | .clock f => isPair f.d && f.a == 0 && f.csr == 0 && f.mod.toNat ≤ 1
  | .errq f => WF.errq f
  | .mov f => a00 f
  | .rget f =>
      (if f.c == 1 then isPair f.d || isPort f.d else dst f.d) && src f.a && f.b == 0 && f.c.toNat ≤ 1
        && Fld.etag f.etag && f.rm == 0 && !portClash f.d [f.a]
  | .rput f =>
      f.d == 0 && (if f.c == 1 then isPair f.a || isSpecial f.a || isPort f.a else src f.a) && src f.b && f.c.toNat ≤ 1
        && Fld.etag f.etag && f.rm == 0
  | .sbind f =>
      isPort f.d && ((isPair f.a && isV f.b) || (isZero f.a && isZero f.b)) && f.c == 0 && Fld.etag f.etag && f.rm == 0
  | .sstat f => isPair f.d && isPort f.a && f.b == 0 && f.c.toNat ≤ 2 && f.etag == 31 && f.rm == 0
  | _ => true

end Sys2Proof
end

