-- ==== Sys2Proof/WellFormed.lean ====
section
/-! DEFINITION. WellFormed.lean: the instructions that words may encode: those whose fields pass the static checks of R65, which
Machine/Fields.lean states row by row. -/

namespace Sys2Proof

/-- Every field of the instruction is legal (R42, R48 to R54, R65). -/
def wellFormed (i : Instr) : Bool := fieldsLegal i

end Sys2Proof
end

