-- ==== Sys2Proof/Decode.lean ====
section
/-! DEFINITION. Decode.lean: the decoder of R39, R42, R47 to R65, total on any words and rejecting by the cause that R65 puts first,
and the encoder written from the same formats and opcode map (R63). Every definition here may be mended. -/

namespace Sys2Proof

/-- Why an iword at an instruction position is no instruction, in R65's order. -/
inductive Reject where
  | illegalClass
  | badHeader
  | illegalOpcode
  | illegalField
deriving DecidableEq, Repr

/-- CLASS, bits [63:60] (R39). -/
def clsOf (w : Iword) : Nat := (w.extractLsb' 60 4).toNat

/-- OPCODE, bits [59:52] (R39). -/
def opOf (w : Iword) : Nat := (w.extractLsb' 52 8).toNat

/-- GN and GUARD, bits [51:47] (R39). -/
def guardOf (w : Iword) : Guard := ⟨w.getLsbD 51, w.extractLsb' 47 4⟩

/-- Format V (R55). -/
def parseV (w : Iword) : FmtV :=
  ⟨guardOf w, w.extractLsb' 37 10, w.extractLsb' 27 10, w.extractLsb' 17 10, w.extractLsb' 7 10, w.extractLsb' 2 5,
    w.extractLsb' 0 2⟩

/-- Format I (R56); W and the reserved bits are checked apart. -/
def parseI (w : Iword) : FmtI :=
  ⟨guardOf w, w.extractLsb' 37 10, w.extractLsb' 27 10, w.extractLsb' 11 16, w.extractLsb' 6 5, w.getLsbD 5⟩

/-- Format M (R57). -/
def parseM (w : Iword) : FmtM :=
  ⟨guardOf w, w.extractLsb' 37 10, w.extractLsb' 27 10, w.extractLsb' 7 20, w.extractLsb' 4 3, w.extractLsb' 0 4⟩

/-- Format T (R58). -/
def parseT (w : Iword) : FmtT :=
  ⟨guardOf w, w.extractLsb' 37 10, w.extractLsb' 27 10, w.extractLsb' 17 10, w.extractLsb' 7 10, w.extractLsb' 0 7⟩

/-- Format C (R59). -/
def parseC (w : Iword) : FmtC := ⟨guardOf w, w.extractLsb' 20 27, w.extractLsb' 10 10, w.extractLsb' 0 10⟩

/-- Format P (R60). -/
def parseP (w : Iword) : FmtP :=
  ⟨guardOf w, w.extractLsb' 43 4, w.extractLsb' 39 4, w.extractLsb' 29 10, w.extractLsb' 19 10, w.extractLsb' 15 4,
    w.extractLsb' 11 4, w.extractLsb' 6 5, w.extractLsb' 1 5⟩

/-- Format E (R61). -/
def parseE (w : Iword) : FmtE :=
  ⟨guardOf w, w.extractLsb' 37 10, w.extractLsb' 27 10, w.extractLsb' 17 10, w.extractLsb' 7 10, w.extractLsb' 0 7⟩

/-- Format S (R62). -/
def parseS (w : Iword) : FmtS :=
  ⟨guardOf w, w.extractLsb' 37 10, w.extractLsb' 27 10, w.extractLsb' 15 12, w.extractLsb' 0 15⟩

/-- The opcodes of class 0x0 in order (R63). -/
def ops0 : List (FmtV → Instr) :=
  [.iadd, .isub, .imul, .imulh, .imad, .imin, .imax, .iabs, .ineg, .and, .or, .xor, .not, .shl, .shr, .sar,
  .rotl, .popc, .clz, .brev, .sel, .clmul, .clmulh, .bfx, .bfi, .shuf, .bcast, .ireduce, .dot4]

/-- The opcodes of class 0x1 in order (R63). -/
def ops1 : List (FmtV → Instr) :=
  [.fadd, .fsub, .fmul, .ffma, .fmin, .fmax, .fabs, .fneg, .frcp, .frsq, .fsqrt, .fdiv, .fexp2, .flog2, .fsinpi,
  .fcospi, .fclass, .frnd, .fscale, .fdot2, .freduce]

/-- The opcodes of class 0x2 in order (R63). -/
def ops2 : List (FmtV → Instr) :=
  [.cvt, .cvts, .scalesel, .tag, .tagr, .pack, .unpack, .bpsplit, .bpjoin]

/-- The opcodes of class 0xB in order (R63). -/
def ops11 : List (FmtV → Instr) :=
  [.mov, .rget, .rput, .sbind, .sstat]

/-- The opcodes 0x01 to 0x09 of class 0x3 in order (R63). -/
def ops3 : List (FmtI → Instr) :=
  [.iaddi, .andi, .ori, .xori, .shli, .shri, .sari, .imuli, .lea]

/-- The opcodes of class 0x4 in order (R63). -/
def ops4 : List (FmtM → Instr) :=
  [.ld, .lda, .ldt, .ldu, .pref]

/-- The opcodes of class 0x5 in order (R63). -/
def ops5 : List (FmtM → Instr) :=
  [.st, .stl, .stt, .atom, .atomf, .cas, .flush, .inv, .zero]

/-- The opcodes of class 0x6 in order (R63). -/
def ops6 : List (FmtT → Instr) :=
  [.tdesc, .tload, .tstore, .tfromh, .ttoh, .tzero, .mma, .accz, .drain, .accget, .accput, .ttrans, .gset,
  .gget]

/-- The opcodes of class 0x8 in order (R63). -/
def ops8 : List (FmtP → Instr) :=
  [.icmp, .fcmp, .pand, .por, .pxor, .pnot, .pmov, .pany, .pset]

/-- The opcodes of class 0xA in order (R63). -/
def ops10 : List (FmtS → Instr) :=
  [.csrr, .csrw, .csrs, .csrc, .clock, .errq]

/-- The opcodes 0x02 to 0x0F of class 0x7 in order (R63). -/
def ops7 : List (FmtC → Instr) :=
  [.jtab, .jind, .call, .ret, .exit, .bar, .barc, .yield, .rejoin, .kill, .tfence, .trap, .nop, .fragq]

/-- CTAIL and its open form, told apart by MOD[2] (R291). -/
def ctailForm (f : FmtE) : Instr := if f.mod.getLsbD 2 then .ctailOpen f else .ctail f

/-- The opcodes of class 0x9 in order (R63). -/
def ops9 : List (FmtE → Instr) :=
  [.cput, ctailForm, .semadd, .semwait, .semread, .publish, .enq, .svc, .mwait, .collabort, .talloc, .tfree, .fence]

/-- An opcode of a class: its instruction with the fields `f`, or no instruction. -/
def pick {α : Type} (l : List (α → Instr)) (f : α) (op : Nat) : Except Reject Instr :=
  match l[op]? with
  | some c => .ok (c f)
  | none => .error .illegalOpcode

/-- Class 0x3 (R56): opcode 0x00 is MOVI, or with W set MOVI.W, which takes the next iword of the block. The reserved bits are
zero, and W is zero on every other opcode. -/
def decodeI (w : Iword) (rest : List Iword) : Except Reject Instr :=
  if opOf w = 0 then
    if w.getLsbD 4 then
      match rest with
      | [] => .error .badHeader
      | e :: _ => if w.extractLsb' 0 4 = 0#4 then .ok (.moviW (parseI w) e) else .error .illegalField
    else if w.extractLsb' 0 4 = 0#4 then .ok (.movi (parseI w)) else .error .illegalField
  else
    match pick ops3 (parseI w) (opOf w - 1) with
    | .error r => .error r
    | .ok i => if w.extractLsb' 0 5 = 0#5 then .ok i else .error .illegalField

/-- Class 0x7 (R59): BRM takes the next two iwords of the block. -/
def decodeC (w : Iword) (rest : List Iword) : Except Reject Instr :=
  if opOf w = 0 then .ok (.br (parseC w))
  else if opOf w = 1 then
    match rest with
    | e0 :: e1 :: _ => .ok (.brm (parseC w) e0 e1)
    | _ => .error .badHeader
  else pick ops7 (parseC w) (opOf w - 2)

/-- Class 0x8 (R60): bit 0 is zero. -/
def decodeP (w : Iword) : Except Reject Instr :=
  match pick ops8 (parseP w) (opOf w) with
  | .error r => .error r
  | .ok i => if w.getLsbD 0 then .error .illegalField else .ok i

/-- The instruction an iword opens, its fields not yet checked: class, opcode and extension count (R65, 1 to 3) and the bits no
format field holds. -/
def decodeRaw (w : Iword) (rest : List Iword) : Except Reject Instr :=
  match clsOf w with
  | 0 => pick ops0 (parseV w) (opOf w)
  | 1 => pick ops1 (parseV w) (opOf w)
  | 2 => pick ops2 (parseV w) (opOf w)
  | 3 => decodeI w rest
  | 4 => pick ops4 (parseM w) (opOf w)
  | 5 => pick ops5 (parseM w) (opOf w)
  | 6 => pick ops6 (parseT w) (opOf w)
  | 7 => decodeC w rest
  | 8 => decodeP w
  | 9 => pick ops9 (parseE w) (opOf w)
  | 10 => pick ops10 (parseS w) (opOf w)
  | 11 => pick ops11 (parseV w) (opOf w)
  | 15 => .error .badHeader
  | _ => .error .illegalClass

/-- R64, R65: the instruction at the head of the iwords that remain in a block (the first of them is at the fragment's index, the
last at index LENGTH - 1), or the first defect of the word. -/
def decode : List Iword → Except Reject Instr
  | [] => .error .badHeader
  | w :: rest =>
    match decodeRaw w rest with
    | .error r => .error r
    | .ok i => if wellFormed i then .ok i else .error .illegalField

/-- How many iwords an instruction takes (R63). -/
def Instr.iwords : Instr → Nat
  | .moviW _ _ => 2
  | .brm _ _ _ => 3
  | _ => 1

/-- The common fields [63:47] over the 47 bits of a format (R39). -/
def encHead (cls : BitVec 4) (op : BitVec 8) (g : Guard) (body : BitVec 47) : Iword :=
  cls ++ op ++ BitVec.ofBool g.neg ++ g.p ++ body

/-- Format V (R55). -/
def encV (cls : BitVec 4) (op : BitVec 8) (f : FmtV) : Iword :=
  encHead cls op f.g (f.d ++ f.a ++ f.b ++ f.c ++ f.etag ++ f.rm)

/-- Format I (R56). -/
def encI (op : BitVec 8) (f : FmtI) (w : Bool) : Iword :=
  encHead 3 op f.g (f.d ++ f.a ++ f.imm ++ f.etag ++ BitVec.ofBool f.z ++ BitVec.ofBool w ++ 0#4)

/-- Format M (R57). -/
def encM (cls : BitVec 4) (op : BitVec 8) (f : FmtM) : Iword :=
  encHead cls op f.g (f.data ++ f.base ++ f.off ++ f.size ++ f.mod)

/-- Format T (R58). -/
def encT (op : BitVec 8) (f : FmtT) : Iword := encHead 6 op f.g (f.x ++ f.y ++ f.z ++ f.q ++ f.mod)

/-- Format C (R59). -/
def encC (op : BitVec 8) (f : FmtC) : Iword := encHead 7 op f.g (f.off ++ f.reg ++ f.aux)

/-- Format P (R60). -/
def encP (op : BitVec 8) (f : FmtP) : Iword :=
  encHead 8 op f.g (f.pd ++ f.pe ++ f.a ++ f.b ++ f.pa ++ f.pb ++ f.cond ++ f.etag ++ 0#1)

/-- Format E (R61). -/
def encE (op : BitVec 8) (f : FmtE) : Iword := encHead 9 op f.g (f.a ++ f.b ++ f.c ++ f.n ++ f.mod)

/-- Format S (R62). -/
def encS (op : BitVec 8) (f : FmtS) : Iword := encHead 10 op f.g (f.d ++ f.a ++ f.csr ++ f.mod)

/-- The words of an instruction (R55 to R63); an event has none. -/
def encode : Instr → List Iword
  | .iadd f => [encV 0 0x00 f]
  | .isub f => [encV 0 0x01 f]
  | .imul f => [encV 0 0x02 f]
  | .imulh f => [encV 0 0x03 f]
  | .imad f => [encV 0 0x04 f]
  | .imin f => [encV 0 0x05 f]
  | .imax f => [encV 0 0x06 f]
  | .iabs f => [encV 0 0x07 f]
  | .ineg f => [encV 0 0x08 f]
  | .and f => [encV 0 0x09 f]
  | .or f => [encV 0 0x0A f]
  | .xor f => [encV 0 0x0B f]
  | .not f => [encV 0 0x0C f]
  | .shl f => [encV 0 0x0D f]
  | .shr f => [encV 0 0x0E f]
  | .sar f => [encV 0 0x0F f]
  | .rotl f => [encV 0 0x10 f]
  | .popc f => [encV 0 0x11 f]
  | .clz f => [encV 0 0x12 f]
  | .brev f => [encV 0 0x13 f]
  | .sel f => [encV 0 0x14 f]
  | .clmul f => [encV 0 0x15 f]
  | .clmulh f => [encV 0 0x16 f]
  | .bfx f => [encV 0 0x17 f]
  | .bfi f => [encV 0 0x18 f]
  | .shuf f => [encV 0 0x19 f]
  | .bcast f => [encV 0 0x1A f]
  | .ireduce f => [encV 0 0x1B f]
  | .dot4 f => [encV 0 0x1C f]
  | .fadd f => [encV 1 0x00 f]
  | .fsub f => [encV 1 0x01 f]
  | .fmul f => [encV 1 0x02 f]
  | .ffma f => [encV 1 0x03 f]
  | .fmin f => [encV 1 0x04 f]
  | .fmax f => [encV 1 0x05 f]
  | .fabs f => [encV 1 0x06 f]
  | .fneg f => [encV 1 0x07 f]
  | .frcp f => [encV 1 0x08 f]
  | .frsq f => [encV 1 0x09 f]
  | .fsqrt f => [encV 1 0x0A f]
  | .fdiv f => [encV 1 0x0B f]
  | .fexp2 f => [encV 1 0x0C f]
  | .flog2 f => [encV 1 0x0D f]
  | .fsinpi f => [encV 1 0x0E f]
  | .fcospi f => [encV 1 0x0F f]
  | .fclass f => [encV 1 0x10 f]
  | .frnd f => [encV 1 0x11 f]
  | .fscale f => [encV 1 0x12 f]
  | .fdot2 f => [encV 1 0x13 f]
  | .freduce f => [encV 1 0x14 f]
  | .cvt f => [encV 2 0x00 f]
  | .cvts f => [encV 2 0x01 f]
  | .scalesel f => [encV 2 0x02 f]
  | .tag f => [encV 2 0x03 f]
  | .tagr f => [encV 2 0x04 f]
  | .pack f => [encV 2 0x05 f]
  | .unpack f => [encV 2 0x06 f]
  | .bpsplit f => [encV 2 0x07 f]
  | .bpjoin f => [encV 2 0x08 f]
  | .mov f => [encV 11 0x00 f]
  | .rget f => [encV 11 0x01 f]
  | .rput f => [encV 11 0x02 f]
  | .sbind f => [encV 11 0x03 f]
  | .sstat f => [encV 11 0x04 f]
  | .movi f => [encI 0x00 f false]
  | .moviW f e => [encI 0x00 f true, e]
  | .iaddi f => [encI 0x01 f false]
  | .andi f => [encI 0x02 f false]
  | .ori f => [encI 0x03 f false]
  | .xori f => [encI 0x04 f false]
  | .shli f => [encI 0x05 f false]
  | .shri f => [encI 0x06 f false]
  | .sari f => [encI 0x07 f false]
  | .imuli f => [encI 0x08 f false]
  | .lea f => [encI 0x09 f false]
  | .ld f => [encM 4 0x00 f]
  | .lda f => [encM 4 0x01 f]
  | .ldt f => [encM 4 0x02 f]
  | .ldu f => [encM 4 0x03 f]
  | .pref f => [encM 4 0x04 f]
  | .st f => [encM 5 0x00 f]
  | .stl f => [encM 5 0x01 f]
  | .stt f => [encM 5 0x02 f]
  | .atom f => [encM 5 0x03 f]
  | .atomf f => [encM 5 0x04 f]
  | .cas f => [encM 5 0x05 f]
  | .flush f => [encM 5 0x06 f]
  | .inv f => [encM 5 0x07 f]
  | .zero f => [encM 5 0x08 f]
  | .tdesc f => [encT 0x00 f]
  | .tload f => [encT 0x01 f]
  | .tstore f => [encT 0x02 f]
  | .tfromh f => [encT 0x03 f]
  | .ttoh f => [encT 0x04 f]
  | .tzero f => [encT 0x05 f]
  | .mma f => [encT 0x06 f]
  | .accz f => [encT 0x07 f]
  | .drain f => [encT 0x08 f]
  | .accget f => [encT 0x09 f]
  | .accput f => [encT 0x0A f]
  | .ttrans f => [encT 0x0B f]
  | .gset f => [encT 0x0C f]
  | .gget f => [encT 0x0D f]
  | .br f => [encC 0x00 f]
  | .brm f e0 e1 => [encC 0x01 f, e0, e1]
  | .jtab f => [encC 0x02 f]
  | .jind f => [encC 0x03 f]
  | .call f => [encC 0x04 f]
  | .ret f => [encC 0x05 f]
  | .exit f => [encC 0x06 f]
  | .bar f => [encC 0x07 f]
  | .barc f => [encC 0x08 f]
  | .yield f => [encC 0x09 f]
  | .rejoin f => [encC 0x0A f]
  | .kill f => [encC 0x0B f]
  | .tfence f => [encC 0x0C f]
  | .trap f => [encC 0x0D f]
  | .nop f => [encC 0x0E f]
  | .fragq f => [encC 0x0F f]
  | .icmp f => [encP 0x00 f]
  | .fcmp f => [encP 0x01 f]
  | .pand f => [encP 0x02 f]
  | .por f => [encP 0x03 f]
  | .pxor f => [encP 0x04 f]
  | .pnot f => [encP 0x05 f]
  | .pmov f => [encP 0x06 f]
  | .pany f => [encP 0x07 f]
  | .pset f => [encP 0x08 f]
  | .cput f => [encE 0x00 f]
  | .ctail f => [encE 0x01 f]
  | .ctailOpen f => [encE 0x01 f]
  | .semadd f => [encE 0x02 f]
  | .semwait f => [encE 0x03 f]
  | .semread f => [encE 0x04 f]
  | .publish f => [encE 0x05 f]
  | .enq f => [encE 0x06 f]
  | .svc f => [encE 0x07 f]
  | .mwait f => [encE 0x08 f]
  | .collabort f => [encE 0x09 f]
  | .talloc f => [encE 0x0A f]
  | .tfree f => [encE 0x0B f]
  | .fence f => [encE 0x0C f]
  | .csrr f => [encS 0x00 f]
  | .csrw f => [encS 0x01 f]
  | .csrs f => [encS 0x02 f]
  | .csrc f => [encS 0x03 f]
  | .clock f => [encS 0x04 f]
  | .errq f => [encS 0x05 f]
  | _ => []

/-- An event: a step of the device that no word encodes (spec/95_what_each_step_holds.md). -/
def Instr.isEvent (i : Instr) : Bool := (encode i).isEmpty

/-- The instruction whose bits, first word lowest, are the low `nbits` bits of `w`, the bits above zero. An iword is 64 bits stored
little-endian (R39), so the first word is the low 64 bits. -/
def decodeTableWord (nbits w : Nat) : Option Instr :=
  let w' := w % 2 ^ nbits
  if nbits = 0 then none
  else
  match decode [BitVec.ofNat 64 w', BitVec.ofNat 64 (w' / 2 ^ 64), BitVec.ofNat 64 (w' / 2 ^ 128)] with
  | .ok i => some i
  | .error _ => none

end Sys2Proof
end

