-- ==== Sys2Proof/Machine/Xlat.lean ====
section
/-! DEFINITION. Machine/Xlat.lean: page tables, TLBs and the lane checks of R155 to R165, and the fetch checks of R43. -/

namespace Sys2Proof.Machine

/-- Fields of a page-table entry (R157). -/
def Pte.v (e : Dword) : Bool := e.getLsbD 0
def Pte.leaf (e : Dword) : Bool := e.getLsbD 1
def Pte.r (e : Dword) : Bool := e.getLsbD 2
def Pte.w (e : Dword) : Bool := e.getLsbD 3
def Pte.x (e : Dword) : Bool := e.getLsbD 4
def Pte.u (e : Dword) : Bool := e.getLsbD 5
def Pte.tier (e : Dword) : Nat := bits e.toNat 6 2
def Pte.sv (e : Dword) : Bool := e.getLsbD 8
def Pte.contig (e : Dword) : Nat := bits e.toNat 9 2
def Pte.psn (e : Dword) : Bool := e.getLsbD 11
def Pte.pa (e : Dword) : Nat := bits e.toNat 12 40 * 4096
def Pte.a (e : Dword) : Bool := e.getLsbD 52
def Pte.d (e : Dword) : Bool := e.getLsbD 53
def Pte.ten (e : Dword) : Nat := bits e.toNat 54 6

/-- The size of a page of a leaf at a level, alone or as a run (R156, R159). -/
def pageSize (level : Nat) (run : Bool) : Nat :=
  match level with
  | 0 => if run then 2 ^ 16 else 2 ^ 12
  | 1 => if run then 2 ^ 25 else 2 ^ 21
  | _ => if run then 2 ^ 33 else 2 ^ 30

/-- How many entries of a table make a run at a level (R159). -/
def runLen (level : Nat) : Nat := if level = 2 then 8 else 16

/-- The bytes of the second tier that exist: the LPDDR, then the windows of the CXL ports in port order (R334), none of them while
feature CXL is not accepted (R390); at most 8 TiB in all (R5). -/
def State.tier2End (s : State) : Nat :=
  min (2 ^ 43) <| 2 ^ 40 + (if s.feature 2 then ((s.cxl.map (fun e => e.2.window)).foldl (· + ·) 0) * 2 ^ 30 else 0)

/-- R327, R334, R336, R390: a page of `size` bytes at `pa` of a tier lies wholly where data may be. -/
def State.tierHolds (s : State) (tier pa size : Nat) : Bool :=
  match tier with
  | 0 => pa + size ≤ 0x7C00000000
  | 1 => pa + size ≤ s.tier2End
  | 2 => pa + size ≤ 7 * 2 ^ 40
  | _ => s.feature 5

/-- R158: a pointer entry that a walk refuses. -/
def Pte.badPointer (e : Dword) (level : Nat) : Bool :=
  level == 0 || Pte.tier e > 1 || bits e.toNat 2 4 != 0 || bits e.toNat 8 4 != 0 || bits e.toNat 52 12 != 0

/-- R158, R159, R327, R334, R336, R390: a leaf entry that a walk refuses. `alone`: another entry of a group whose first entry has CONTIG 00,
whose own CONTIG bits are ignored. -/
def Pte.badLeaf (s : State) (e : Dword) (level : Nat) (run alone : Bool) : Bool :=
  bits e.toNat 60 4 != 0 || level > 2 || (!alone && Pte.contig e > 1) || Pte.pa e % pageSize level run != 0
    || (Pte.x e && (Pte.w e || Pte.tier e > 1)) || !s.tierHolds (Pte.tier e) (Pte.pa e) (pageSize level run)

/-- The outcome of a walk. -/
inductive Walk where
  | unmapped (malformed psn : Bool)
  /-- A table entry was poisoned: the cause of its tier (R311). -/
  | poisoned (cause : Nat)
  /-- A leaf: its entry's key, the first address and the size of what it maps, and its value. -/
  | leaf (pte base size : Nat) (val : Dword)
deriving DecidableEq, Repr

/-- The uncorrectable cause of a tier (R331, R335, R338, R381). -/
def tierCause (tier : Nat) : Nat :=
  match tier with
  | 0 => Cause.hbmUncorr
  | 1 => Cause.tier2Uncorr
  | 2 => Cause.flashUncorr
  | _ => Cause.linkDown

/-- R326: the stack, pseudo-channel, bank group, bank, column and row of an HBM address. -/
def hbmStack (pa : Nat) : Nat := (bits pa 6 3 ^^^ bits pa 22 3) ^^^ bits pa 31 3
def hbmChannel (pa : Nat) : Nat := bits pa 9 5 ^^^ bits pa 25 5
def hbmGroup (pa : Nat) : Nat := bits pa 14 2 ^^^ bits pa 34 2
def hbmBank (pa : Nat) : Nat := bits pa 16 2 ^^^ bits pa 36 2
def hbmCol (pa : Nat) : Nat := bits pa 18 4
def hbmRow (pa : Nat) : Nat := bits pa 22 17

/-- R352: the home die of the frame of a key, taken at the frame's first byte (log entry 58); 4 for a fabric page, whose home is not on
this device. -/
def homeDie (key : Nat) : Nat :=
  let pa := key / 256 * 256 % 2 ^ 52
  match tierOf key with
  | 0 => hbmStack pa / 2
  | 1 | 2 => bits pa 12 2 ^^^ bits pa 20 2
  | _ => 4

/-- R352: the home slice within the die. -/
def homeSlice (key : Nat) : Nat :=
  let pa := key % 2 ^ 52
  ((bits pa 8 6 ^^^ bits pa 14 6) ^^^ bits pa 20 6) % 48

/-- The die of a logical core (R286). Engines have no core of their own: those of die d (4: the host die) go by core number 2,000 + d. -/
def dieOf (core : Nat) : Nat := if core < 720 then core / 180 else if core < 2000 then 4 else core - 2000

/-- R334, R335: the CXL window of a second-tier address belongs to a port that is down. -/
def State.cxlDown (s : State) (key : Nat) : Bool :=
  tierOf key == 1 &&
    (s.cxl.foldl (fun (acc : Nat × Bool) e =>
      let hi := acc.1 + e.2.window * 2 ^ 30
      (hi, acc.2 || (e.2.down && decide (acc.1 ≤ key % 2 ^ 52) && decide (key % 2 ^ 52 < hi)))) (2 ^ 40, false)).2

/-- R381: no port in service reaches the peer of a fabric address. -/
def State.peerDown (s : State) (key : Nat) : Bool :=
  tierOf key == 3 && !s.ports.any (fun p => !p.2.down && p.2.peers.contains (bits key 43 9))

/-- No read of a key is served: it is homed on a lost die (R378), behind a CXL port that is down (R335) or on a peer that no port reaches
(R381). -/
def State.unserved (s : State) (key : Nat) : Bool := s.lostDies.contains (homeDie key) || s.cxlDown key || s.peerDown key

/-- R206: the lease of a read copy lives. -/
def Bolt.alive (b : Bolt) (now : Nat) : Bool :=
  match b.lease with
  | some l => decide (now < l)
  | none => true

/-- R170, R206: a core's L1 holds a byte where a load may read it: owned, or a read copy whose lease lives. -/
def State.boltOf (s : State) (cache key : Nat) : Option Bolt :=
  s.bolts.find? (fun b => b.cache == cache && b.frame == key / 256 && decide (b.lo ≤ key % 256 / 16)
    && decide (key % 256 / 16 < b.hi) && (b.owned || b.alive s.time))

/-- The home slice of a frame as a cache (R352). -/
def sliceOf (frame : Nat) : Nat := 2048 + 48 * homeDie (frame * 256) + homeSlice (frame * 256)

/-- The row of a bank that an HBM address lies in, as the address of its column 0 (R326). -/
def hbmRowOf (pa : Nat) : Nat := pa / 64 * 64 - hbmCol pa * 2 ^ 18

/-- R328: the data symbols of a column of a row among its code's 528: symbols 0 to 511 are data, two bytes each. -/
def inColumn (col sym : Nat) : Bool := sym / 32 == col

/-- An unused HBM stack's state: the highest limit, no activates, nothing counted. -/
def Stack.fresh : Stack := ⟨65535, [], 0, 0⟩

def State.stackOf (s : State) (st : Nat) : Stack := Table.getD s.hbmStacks Stack.fresh st
def State.setStack (s : State) (st : Nat) (x : Stack) : State := { s with hbmStacks := Table.setD s.hbmStacks Stack.fresh st x }

/-- R329: an HBM block is read. Where its CRC fails, up to 8 erroneous symbols of its row are corrected, and the stack counts it; else
every block of the row that fails is marked poisoned. -/
def State.checkBlock (s : State) (block : Nat) : State :=
  let pa := block * 64
  let row := hbmRowOf pa
  let errs := Table.getD s.badSyms [] row
  if !errs.any (inColumn (hbmCol pa)) then s
  else if errs.length ≤ 8 then
    let st := hbmStack pa
    ({ s with badSyms := Table.del s.badSyms row } : State).setStack st { s.stackOf st with corrected := (s.stackOf st).corrected + 1 }
  else
    let failing := (List.range 16).filter (fun c => errs.any (inColumn c))
    { s with badBlocks := failing.foldl (fun l c => insertNat l (row / 64 + c * 2 ^ 12)) s.badBlocks }

/-- A home slice holds a granule of a frame. -/
def State.sliceHas (s : State) (frame g : Nat) : Bool := (s.boltOf (sliceOf frame) (frame * 256 + 16 * g)).isSome

/-- R329, R335, R338: a granule would have to be read from its tier, and its block fails there: its poison bit is set, or an HBM row has more
errors than its symbols correct. A flash block that is resident is not read. -/
def State.coldBad (s : State) (key : Nat) : Bool :=
  !s.sliceHas (key / 256) (key % 256 / 16) && !(tierOf key == 2 && s.resident.contains (key / 4096))
    && (s.badBlocks.contains (key / 64)
      || (tierOf key == 0 && (let errs := Table.getD s.badSyms [] (hbmRowOf key); decide (8 < errs.length) && errs.any (inColumn (hbmCol key)))))

/-- A granule of addressed memory reads as poisoned at its home: marked (R331), not served, or of a block that cannot be read. -/
def State.poisoned (s : State) (key : Nat) : Bool := s.poison.contains (key / 16) || s.unserved key || s.coldBad key

/-- R329: blocks of HBM that home slices do not hold are read. -/
def State.readBlocks (s : State) (keys : List Nat) : State :=
  keys.foldl (fun s k => if tierOf k = 0 && !s.sliceHas (k / 256) (k % 256 / 16) then s.checkBlock (k / 64) else s) s

/-- What a leaf found at `level` maps for `va`. -/
def leafWalk (s : State) (pte : Nat) (e : Dword) (va level : Nat) (run alone : Bool) : Walk :=
  if Pte.badLeaf s e level run alone then .unmapped true false
  else if Pte.psn e then .unmapped false true
  else .leaf pte (va / pageSize level run * pageSize level run) (pageSize level run) e

/-- R156 to R159: one level of a walk, at the table with key `table`: its outcome, or the key of the next table. -/
def walkStep (s : State) (va table level : Nat) : Except Walk Nat :=
  let idx := bits va (12 + 9 * level) 9
  let k := table + 8 * idx
  let k0 := table + 8 * (idx / runLen level * runLen level)
  let e := BitVec.ofNat 64 (s.mem.readNat k 8)
  let e0 := BitVec.ofNat 64 (s.mem.readNat k0 8)
  if level ≤ 2 && s.poisoned k0 then .error (.poisoned (tierCause (tierOf k0)))
  else if level ≤ 2 && Pte.v e0 && Pte.leaf e0 && Pte.contig e0 == 1 then .error (leafWalk s k0 e0 va level true false)
  else if s.poisoned k then .error (.poisoned (tierCause (tierOf k)))
  else if !Pte.v e then .error (.unmapped false false)
  else if Pte.leaf e then .error (leafWalk s k e va level false (k != k0 && Pte.contig e0 == 0))
  else if Pte.badPointer e level then .error (.unmapped true false)
  else .ok (keyOf (Pte.tier e) (Pte.pa e))

/-- R156: the walk from a level down to level 0. -/
def walkAt (s : State) (va : Nat) : Nat → Nat → Walk
  | 0, table =>
    match walkStep s va table 0 with
    | .error w => w
    | .ok _ => .unmapped true false
  | l + 1, table =>
    match walkStep s va table (l + 1) with
    | .error w => w
    | .ok t => walkAt s va l t

/-- R156, R159: the keys of the entries that a walk reads from a level down. -/
def walkKeysAt (s : State) (va : Nat) : Nat → Nat → List Nat
  | level, table =>
    let idx := bits va (12 + 9 * level) 9
    (if level ≤ 2 then [table + 8 * (idx / runLen level * runLen level)] else []) ++ [table + 8 * idx]
      ++ (match level with
          | 0 => []
          | l + 1 => match walkStep s va table (l + 1) with
            | .ok t => walkKeysAt s va l t
            | .error _ => [])

/-- R155, R156: the walk of an address in a context. -/
def State.walk (s : State) (ctx va : Nat) : Walk :=
  if va ≥ 2 ^ 57 then .unmapped false false else walkAt s va 4 (s.ctx ctx).root

/-- The TLB entry of a core that covers an address (R163). -/
def State.tlbHit (s : State) (core ctx va : Nat) : Option TlbEntry :=
  s.tlb.find? (fun t => t.core == core && t.ctx == ctx && decide (t.base ≤ va) && decide (va < t.base + t.size))

/-- A leaf that a walk finds: an address that it maps, its entry's key, and what it maps. -/
structure Leaf where
  va   : Nat
  pte  : Nat
  base : Nat
  size : Nat
  val  : Dword
deriving DecidableEq, Repr

/-- The leaves under one table, at a level, that map addresses from `start` to `stop` - 1: one for each entry of the table (R156). -/
def leavesUnder (s : State) (start stop : Nat) : Nat → Nat → Nat → List Leaf
  | level, table, base =>
    (List.range 512).flatMap (fun i =>
      let va := base + i * 2 ^ (12 + 9 * level)
      if decide (va < stop) && decide (start < va + 2 ^ (12 + 9 * level)) then
        match walkStep s va table level with
        | .error (.leaf p b sz val) => [⟨max b va, p, b, min (2 ^ (12 + 9 * level)) sz, val⟩]
        | .error _ => []
        | .ok t =>
          match level with
          | 0 => []
          | l + 1 => leavesUnder s start stop l t va
      else [])

/-- The leaves of a context that map addresses from `start` to `stop` - 1. -/
def State.leavesOf (s : State) (ctx start stop : Nat) : List Leaf := leavesUnder s start stop 4 (s.ctx ctx).root 0

/-- Translation as a core's probe stage makes it: its TLB first, else a walk (R163). A store through an entry whose D is clear finds
the entry in memory changed, apart from A and D, only to walk again (R160). Cores 720 and above have no TLB: engines and the host die
translate by walk. -/
def State.xlat (s : State) (core ctx va : Nat) (store : Bool) : Walk :=
  if va ≥ 2 ^ 57 then .unmapped false false
  else
    match s.tlbHit core ctx va with
    | some t =>
      let now := BitVec.ofNat 64 (s.mem.readNat t.pte 8)
      let ad := BitVec.ofNat 64 (3 * 2 ^ 52)
      if store && !Pte.d t.val && (now ||| ad) != (t.val ||| ad) then s.walk ctx va
      else .leaf t.pte t.base t.size t.val
    | none => s.walk ctx va

/-- The key of an address that a leaf maps. -/
def leafKey (base : Nat) (val : Dword) (va : Nat) : Nat := keyOf (Pte.tier val) (Pte.pa val + (va - base))

/-- The key of an address that has passed its checks. -/
def State.keyAt (s : State) (core ctx va : Nat) (store : Bool) : Nat :=
  match s.xlat core ctx va store with
  | .leaf _ base _ val => leafKey base val va
  | _ => 0

/-- R165: the 4 KiB page of an address lies in a range whose invalidation is in progress. -/
def State.invalidating (s : State) (ctx va : Nat) : Bool :=
  s.invals.any (fun i =>
    i.ctx == ctx && decide (i.start < (va / 4096 + 1) * 4096) && decide (va / 4096 * 4096 < i.start + i.len))

/-- Why a lane fails a check, and what its record names (R307). -/
structure LaneFail where
  cause  : Nat
  addr   : Nat := 0
  malf   : Bool := false
  psn    : Bool := false
  blocks : List (List Nat) := []
  /-- The home event whose rule faults it (R363). -/
  ask    : Option (Nat × HomeReq) := none
  /-- It stopped at an iword that was not fetched (R43, R305). -/
  fetch  : Bool := false
deriving DecidableEq, Repr

/-- The access classes of R164. `zero` is the store class of ZERO. -/
inductive Cls where
  | load | store | zero | atomic
deriving DecidableEq, Repr

/-- Load or atomic class. -/
def Cls.reads : Cls → Bool
  | .load | .atomic => true
  | _ => false

/-- Store or atomic class. -/
def Cls.writes : Cls → Bool
  | .load => false
  | _ => true

/-- R355, R356: the valid range entry that covers a key. -/
def State.rangeOf (s : State) (key : Nat) : Option RangeEntry :=
  (s.ranges.find? (fun e => e.2.valid && e.2.tier == tierOf key && decide (e.2.base * 4096 ≤ key % 2 ^ 52)
    && decide (key % 2 ^ 52 < e.2.limit * 4096))).map Prod.snd

/-- R356: the pattern slot that governs a frame for an agent of a tenancy; none where the fixed recall serves the agent. -/
def State.patOf (s : State) (key ten : Nat) : Option Nat :=
  match s.rangeOf key with
  | none => some 0
  | some e => if e.ten = ten then some e.pat else none

/-- R369, R372: the switch-resident directory has the frame: a TIER 11 page or a host-shared range. -/
def State.switched (s : State) (key : Nat) : Bool :=
  tierOf key == 3 || (match s.rangeOf key with | some e => e.hostsh | none => false)

/-- The pattern slot at the home of a frame (R356, R358, R369): the range's, P0 where there is none. The switch applies P0, P1 and P5
only (log entry 59). -/
def State.slotAt (s : State) (frame : Nat) : Nat :=
  match s.rangeOf (frame * 256) with
  | some e => if s.switched (frame * 256) && !(e.pat == 0 || e.pat == 1 || e.pat == 5) then 0 else e.pat
  | none => 0

/-- The pattern slot that an access of a tenancy meets; 16 where it is served by recall and grants no copy (R356). -/
def State.patFor (s : State) (key ten : Nat) : Nat := if (s.patOf key ten).isSome then s.slotAt (key / 256) else 16

/-- The words of a byte range, as keys divided by 4. -/
def wordsOf (key n : Nat) : List Nat := (List.range ((key + n - 1) / 4 + 1 - key / 4)).map (· + key / 4)

/-- R359: a word of the bytes is marked written, for an agent whose requests P3 governs. -/
def State.markedTwice (s : State) (ten key n : Nat) : Bool :=
  s.patFor key ten == 3 && (wordsOf key n).any s.marks.contains

/-- R382: a fabric offset lies in a window of its peer that the tenancy holds. -/
def State.inWindow (s : State) (ten key : Nat) : Bool :=
  let pa := key % 2 ^ 52
  s.windows.any (fun w => w.1 == ten && w.2.1 == bits pa 43 9 && decide (w.2.2.1 ≤ bits pa 0 43)
    && decide (bits pa 0 43 < w.2.2.1 + w.2.2.2))

/-- The part of an access on one 4 KiB page: its first address and byte count. -/
def pageParts (va n : Nat) : List (Nat × Nat) :=
  (List.range ((va + n - 1) / 4096 + 1 - va / 4096)).map (fun i =>
    let lo := max va ((va / 4096 + i) * 4096)
    let hi := min (va + n) ((va / 4096 + i + 1) * 4096)
    (lo, hi - lo))

/-- R43: the check of a fetch of an iword. -/
def State.fetchFail (s : State) (core ctx va : Nat) : Option LaneFail :=
  match s.xlat core ctx va false with
  | .unmapped m p => some { cause := Cause.unmapped, addr := va, malf := m, psn := p, fetch := true }
  | .poisoned c => some { cause := c, addr := va, fetch := true }
  | .leaf _ _ _ e =>
    if !Pte.x e then some { cause := Cause.protect, addr := va, fetch := true }
    else if s.invalidating ctx va then some { cause := Cause.translation, addr := va, fetch := true }
    else none

/-- A core's instruction-cache entry of a key. -/
def icacheKey (core key : Nat) : Nat := core * 2 ^ 54 + key

/-- The word at an address whose fetch passes: the copy that the core's instruction cache holds, or the word in memory (R3, R43). -/
def State.fetchWord (s : State) (core ctx va : Nat) : Iword :=
  let key := s.keyAt core ctx va false
  (Table.find s.icache (icacheKey core key)).getD (BitVec.ofNat 64 (s.mem.readNat key 8))

/-- R43: every instruction cache's copies of `n` bytes from a key on are invalid. -/
def State.dropCode (s : State) (key n : Nat) : State :=
  { s with icache := s.icache.filter (fun e => !(decide (key ≤ e.1 % 2 ^ 54) && decide (e.1 % 2 ^ 54 < key + n))) }

/-- The fields of a block header (R44). -/
def Hdr.length (h : Iword) : Nat := bits h.toNat 46 10
def Hdr.live (h : Iword) : Nat := bits h.toNat 35 11
def Hdr.reconv (h : Iword) : BitVec 19 := h.extractLsb' 16 19
def Hdr.pref (h : Iword) : Nat := bits h.toNat 12 4
def Hdr.mend (h : Iword) : Bool := h.getLsbD 11

/-- R45: a valid header. -/
def Hdr.valid (h : Iword) : Bool :=
  bits h.toNat 60 4 == 15 && bits h.toNat 56 4 == 1 && Hdr.length h != 0 && decide (Hdr.live h ≤ 960) && bits h.toNat 0 9 == 0

/-- R219: `check_target`. -/
def State.checkTarget (s : State) (core ctx a : Nat) : Option LaneFail :=
  if a % 8 ≠ 0 then some { cause := Cause.badTarget, addr := a }
  else
    match s.fetchFail core ctx a with
    | some f => some { f with fetch := false }
    | none => if Hdr.valid (s.fetchWord core ctx a) then none else some { cause := Cause.badTarget, addr := a }

/-- The translation that a core's TLB already holds with every bit that an access needs. -/
def State.tlbReady (s : State) (core ctx va : Nat) (store : Bool) : Bool :=
  match s.tlbHit core ctx va with
  | some t => Pte.a t.val && (!store || Pte.d t.val)
  | none => false

/-- R163: a core's translations, the newest first: 64 in its first-level TLB, and the 3,072 before them in the second level. -/
def fitTlb (core : Nat) : Nat → List TlbEntry → List TlbEntry
  | _, [] => []
  | n, t :: ts =>
    if t.core ≠ core then t :: fitTlb core n ts
    else if n < 64 + 3072 then { t with level := if n < 64 then 1 else 2 } :: fitTlb core (n + 1) ts
    else fitTlb core (n + 1) ts

/-- R160, R163: a translation is used by a core: a miss installs the leaf and sets A; a store sets D before it performs. Engines and
the host die (cores 720 and above) set the bits and install nothing. -/
def State.touch (s : State) (core ctx va : Nat) (store : Bool) : State :=
  if s.tlbReady core ctx va store then s
  else
    match s.xlat core ctx va store with
    | .leaf pte base size val =>
      let ad := 2 ^ 52 + (if store then 2 ^ 53 else 0)
      let s := if (s.tlbHit core ctx va).isNone then s.readBlocks (walkKeysAt s va 4 (s.ctx ctx).root) else s
      let s1 : State := { s with mem := s.mem.writeNat pte 8 (s.mem.readNat pte 8 ||| ad) }
      if core < 720 then
        { s1 with tlb := fitTlb core 0 (⟨1, core, ctx, base, size, pte, val ||| BitVec.ofNat 64 ad⟩ ::
            s1.tlb.filter (fun t => !(t.core == core && t.ctx == ctx && decide (t.base < base + size)
              && decide (base < t.base + t.size)))) }
      else s1
    | _ => s

/-- R43, R329: a core fetches an iword: its translation is used, and its instruction cache comes to hold the word; a cache that is full first
gives up what it holds (log entry 82). -/
def State.fetchIword (s : State) (core ctx va : Nat) : State :=
  let s1 := s.touch core ctx va false
  let key := s1.keyAt core ctx va false
  if (Table.find s1.icache (icacheKey core key)).isSome then s1
  else
    let mine : Nat × Iword → Bool := fun e => e.1 / 2 ^ 54 == core
    let kept := if (s1.icache.filter mine).length < 8192 then s1.icache else s1.icache.filter (fun e => !mine e)
    { s1.readBlocks [key] with icache := Table.put kept (icacheKey core key) (s1.fetchWord core ctx va) }

/-- Touches every page of an access. -/
def State.touchAll (s : State) (core ctx va n : Nat) (store : Bool) : State :=
  (pageParts va n).foldl (fun s p => s.touch core ctx p.1 store) s

end Sys2Proof.Machine
end

