-- ==== Sys2Proof/Machine/Home.lean ====
section
/-! DEFINITION. Machine/Home.lean: bolts (R170 to R174), errors of the storage behind them (R328 to R331), stores and their visibility
(R196, R204 to R208), homes, requesters and patterns (R352 to R365, R369 to R372, R383), and the lane checks of R164. -/

namespace Sys2Proof.Machine

/-- The granules `lo` to `hi` - 1 of a frame as bits of its 2,048. -/
def granMask (lo hi : Nat) : BitVec 2048 := BitVec.ofNat 2048 ((2 ^ (128 * (hi - lo)) - 1) * 2 ^ (128 * lo))

/-- The granules `lo` to `hi` - 1 of a frame as bits of 16. -/
def granBits (lo hi : Nat) : BitVec 16 := BitVec.ofNat 16 ((2 ^ (hi - lo) - 1) * 2 ^ lo)

/-- The part of a bolt from granule `lo` to `hi` - 1. -/
def Bolt.cut (b : Bolt) (lo hi : Nat) : Bolt :=
  { b with lo := lo, hi := hi, data := b.data &&& granMask lo hi, poison := b.poison &&& granBits lo hi, dirty := b.dirty &&& granBits lo hi }

/-- R172: two bolts of one cache and frame overlap or abut. -/
def Bolt.touches (n o : Bolt) : Bool := n.cache == o.cache && n.frame == o.frame && decide (n.lo ≤ o.hi) && decide (o.lo ≤ n.hi)

/-- R172: the bolts that `o` leaves when the granules of `n` are removed from it. -/
def Bolt.trim (n o : Bolt) : List Bolt :=
  (if o.lo < n.lo then [o.cut o.lo (min o.hi n.lo)] else []) ++ (if n.hi < o.hi then [o.cut (max o.lo n.hi) o.hi] else [])

/-- R172: two bolts that become one: both read copies with the old one's lease alive, or both owned, or a home slice's. -/
def Bolt.merges (now : Nat) (n o : Bolt) : Bool :=
  n.touches o && ((!n.owned && !o.owned && o.alive now) || (n.owned && o.owned) || decide (2048 ≤ n.cache))

/-- The earlier of two lease expiries. -/
def minLease (a b : Option Nat) : Option Nat :=
  match a, b with
  | some x, some y => some (min x y)
  | some x, none => some x
  | none, y => y

/-- R172: the union of two bolts; the new one's bytes stand where both hold some. -/
def Bolt.union (n o : Bolt) : Bolt :=
  { n with
    lo := min n.lo o.lo, hi := max n.hi o.hi,
    data := (n.data &&& granMask n.lo n.hi) ||| (o.data &&& ~~~(granMask n.lo n.hi)),
    poison := (n.poison &&& granBits n.lo n.hi) ||| (o.poison &&& ~~~(granBits n.lo n.hi)),
    dirty := n.dirty ||| o.dirty, fill := min n.fill o.fill, lease := minLease n.lease o.lease }

/-- R172: one pass of an insertion over the bolts of the caches: what the new bolt becomes, and the bolts that stay. -/
def insertPass (now : Nat) (n : Bolt) : List Bolt → Bolt × List Bolt
  | [] => (n, [])
  | o :: t =>
    if n.merges now o then insertPass now (n.union o) t
    else
      let r := insertPass now n t
      if n.touches o && decide (n.lo < o.hi) && decide (o.lo < n.hi) then (r.1, n.trim o ++ r.2) else (r.1, o :: r.2)

/-- R172: inserts a bolt; the newest stands first. -/
def insertBolt (now : Nat) (bs : List Bolt) (n : Bolt) : List Bolt :=
  let r := insertPass now n bs
  let r2 := insertPass now r.1 r.2
  r2.1 :: r2.2

/-- R172, R206: removes granules `lo` to `hi` - 1 of a frame from the bolts that `p` selects. -/
def dropSpan (p : Bolt → Bool) (frame lo hi : Nat) (bs : List Bolt) : List Bolt :=
  bs.flatMap (fun o =>
    if p o && o.frame == frame && decide (lo < o.hi) && decide (o.lo < hi) then
      Bolt.trim { o with lo := lo, hi := hi } o
    else [o])

/-- The runs of consecutive granules of a frame that `p` selects, from `lo` to `hi` - 1: first, and one past the last. -/
def runsOf (p : Nat → Bool) (lo hi : Nat) : List (Nat × Nat) :=
  (List.range (hi - lo)).foldr (fun i acc =>
    let g := lo + i
    if p g then
      match acc with
      | (a, b) :: t => if a = g + 1 then (g, b) :: t else (g, g + 1) :: acc
      | [] => [(g, g + 1)]
    else acc) []

/-- First and one past the last of some granules in rising order. -/
def hull : List Nat → Option (Nat × Nat)
  | [] => none
  | g :: t => some (g, (g :: t).getLast (by simp) + 1)

-- What a reader sees.

/-- The cache index of a requester's proxy slices. -/
def proxyOf (req : Nat) : Nat := 1024 + req

/-- A byte of a frame's bytes. -/
def frameByte (d : BitVec 2048) (b : Nat) : Byte := d.extractLsb' (8 * b) 8

/-- A byte as a read returns it: its value; the Tv of the store that wrote it, when another group made it and it lies in the future
(R208), else 0; whether it is poisoned (R331). -/
structure ByteRead where
  val : Byte
  tv  : Nat
  psn : Bool
deriving DecidableEq, Repr

/-- R193: the core in whose instance an agent stands, by its core and slot: a core's own copy engine is in it (its slot is the chain's key). -/
def ownerOf (core slot : Nat) : Nat := if 2000 ≤ core && core < 2004 && slot < 2880 then slot / 4 else core

/-- R188, R196, R203, R204, R361: an agent on a core sees a store before its Tv: its own core's or one of its core's copy engine (log entry
83), one that the core has read at the home, or one that has been pushed to its die. The proxies of a die are no agents on a core. -/
def Flight.early (core : Nat) (f : Flight) : Bool :=
  ownerOf f.core f.slot == core || f.seen.contains core || ((decide (core < 720) || decide (2000 ≤ core)) && f.seen.contains (proxyOf (dieOf core)))

/-- R381, R394: a port in service reaches the peer of a fabric address now: it neither trains nor replays. -/
def State.reaches (s : State) (key : Nat) : Bool :=
  tierOf key != 3 || s.ports.any (fun p => !p.2.down && !p.2.training && p.2.replay.isNone && p.2.peers.contains (bits key 43 9))

/-- R204, R381, R394: a store in flight has not performed: its Tv has not come, or no acknowledgement of it can have returned. -/
def State.waiting (s : State) (f : Flight) : Bool := decide (s.time < f.tv) || !s.reaches f.key

/-- R204: an agent on a core may see a store now. -/
def Flight.visible (core now : Nat) (f : Flight) : Bool := f.early core || decide (f.tv ≤ now)

/-- The newest store that `p` selects, with the stores after it. -/
def newestOf (p : Flight → Bool) : List Flight → Option (Flight × List Flight)
  | [] => none
  | f :: t =>
    match newestOf p t with
    | some r => some r
    | none => if p f then some (f, t) else none

/-- The byte that a key names as the stores in coherence order leave it: of addressed memory or, from 2^60 on, of scratchpad storage
(R181). -/
def State.base (s : State) (key : Nat) : Byte := if key < 2 ^ 60 then s.mem.read key else s.scratch.read (key - 2 ^ 60)

/-- R196, R199, R200, R206: a byte as its home gives it to an agent on a core: the newest store in coherence order that the agent may
see; else what the byte was before the stores in flight. A store to a fabric or host-shared page carries no Tv (R369, R382). -/
def State.homeByte (s : State) (core slot key : Nat) : ByteRead :=
  let fs := s.flight.filter (fun f => f.key == key)
  let psnAt : List Flight → Bool := fun later =>
    match later with | f :: _ => f.psn || s.unserved key | [] => s.poisoned key
  match newestOf (Flight.visible (ownerOf core slot) s.time) fs with
  | some (g, later) =>
    ⟨g.new, if decide (s.time < g.tv) && !s.switched key && !(g.core == core && g.slot == slot) then g.tv else 0, psnAt later⟩
  | none =>
    match fs with
    | f :: _ => ⟨f.old, 0, f.psn || s.unserved key⟩
    | [] => ⟨s.base key, 0, psnAt []⟩

/-- R363: the pattern of a frame keeps masks of its bytes (P4, and the loaded tables of its class). -/
def State.masked (s : State) (frame : Nat) : Bool :=
  match s.slotAt frame with
  | 4 => true
  | k => if k < 6 then false else (match Table.find s.patterns k with | some p => p.masks | none => false)

/-- R173, R331, R353: a byte as a load on a core returns it: an L1 read copy at the tag check; else the die's proxy copy of a remote
frame, unless the frame is privatised by bytes (R360); else the home. A store that the core sees early is newer than any copy. A frame
homed on a lost die reads as poisoned from any of them (R378). -/
def State.loadByte (s : State) (core slot key : Nat) : ByteRead :=
  let home := s.homeByte core slot key
  let copy : Bolt → ByteRead := fun b => ⟨frameByte b.data (key % 256), 0, b.poison.getLsbD (key % 256 / 16) || s.lostDies.contains (homeDie key)⟩
  if s.flight.any (fun f => f.key == key && f.early (ownerOf core slot)) then home
  else
    match s.boltOf core key with
    | some b => if b.owned then home else copy b
    | none =>
      match s.boltOf (proxyOf (dieOf core)) key with
      | some b => if b.owned || s.masked (key / 256) then home else copy b
      | none => home

/-- Bytes as a load returns them. -/
def State.loadBytes (s : State) (core slot key n : Nat) : List ByteRead := (List.range n).map (fun i => s.loadByte core slot (key + i))

/-- The bytes and the poison of some reads of the granules `lo` to `hi` - 1 of a frame, in order. -/
def packGranules (lo : Nat) (rs : List ByteRead) : BitVec 2048 × BitVec 16 :=
  (BitVec.ofNat 2048 (leNat (rs.map (·.val)) * 2 ^ (128 * lo)),
    BitVec.ofNat 16 (((List.range ((rs.length + 15) / 16)).foldl (fun m g =>
      if ((rs.drop (16 * g)).take 16).any (·.psn) then m + 2 ^ g else m) 0) * 2 ^ lo))

/-- The granules `lo` to `hi` - 1 of a frame, and their poison, as a load on a core would bring them into its L1 now. -/
def State.snapshot (s : State) (core slot frame lo hi : Nat) : BitVec 2048 × BitVec 16 :=
  packGranules lo (s.loadBytes core slot (frame * 256 + 16 * lo) (16 * (hi - lo)))

/-- The same as the home sends them to a cache. -/
def State.homeSpan (s : State) (cache frame lo hi : Nat) : BitVec 2048 × BitVec 16 :=
  packGranules lo ((List.range (16 * (hi - lo))).map (fun i => s.homeByte cache 0 (frame * 256 + 16 * lo + i)))

-- Storage behind the homes.

/-- R328: CRC-16 with polynomial 0x8BB7 and initial value 0, over bytes in order. -/
def crc16 (bs : List Byte) : BitVec 16 :=
  bs.foldl (fun c b => (List.range 8).foldl (fun c _ => if c.msb then (c <<< (1 : Nat)) ^^^ 0x8BB7#16 else c <<< (1 : Nat))
    (c ^^^ ((b.zeroExtend 16 : BitVec 16) <<< (8 : Nat)))) 0

/-- R328: the sideband word of a 64-byte block of HBM, by block number: CRC, poison bit, zeros. -/
def State.sideband (s : State) (block : Nat) : BitVec 32 :=
  BitVec.ofNat 32 ((crc16 (s.mem.reads (block * 64) 64)).toNat + (if s.badBlocks.contains block then 2 ^ 16 else 0))

/-- R326: the address of a bank's row at column 0: the inverse of its fields. -/
def hbmAddr (stack ch group bank row : Nat) : Nat :=
  row * 2 ^ 22 + ((stack ^^^ bits row 0 3) ^^^ bits row 9 3) * 2 ^ 6 + (ch ^^^ bits row 3 5) * 2 ^ 9 + (group ^^^ bits row 12 2) * 2 ^ 14
    + (bank ^^^ bits row 14 2) * 2 ^ 16

/-- R328: byte `i` of the 32 that hold the 16 check symbols of a data row, given by its address: the code of its 512 data symbols, whose
polynomials the spec does not give (log entry 84). -/
def State.checkByte (s : State) (row i : Nat) : Byte :=
  (Config.checkSymbol ((List.range 512).map (fun k => BitVec.ofNat 16 (s.mem.readNat (row + k / 32 * 2 ^ 18 + 2 * (k % 32)) 2)))
    (i / 2)).extractLsb' (8 * (i % 2)) 8

/-- R328: byte `b` of a row of a bank: data; the symbols of data row r in row 126,976 + r div 32 at bytes 32 × (r mod 32) on; or a spare
row. -/
def State.rowByte (s : State) (stack ch group bank row b : Nat) : Byte :=
  let addr := hbmAddr stack ch group bank
  if 126976 ≤ row && row < 130944 then s.checkByte (addr (32 * (row - 126976) + b / 32)) (b % 32)
  else s.mem.read (addr row + b / 64 * 2 ^ 18 + b % 64)

/-- R170, R172, R329, R330: the home slice of a frame comes to hold the granules `lo` to `hi` - 1: blocks that it lacks are read from their
tier, and those whose poison bit is set bring their granules poisoned. A frame of a fabric page has no home slice here (R352). -/
def State.homeHold (s : State) (frame lo hi : Nat) : State :=
  if tierOf (frame * 256) = 3 then s
  else
    let lacks := (List.range (hi - lo)).filterMap (fun i => if s.sliceHas frame (lo + i) then none else some (lo + i))
    let blocks := (lacks.map (· / 4)).eraseDups.map (· + frame * 4)
    let s1 := if tierOf (frame * 256) = 0 then blocks.foldl State.checkBlock s else s
    let bad := lacks.filter (fun g => s1.coldBad (frame * 256 + 16 * g))
    { s1 with
      poison := bad.foldl (fun l g => insertNat l (frame * 16 + g)) s1.poison,
      bolts := insertBolt s.time s1.bolts ⟨sliceOf frame, frame, lo, hi, true, 0, 0, 0, s.time, none⟩ }

/-- R330: a home slice's copy of some granules has been written. -/
def State.soil (s : State) (frame lo hi : Nat) : State :=
  { s with bolts := s.bolts.map (fun b =>
      if b.cache == sliceOf frame && b.frame == frame then { b with dirty := b.dirty ||| (granBits lo hi &&& granBits b.lo b.hi) } else b) }

/-- R330, R331: the blocks of a home slice's bolt that have been written go to their tier: one of which it holds all four granules
unpoisoned is clean from then on; another whose poison bit is set stays poisoned whole. -/
def State.writeBack (s : State) (b : Bolt) : State :=
  (List.range 4).foldl (fun s i =>
    let block := b.frame * 4 + i
    let grans := (List.range 4).map (· + block * 4)
    if b.hi ≤ 4 * i || 4 * i + 4 ≤ b.lo || b.dirty.extractLsb' (4 * i) 4 == 0 then s
    else if b.lo ≤ 4 * i && 4 * i + 4 ≤ b.hi && !grans.any s.poison.contains then
      { s with badBlocks := s.badBlocks.filter (· != block),
               badSyms := if tierOf (block * 64) = 0 then
                   Table.setD s.badSyms [] (hbmRowOf (block * 64))
                     ((Table.getD s.badSyms [] (hbmRowOf (block * 64))).filter (fun x => !inColumn (hbmCol (block * 64)) x))
                 else s.badSyms }
    else if s.badBlocks.contains block then { s with poison := grans.foldl insertNat s.poison }
    else s) s

-- Patterns.

/-- A rule of a pattern (R363): next state, actions and WAIT. -/
def rule (next acts wait : Nat) : BitVec 32 := BitVec.ofNat 32 (next + acts + wait * 2 ^ 24)

/-- The action bits of R363. -/
def SD : Nat := 2 ^ 4
def SI : Nat := 2 ^ 5
def CA : Nat := 2 ^ 6
def AS : Nat := 2 ^ 7
def CS : Nat := 2 ^ 8
def SU : Nat := 2 ^ 9
def GX : Nat := 2 ^ 10
def MM : Nat := 2 ^ 11
def WH : Nat := 2 ^ 12
def FR : Nat := 2 ^ 13
def STALL : Nat := 2 ^ 14

/-- The rows of a state's 16 events (R364), in order RD RDX UPG WR AT EVC WB ACK DATA FL IV ZR OVL DSJ RCL and the event never raised. -/
def row (rd rdx upg wr at_ evc wb ack data fl iv zr ovl dsj rcl : BitVec 32) (self : Nat) : List (BitVec 32) :=
  [rd, rdx, upg, wr, at_, evc, wb, ack, data, fl, iv, zr, ovl, dsj, rcl, rule self STALL 0]

/-- The recall of every other copy with acknowledgement, then the home copy written. -/
def RECALL : Nat := SI + CA + CS + WH

/-- P0 INVALIDATE (R358; log entry 11): 0 invalid, 1 shared, 2 exclusive. -/
def patInvalidate : List (BitVec 32) :=
  row (rule 1 (SD + AS) 0) (rule 2 (SD + GX + CS + AS) 0) (rule 2 (GX + CS + AS) 0) (rule 0 WH 0) (rule 0 WH 0) (rule 0 CS 0)
      (rule 0 WH 0) (rule 0 CS 0) (rule 0 WH 0) (rule 0 WH 0) (rule 0 WH 0) (rule 0 WH 0) (rule 0 STALL 0) (rule 0 STALL 0)
      (rule 0 CS 0) 0
  ++ row (rule 1 (SD + AS) 0) (rule 2 (SI + CA + SD + GX + CS + AS) 1) (rule 2 (SI + CA + GX + CS + AS) 1) (rule 0 RECALL 1)
      (rule 0 RECALL 1) (rule 1 WH 0) (rule 1 WH 0) (rule 1 WH 0) (rule 1 WH 0) (rule 1 WH 0) (rule 1 WH 0) (rule 0 RECALL 1)
      (rule 1 STALL 0) (rule 1 STALL 0) (rule 0 RECALL 1) 1
  ++ row (rule 1 (SD + AS + WH) 2) (rule 2 (SI + CA + SD + GX + CS + AS + WH) 1) (rule 2 (SI + CA + GX + CS + AS + WH) 1)
      (rule 0 RECALL 1) (rule 0 RECALL 1) (rule 0 CS 0) (rule 2 WH 0) (rule 2 WH 0) (rule 2 WH 0) (rule 1 WH 2) (rule 1 WH 2)
      (rule 0 RECALL 1) (rule 2 STALL 0) (rule 2 STALL 0) (rule 0 RECALL 1) 2

/-- P1 UPDATE: 0 invalid, 1 shared; writes, atomics and the words of a ZERO are performed at the home and pushed (R361). -/
def patUpdate : List (BitVec 32) :=
  row (rule 1 (SD + AS) 0) (rule 0 WH 0) (rule 0 WH 0) (rule 0 WH 0) (rule 0 WH 0) (rule 0 CS 0) (rule 0 WH 0) (rule 0 CS 0)
      (rule 0 WH 0) (rule 0 WH 0) (rule 0 WH 0) (rule 0 WH 0) (rule 0 STALL 0) (rule 0 STALL 0) (rule 0 CS 0) 0
  ++ row (rule 1 (SD + AS) 0) (rule 1 (SU + CA + WH) 1) (rule 1 (SU + CA + WH) 1) (rule 1 (SU + CA + WH) 1)
      (rule 1 (SU + CA + WH) 1) (rule 1 WH 0) (rule 1 WH 0) (rule 1 WH 0) (rule 1 WH 0) (rule 1 WH 0) (rule 1 WH 0)
      (rule 1 (SU + CA + WH) 1) (rule 1 STALL 0) (rule 1 STALL 0) (rule 0 RECALL 1) 1

/-- P2 MIGRATORY: 0 invalid, 1 exclusive. -/
def patMigratory : List (BitVec 32) :=
  row (rule 1 (SD + GX + CS + AS) 0) (rule 1 (SD + GX + CS + AS) 0) (rule 1 (SD + GX + CS + AS) 0) (rule 0 WH 0) (rule 0 WH 0)
      (rule 0 CS 0) (rule 0 WH 0) (rule 0 CS 0) (rule 0 WH 0) (rule 0 WH 0) (rule 0 WH 0) (rule 0 WH 0) (rule 0 STALL 0)
      (rule 0 STALL 0) (rule 0 CS 0) 0
  ++ row (rule 1 (SI + CA + SD + GX + CS + AS + WH) 1) (rule 1 (SI + CA + SD + GX + CS + AS + WH) 1)
      (rule 1 (SI + CA + SD + GX + CS + AS + WH) 1) (rule 0 RECALL 1) (rule 0 RECALL 1) (rule 0 CS 0) (rule 1 WH 0)
      (rule 1 WH 0) (rule 1 WH 0) (rule 1 WH 2) (rule 0 RECALL 1) (rule 0 RECALL 1) (rule 1 STALL 0) (rule 1 STALL 0)
      (rule 0 RECALL 1) 1

/-- P3 WRITE-ONCE: 0 invalid, 1 shared; FR is taken when a touched word is marked (R365). -/
def patWriteOnce : List (BitVec 32) :=
  row (rule 1 (SD + AS) 0) (rule 0 (FR + WH) 0) (rule 0 (FR + WH) 0) (rule 0 (FR + WH) 0) (rule 0 (FR + WH) 0) (rule 0 CS 0)
      (rule 0 WH 0) (rule 0 CS 0) (rule 0 WH 0) (rule 0 WH 0) (rule 0 WH 0) (rule 0 WH 0) (rule 0 STALL 0) (rule 0 STALL 0)
      (rule 0 CS 0) 0
  ++ row (rule 1 (SD + AS) 0) (rule 1 (FR + WH) 0) (rule 1 (FR + WH) 0) (rule 1 (FR + WH) 0) (rule 1 (FR + WH) 0) (rule 1 WH 0)
      (rule 1 WH 0) (rule 1 WH 0) (rule 1 WH 0) (rule 1 WH 0) (rule 1 WH 0) (rule 0 RECALL 1) (rule 1 STALL 0) (rule 1 STALL 0)
      (rule 0 RECALL 1) 1

/-- P4 PRIVATISE: P0's three states and 3 privatised. -/
def patPrivatise : List (BitVec 32) :=
  row (rule 1 (SD + AS) 0) (rule 2 (SD + GX + CS + AS) 0) (rule 2 (GX + CS + AS) 0) (rule 0 WH 0) (rule 0 WH 0) (rule 0 CS 0)
      (rule 0 WH 0) (rule 0 CS 0) (rule 0 WH 0) (rule 0 WH 0) (rule 0 WH 0) (rule 0 (MM + WH) 0) (rule 0 (MM + WH) 0)
      (rule 0 WH 0) (rule 0 CS 0) 0
  ++ row (rule 1 (SD + AS) 0) (rule 2 (SI + CA + SD + GX + CS + AS) 1) (rule 2 (SI + CA + GX + CS + AS) 1) (rule 0 RECALL 1)
      (rule 0 RECALL 1) (rule 1 WH 0) (rule 1 WH 0) (rule 1 WH 0) (rule 1 WH 0) (rule 1 WH 0) (rule 1 WH 0) (rule 0 (RECALL + MM) 1)
      (rule 0 (RECALL + MM) 1) (rule 1 WH 0) (rule 0 (RECALL + MM) 1) 1
  ++ row (rule 1 (SD + AS + MM + WH) 2) (rule 2 (SI + CA + SD + GX + CS + AS + WH) 1) (rule 2 (SI + CA + GX + CS + AS + WH) 1)
      (rule 0 (RECALL + MM) 1) (rule 0 (RECALL + MM) 1) (rule 0 (CS + MM) 0) (rule 2 WH 0) (rule 2 WH 0) (rule 2 WH 0) (rule 1 WH 2)
      (rule 1 WH 2) (rule 0 (RECALL + MM) 1) (rule 0 (RECALL + MM) 1) (rule 3 AS 0) (rule 0 (RECALL + MM) 1) 2
  ++ row (rule 3 (SD + AS) 0) (rule 3 (GX + AS) 0) (rule 3 (GX + AS) 0) (rule 0 (RECALL + MM) 1) (rule 0 (RECALL + MM) 1) (rule 3 WH 0)
      (rule 3 WH 0) (rule 3 WH 0) (rule 3 WH 0) (rule 0 (RECALL + MM) 1) (rule 0 (RECALL + MM) 1) (rule 0 (RECALL + MM) 1)
      (rule 0 (RECALL + MM) 1) (rule 3 AS 0) (rule 0 (RECALL + MM) 1) 3

/-- P5 UNCACHED: one state; every access is served at the home. -/
def patUncached : List (BitVec 32) :=
  row (rule 0 SD 0) (rule 0 (SD + WH) 0) (rule 0 WH 0) (rule 0 WH 0) (rule 0 WH 0) (rule 0 CS 0) (rule 0 WH 0) (rule 0 CS 0)
      (rule 0 WH 0) (rule 0 WH 0) (rule 0 WH 0) (rule 0 WH 0) (rule 0 STALL 0) (rule 0 STALL 0) (rule 0 CS 0) 0

/-- R358: the standard pattern in slots 0 to 5. -/
def stdPattern (slot : Nat) : Option Pattern :=
  let p : List (BitVec 8) → List (BitVec 32) → Bool → Option Pattern := fun sd e m => some ⟨none, 0, false, m, sd, e⟩
  match slot with
  | 0 => p [0x10, 0x11, 0x17] patInvalidate false
  | 1 => p [0x10, 0x11] patUpdate false
  | 2 => p [0x10, 0x17] patMigratory false
  | 3 => p [0x10, 0x11] patWriteOnce false
  | 4 => p [0x10, 0x11, 0x17, 0x17] patPrivatise true
  | 5 => p [0x10] patUncached false
  | _ => none

/-- The table of a pattern slot, if it holds one. -/
def State.pattern (s : State) (slot : Nat) : Option Pattern :=
  match stdPattern slot with
  | some p => some p
  | none => Table.find s.patterns slot

/-- A frame that no requester holds. -/
def Dir.empty : Dir := ⟨0, [], [], 0, [], [], [], 0⟩

/-- The directory entry of a frame. -/
def State.dir (s : State) (frame : Nat) : Dir := Table.getD s.dirs Dir.empty frame

/-- Sets a frame's directory entry. -/
def State.setDir (s : State) (frame : Nat) (d : Dir) : State := { s with dirs := Table.setD s.dirs Dir.empty frame d }

/-- A bolt that belongs to a requester's die: its proxy slices and the L1 caches of its cores (R353). -/
def Bolt.ofReq (req : Nat) (b : Bolt) : Bool := b.cache == proxyOf req || (decide (b.cache < 720) && dieOf b.cache == req)

/-- The word of memory that contains a key. -/
def State.wordAt (s : State) (key : Nat) : Slot := BitVec.ofNat 32 (s.mem.readNat (key / 4 * 4) 4)

-- Pushes.

/-- R217, R361: a pushed word wakes the fragments of a die asleep in MWAIT on its frame. -/
def State.pushWakes (s : State) (die frame : Nat) : State :=
  { s with frags := Table.mapV s.frags (fun k f =>
      match f.st with
      | .asleep (.mwait fr dl fire) =>
        if fr = frame && dieOf (k / 64) == die then
          { f with st := .asleep (.mwait fr dl (some (match fire with | none => s.time | some t => min t s.time))) }
        else f
      | _ => f) }

/-- R361, R371: a pushed word is written into every read copy of the requester's die that covers it, wakes what watches its frame, and is
seen by the die's cores from then on, whatever its Tv. The words of a granule that its store wrote whole are no longer poisoned (R331). -/
def State.applyPush (s : State) (p : Push) : State :=
  let key := p.key / 4 * 4
  ({ s with
    bolts := s.bolts.map (fun b =>
      if b.ofReq p.die && b.frame == key / 256 && !b.owned && decide (b.lo ≤ key % 256 / 16) && decide (key % 256 / 16 < b.hi) then
        { b with
          data := setBits b.data (8 * (key % 256)) 32 p.word.toNat,
          poison := if p.whole then b.poison &&& ~~~(granBits (key % 256 / 16) (key % 256 / 16 + 1)) else b.poison }
      else b)
    flight := s.flight.map (fun f =>
      if f.key / 4 * 4 = key && decide (f.id ≤ p.id) then { f with seen := insertNat f.seen (proxyOf p.die) } else f) } : State).pushWakes
        p.die (key / 256)

/-- R371: the pushes that a home has sent to a die about a frame arrive, in the order in which they were sent. -/
def State.deliver (s : State) (frame die : Nat) : State :=
  let mine : Push → Bool := fun p => p.die == die && p.key / 256 == frame
  (s.pushes.filter mine).foldl State.applyPush { s with pushes := s.pushes.filter (fun p => !mine p) }

/-- R357, R362, R365: an invalidation or a recall reaches a requester after the pushes sent before it, and every bolt of the frame there
goes; its owned words are then the home's. -/
def State.dropReq (s : State) (frame req : Nat) : State :=
  let s1 := s.deliver frame req
  { s1 with bolts := s1.bolts.filter (fun b => !(b.frame == frame && b.ofReq req)) }

/-- R357, step 2: the fixed recall of a frame: every requester's copies, masks and held state. -/
def State.recallFrame (s : State) (frame : Nat) : State :=
  let s1 := (s.dir frame).sharers.foldl (fun s r => s.dropReq frame r) s
  s1.setDir frame { Dir.empty with held := (s.dir frame).held, since := (s.dir frame).since }

/-- The granules that bytes of a frame touch: first, and one past the last. -/
def spanOf (bytes : BitVec 256) : Nat × Nat := (hull ((List.range 16).filter (fun i => bytes.extractLsb' (16 * i) 16 != 0))).getD (0, 0)

/-- The words of a frame that a byte mask touches, as keys. -/
def touchedWords (frame : Nat) (bytes : BitVec 256) : List Nat :=
  ((List.range 64).filter (fun i => bytes.extractLsb' (4 * i) 4 != 0)).map (fun i => frame * 256 + 4 * i)

/-- A die's proxy may keep a granule that the home has sent it: no store to it is in flight whose invalidation or update would follow at
once, and under P3 its words are written (R354, R358). -/
def State.mayKeep (s : State) (die frame g : Nat) : Bool :=
  !s.flight.any (fun f => f.key / 16 == frame * 16 + g && !f.visible (proxyOf die) s.time)
    && (s.slotAt frame != 3 || (wordsOf (frame * 256 + 16 * g) 16).all s.marks.contains)

/-- The proxy of a die keeps what it may of the granules `lo` to `hi` - 1 that the home has sent it, as a read copy without a lease
(R371). -/
def State.proxyKeep (s : State) (die frame lo hi : Nat) : State :=
  (runsOf (s.mayKeep die frame) lo hi).foldl (fun s r =>
    let x := s.homeSpan (proxyOf die) frame r.1 r.2
    { s with bolts := insertBolt s.time s.bolts ⟨proxyOf die, frame, r.1, r.2, false, x.1, x.2, 0, s.time, none⟩ }) s

/-- R358, R362: the owned words of a frame at a die go home, and its proxy keeps them as a read copy. -/
def State.demote (s : State) (frame die : Nat) : State :=
  let mine := s.bolts.filter (fun b => b.frame == frame && b.cache == proxyOf die && b.owned)
  mine.foldl (fun s b => s.proxyKeep die frame b.lo b.hi)
    { s with bolts := s.bolts.filter (fun b => !(b.frame == frame && b.cache == proxyOf die && b.owned)) }

/-- R361, R371: pushes of some words of a frame to a requester: each carries the newest store of its word, and must have arrived by that
store's Tv (R354). `bytes` are those written. -/
def State.pushWords (s : State) (frame req : Nat) (bytes : BitVec 256) : List Push :=
  (touchedWords frame bytes).map (fun k =>
    let last := (s.flight.filter (fun f => f.key / 4 * 4 == k)).getLast?
    ⟨req, k, s.wordAt k, (last.map (·.id)).getD 0, (last.map (·.tv)).getD s.time,
      bytes.extractLsb' (k % 256 / 16 * 16) 16 == BitVec.allOnes 16⟩)

/-- R361: the pushes of the words that a request writes, to every sharer. -/
def State.pushesOf (s : State) (r : HomeReq) (sharers : List Nat) : List Push := sharers.flatMap (fun q => s.pushWords r.frame q r.bytes)

/-- R371: under P1, a fill whose data the home read before a write is followed by that write's push: the words of the granules `lo` to
`hi` - 1 with stores in flight that a core has not been given. -/
def State.pushBehind (s : State) (core frame lo hi : Nat) : State :=
  let fs := s.flight.filter (fun f => f.key / 256 == frame && decide (lo ≤ f.key % 256 / 16) && decide (f.key % 256 / 16 < hi)
    && !f.visible core s.time)
  { s with pushes := s.pushes ++ s.pushWords frame (dieOf core) (fs.foldl (fun m f => m ||| BitVec.ofNat 256 (2 ^ (f.key % 256))) 0) }

/-- R353: a requester takes part in a frame's pattern; the home die's cores take none, except toward the switch (R372). -/
def State.partakes (s : State) (r : HomeReq) : Bool :=
  decide (4 ≤ r.req) || homeDie (r.frame * 256) != r.req || s.switched (r.frame * 256)

/-- R365: the actions of a rule, in the order FR, SI, SU, SD, GX, CS, AS, MM, WH. FR is taken by the lane checks, and WH changes nothing
here, because a store's bytes reach the home copy when it performs. A WAIT for data recalls the owned words of every holder (R358). -/
def State.actions (s : State) (x : BitVec 32) (r : HomeReq) : State :=
  let frame := r.frame
  let has : Nat → Bool := fun b => bits x.toNat (Nat.log2 b) 1 == 1
  let d0 := s.dir frame
  let others := d0.sharers.filter (· != r.req)
  let s := if has SI then others.foldl (fun s q => s.dropReq frame q) s else s
  let s := if bits x.toNat 24 4 = 2 then d0.sharers.foldl (fun s q => s.demote frame q) s else s
  let s := if has SU then { s with pushes := s.pushes ++ s.pushesOf r d0.sharers } else s
  let sp := spanOf r.bytes
  let joins := s.partakes r
  let s := if has SD && has AS && r.req < 4 && joins then s.proxyKeep r.req frame sp.1 sp.2 else s
  let s := if has GX && r.req < 4 && joins then
      { s with bolts := insertBolt s.time s.bolts ⟨proxyOf r.req, frame, sp.1, sp.2, true, 0, 0, 0, s.time, none⟩ }
    else s
  let d1 := s.dir frame
  let keep : Table (BitVec 256) → Table (BitVec 256) := fun t => if has SI then t.filter (fun e => !others.contains e.1) else t
  let d2 : Dir := { d1 with
    acc := keep d1.acc, wr := keep d1.wr,
    sharers := (if (has AS || has GX) && joins then insertNat (if has CS then [] else d1.sharers) r.req else if has CS then [] else d1.sharers),
    awaited := if has CA || bits x.toNat 24 4 = 2 then others else d1.awaited,
    wait := bits x.toNat 24 4 }
  if has MM then
    (d0.wr.foldl (fun s e => s.dropReq frame e.1) s).setDir frame { d2 with acc := [], wr := [] }
  else s.setDir frame d2

/-- The rule of a pattern for a state and an event (R363). -/
def Pattern.at (p : Pattern) (st ev : Nat) : BitVec 32 := p.entry.getD (16 * st + ev) (rule st STALL 0)

/-- The pattern that governs a frame at its home (R356, R358, R369); P0 where its slot holds none. -/
def State.patternAt (s : State) (frame : Nat) : Pattern :=
  match s.pattern (s.slotAt frame) with
  | some p => p
  | none => ⟨none, 0, false, false, [0x10, 0x11, 0x17], patInvalidate⟩

/-- The rule that an event of a frame meets now. -/
def State.ruleAt (s : State) (frame ev : Nat) : BitVec 32 := (s.patternAt frame).at (s.dir frame).st ev

/-- An event meets its rule, which is performed (R365). -/
def State.homeRule (s : State) (ev : Nat) (r : HomeReq) : State :=
  let x := s.ruleAt r.frame ev
  (s.setDir r.frame { s.dir r.frame with st := bits x.toNat 0 4 }).actions x r

/-- R360: an access of a requester would overlap another's masks in a byte that one of them writes. -/
def Dir.overlaps (d : Dir) (r : HomeReq) (writes : Bool) : Bool :=
  let mine := r.bytes ||| Table.getD d.acc 0 r.req
  let mineW := (if writes then r.bytes else 0) ||| Table.getD d.wr 0 r.req
  d.acc.any (fun e => e.1 != r.req && ((e.2 &&& mine) &&& (mineW ||| Table.getD d.wr 0 e.1)) != 0)

/-- R360: another requester's access mask is not empty, and this one's bytes lie outside it. -/
def Dir.disjoint (d : Dir) (r : HomeReq) : Bool := d.acc.any (fun e => e.1 != r.req) && Table.getD d.acc 0 r.req == 0

/-- R360: the masks after an access. -/
def Dir.addMasks (d : Dir) (r : HomeReq) (writes : Bool) : Dir :=
  { d with acc := Table.setD d.acc 0 r.req (Table.getD d.acc 0 r.req ||| r.bytes),
           wr := if writes then Table.setD d.wr 0 r.req (Table.getD d.wr 0 r.req ||| r.bytes) else d.wr }

/-- The event numbers of R364. -/
def EV.rd : Nat := 0
def EV.rdx : Nat := 1
def EV.upg : Nat := 2
def EV.wr : Nat := 3
def EV.at : Nat := 4
def EV.evc : Nat := 5
def EV.wb : Nat := 6
def EV.ack : Nat := 7
def EV.data : Nat := 8
def EV.fl : Nat := 9
def EV.iv : Nat := 10
def EV.zr : Nat := 11
def EV.ovl : Nat := 12
def EV.dsj : Nat := 13
def EV.rcl : Nat := 14

/-- R353, R369, R383: the requesters of a frame: the dies, the host die and the fabric; for the switch also each fabric peer, 6 + its number,
and that device's host die, 518 + its number. -/
def State.knows (s : State) (r : HomeReq) : Bool := decide (r.req < 6) || (s.switched (r.frame * 256) && decide (r.req < 6 + 1024))

/-- R383: the frames that the switch tracks, each with the moment since when. -/
def State.tracked (s : State) : List (Nat × Dir) := s.dirs.filter (fun e => s.switched (e.1 * 256) && !e.2.sharers.isEmpty)

/-- R383: a further requester of a frame that 64 already hold: its read is served at the home and grants no copy. -/
def State.crowded (s : State) (ev : Nat) (r : HomeReq) : Bool :=
  ev == EV.rd && s.switched (r.frame * 256) && decide (64 ≤ (s.dir r.frame).sharers.length) && !(s.dir r.frame).sharers.contains r.req

/-- R383: where the switch's directory is full, the copies of the frame that it has tracked longest are recalled before it tracks another. -/
def State.makeTracked (s : State) (r : HomeReq) : State :=
  if !s.switched (r.frame * 256) || !(s.dir r.frame).sharers.isEmpty then s
  else
    let ts := s.tracked
    let s1 :=
      if ts.length ≤ Config.switchFrames then s
      else
        match ts.foldl (fun (o : Option (Nat × Dir)) e => match o with
          | none => some e
          | some x => if e.2.since < x.2.since then some e else some x) none with
        | some e => s.homeRule EV.rcl ⟨e.1, 4096, 0⟩
        | none => s
    s1.setDir r.frame { s1.dir r.frame with since := ts.foldl (fun m e => max m e.2.since) 0 + 1 }

/-- An event of an access that writes, and one of any access. -/
def writesAt (ev : Nat) : Bool := ev == EV.rdx || ev == EV.upg || ev == EV.wr
def accessAt (ev : Nat) : Bool := ev == EV.rd || writesAt ev

/-- R360: the event that the masks of a frame raise before an access's own: a true overlap, a disjoint write, or none. -/
def State.maskEvent (s : State) (ev : Nat) (r : HomeReq) : Option Nat :=
  let d := s.dir r.frame
  if !s.masked r.frame || !s.partakes r then none
  else if (accessAt ev && d.overlaps r (writesAt ev)) || ((ev == EV.fl || ev == EV.iv) && d.wr.length > 1) then some EV.ovl
  else if writesAt ev && d.disjoint r then some EV.dsj
  else none

/-- R360: a holder's read outside its access mask, of a frame that nobody else has written there: the home only adds its bytes. -/
def State.masksOnly (s : State) (ev : Nat) (r : HomeReq) : Bool :=
  ev == EV.rd && s.masked r.frame && s.partakes r && Table.getD (s.dir r.frame).acc 0 r.req != 0 && !(s.dir r.frame).overlaps r false

/-- R365: the rule that an event meets first holds it. -/
def State.stalls (s : State) (ev : Nat) (r : HomeReq) : Bool :=
  !s.masksOnly ev r && bits (s.ruleAt r.frame ((s.maskEvent ev r).getD ev)).toNat 14 1 == 1

/-- Whether an access that a held request belongs to is still to be made: of a group by its slot's key, or of a chain by 2^20 + its key. -/
def State.asking (s : State) (who : Nat) : Bool :=
  if who < 2 ^ 20 then
    match Table.find s.groups who with
    | some g => g.held.isSome || !g.loads.isEmpty || g.rangeOp.isSome
    | none => false
  else match Table.find s.chains (who - 2 ^ 20) with
    | some c => (c.isOpen || !c.started.isEmpty) && !c.stopped
    | none => false

/-- R365: the held request of a frame that is served next: the first whose rule holds it no more. -/
def State.nextHeld (s : State) (frame : Nat) : Option Nat :=
  (s.dir frame).held.findIdx? (fun h => !s.stalls h.event h.req && h.own.all s.asking)

/-- R365: an access's request is served next, and the home waits until it is made. -/
def State.awaitsOwn (s : State) (frame : Nat) : Bool :=
  match s.nextHeld frame with
  | some i => ((s.dir frame).held[i]?.map (·.own.isSome)).getD false
  | none => false

/-- R365 with R359, R360, R364 and R383: an event that is not held is performed: a MASKS table first raises OVL or DSJ where the masks say so;
a ZERO clears the frame's marks (R191). -/
def State.serveEvent (s : State) (ev : Nat) (r : HomeReq) : State :=
  if s.masksOnly ev r then s.setDir r.frame ((s.dir r.frame).addMasks r false)
  else
    let s := s.makeTracked r
    let s := match s.maskEvent ev r with | some m => s.homeRule m r | none => s
    let s := s.homeRule ev r
    let s := if s.masked r.frame && s.partakes r && accessAt ev then s.setDir r.frame ((s.dir r.frame).addMasks r (writesAt ev)) else s
    let s := if ev = EV.iv then s.dropReq r.frame r.req else s
    if ev = EV.zr then { s with marks := s.marks.filter (fun w => w / 64 != r.frame) } else s

/-- R365: requests held by STALL are tested again after a state change; the first that the table now serves is served, and so on. The request
of an access of this device is served when the access makes it, and until then the home waits. -/
def State.retryHeld (s : State) (frame : Nat) : Nat → State
  | 0 => s
  | n + 1 =>
    let d := s.dir frame
    match s.nextHeld frame with
    | none => s
    | some i =>
      match d.held[i]? with
      | none => s
      | some h => if h.own.isSome then s else ((s.setDir frame { d with held := d.held.eraseIdx i }).serveEvent h.event h.req).retryHeld frame n

/-- R361, R364: what a message tells the home beside its rule: an acknowledgement or data ends the wait it was awaited by; a clean-eviction
notice removes its requester from the sharers. -/
def State.noteEvent (s : State) (ev : Nat) (r : HomeReq) : State :=
  let d := s.dir r.frame
  if ev = EV.evc then (s.dropReq r.frame r.req).setDir r.frame { d with sharers := d.sharers.filter (· != r.req) }
  else if ev = EV.ack || ev = EV.data then
    let a := d.awaited.filter (· != r.req)
    s.setDir r.frame { d with awaited := a, wait := if a.isEmpty then 0 else d.wait }
  else s

/-- R365: the home handles one event of a frame, or holds it. -/
def State.homeEvent (s : State) (ev : Nat) (r : HomeReq) : State :=
  if !s.knows r || s.crowded ev r then s
  else
    let s := s.noteEvent ev r
    if s.stalls ev r || s.awaitsOwn r.frame then
      s.setDir r.frame { s.dir r.frame with held := (s.dir r.frame).held ++ [⟨ev, r, none⟩] }
    else
      let s := s.serveEvent ev r
      s.retryHeld r.frame ((s.dir r.frame).held.length + 1)

/-- R354, R364, R365: the acknowledgements or the data that a frame awaits arrive, in ascending requester number, each an event; then the
home answers. -/
def State.collect (s : State) (frame : Nat) : Nat → State
  | 0 => s.setDir frame { s.dir frame with awaited := [], wait := 0 }
  | n + 1 =>
    match (s.dir frame).awaited with
    | [] => s.setDir frame { s.dir frame with wait := 0 }
    | q :: _ => (s.homeEvent (if (s.dir frame).wait = 2 then EV.data else EV.ack) ⟨frame, q, 0⟩).collect frame n

/-- An event whose answer the requester waits for: it reaches the home after the messages that the home has sent to the requester. -/
def State.homeAsk (s : State) (ev : Nat) (r : HomeReq) : State := ((s.deliver r.frame r.req).homeEvent ev r).collect r.frame 64

/-- A held request is that of an access: the event and the requester agree. -/
def HeldReq.isFor (a : Nat × HomeReq) (h : HeldReq) : Bool := h.own.isSome && h.event == a.1 && h.req.req == a.2.req

/-- R365: a request of an access that would be held now: its rule holds it, or another access's request is served first. -/
def State.stalled (s : State) (a : Nat × HomeReq) : Bool :=
  let d := s.dir a.2.frame
  s.stalls a.1 a.2 || (s.awaitsOwn a.2.frame
    && !(((s.nextHeld a.2.frame).bind (fun i => d.held[i]?)).map (HeldReq.isFor a)).getD false)

/-- R365: the request of an access is held: it takes its place among the held requests once. -/
def State.queueAsk (s : State) (who : Nat) (a : Nat × HomeReq) : State :=
  let d := s.dir a.2.frame
  if d.held.any (HeldReq.isFor a) || !s.stalled a then s else s.setDir a.2.frame { d with held := d.held ++ [⟨a.1, a.2, some who⟩] }

/-- The request of an access is made; one that was held leaves its place (R365). -/
def State.ask (s : State) (a : Nat × HomeReq) : State :=
  let d := s.dir a.2.frame
  let s := match d.held.findIdx? (HeldReq.isFor a) with
    | some i => s.setDir a.2.frame { d with held := d.held.eraseIdx i }
    | none => s
  s.homeAsk a.1 a.2

/-- R365: one of the requests of some accesses, made in order, would be held. -/
def State.asksStall (s : State) : List (Nat × HomeReq) → Bool
  | [] => false
  | a :: t => s.stalled a || (s.ask a).asksStall t

-- Loads.

/-- The bytes of a frame's 256 that `n` bytes from `key` on touch. -/
def byteMask (key n : Nat) : BitVec 256 := BitVec.ofNat 256 ((2 ^ n - 1) * 2 ^ (key % 256))

/-- The span of granules of a frame that R171 sizes for the access of bytes `o` to `o` + `n` - 1. `guess` is what the predictor has learned for
the iword, a free value that stands for a span that contains the access (log entry 3). -/
def spanFor (hint o n : Nat) (guess : Option Nat) : Nat × Nat :=
  let aligned : Nat → Nat × Nat := fun k => (o / k * k / 16, min 16 (((o + n - 1) / k * k + k) / 16))
  match hint with
  | 0 =>
    match guess with
    | none => aligned 64
    | some x =>
      let t := aligned 16
      (t.1 - x % (t.1 + 1), t.2 + x / 16 % (17 - t.2))
  | 1 => aligned 16
  | 2 => aligned 32
  | 3 => aligned 64
  | 4 => aligned 128
  | 5 => aligned 256
  | 6 => aligned 16
  | _ => (0, 16)

/-- The address of the iword at a fragment's index (R44, R46). -/
def Fragment.iaddr (f : Fragment) : Nat := f.blk + 8 * (f.idx + 1)

/-- R171: what the predictor of a core has learned for the iword that it issues. -/
def State.guess (s : State) (core : Nat) : Option Nat :=
  s.cur.bind (fun c => if c.core = core then (s.frag? core c.frag).bind (fun f => Table.find s.spatial (core * 1024 + f.iaddr / 8 % 1024)) else none)

/-- R171: an L1 has evicted a bolt, and the core's predictor learns what had been touched of it (log entry 3). -/
def State.learn (s : State) (core : Nat) : State :=
  { s.useFree with spatial := Table.put s.spatial (core * 1024 + s.freeVal % 1024) (s.freeVal / 1024) }

/-- The part of an access in one frame. -/
def frameParts (key n : Nat) : List (Nat × Nat) :=
  if n = 0 then [] else
  (List.range ((key + n - 1) / 256 + 1 - key / 256)).map (fun i =>
    let lo := max key ((key / 256 + i) * 256)
    let hi := min (key + n) ((key / 256 + i + 1) * 256)
    (lo, hi - lo))

/-- R353, R372: the frame of a key is reached through the proxies of a die. -/
def State.remote (s : State) (die key : Nat) : Bool := homeDie key != die || s.switched key

/-- R356: the number by which service firmware and the Affineur, which act for no context, go among the contexts. -/
def noCtx : Nat := 1024

/-- R356: the tenancy of the agents of a context; 64, which is none, for service firmware and the Affineur. -/
def State.tenOf (s : State) (ctx : Nat) : Nat := if ctx < noCtx then (s.ctx ctx).ten else 64

/-- R360, R370: under a pattern with masks, a read of a remote frame outside its die's access mask goes to the home with its exact bytes. -/
def State.maskAsk (s : State) (die ctx frame : Nat) (bytes : BitVec 256) : Option (Nat × HomeReq) :=
  let mine := Table.getD (s.dir frame).acc 0 die
  if s.patFor (frame * 256) (s.tenOf ctx) ≠ 16 && s.remote die (frame * 256) && s.masked frame && (mine ||| bytes) ≠ mine then
    some (EV.rd, ⟨frame, die, bytes⟩)
  else none

/-- R353, R370: what the proxy of a die asks the home for, of the granules `lo` to `hi` - 1 of a frame: from the lowest that it lacks to the
highest. -/
def State.proxyAsk (s : State) (die ctx frame lo hi : Nat) : Option (Nat × HomeReq) :=
  let key := frame * 256
  if s.patFor key (s.tenOf ctx) = 16 || !s.remote die key || s.masked frame then none
  else
    (hull ((List.range (hi - lo)).filterMap (fun i =>
      if (s.boltOf (proxyOf die) (key + 16 * (lo + i))).isNone then some (lo + i) else none))).map (fun h =>
        (EV.rd, ⟨frame, die, byteMask (key + 16 * h.1) (16 * (h.2 - h.1))⟩))

/-- A request is made, if there is one. -/
def State.askOpt (s : State) (a : Option (Nat × HomeReq)) : State := match a with | some a => s.ask a | none => s

/-- R353, R370, R372: a miss of a core on granules `lo` to `hi` - 1 of a frame: the slice that serves the core supplies them, and the
L1 holds them as a read copy for the context's lease (R206, R354), except where no copy is granted (R356, R358, R383). The home slice reads
only what the proxy lacks. -/
def State.fill (s : State) (core slot ctx frame lo hi : Nat) : State :=
  let pat := s.patFor (frame * 256) (s.tenOf ctx)
  if pat = 16 then (s.recallFrame frame).homeHold frame lo hi
  else
    let a := s.proxyAsk (dieOf core) ctx frame lo hi
    let far := s.remote (dieOf core) (frame * 256)
    let alone := far && s.crowded EV.rd ⟨frame, dieOf core, 0⟩
    let need := match a with | some q => spanOf q.2.bytes | none => (lo, hi)
    let s := if a.isSome || !far || s.masked frame then (s.homeHold frame need.1 need.2).askOpt a else s
    if pat = 5 || alone then s
    else
      let x := s.snapshot core slot frame lo hi
      let s := { s with bolts := insertBolt s.time s.bolts ⟨core, frame, lo, hi, false, x.1, x.2, 0, s.time, some (s.time + (s.ctx ctx).lease)⟩ }
      if pat = 1 && far then s.pushBehind core frame lo hi else s

/-- R170: a core's L1 lacks a granule of a frame. -/
def State.lacks (s : State) (core frame g : Nat) : Bool := (s.boltOf core (frame * 256 + 16 * g)).isNone

/-- R370, R373: what the lanes' accesses in one frame, served as one, fetch: where one of the granules `gs` that they touch is missing, the
missing granules of the union of their spans, as one span. -/
def State.fetchSpan (s : State) (core frame : Nat) (spans : List (Nat × Nat)) (gs : List Nat) : Option (Nat × Nat) :=
  if gs.any (s.lacks core frame) then
    hull ((List.range 16).filter (fun g => spans.any (fun p => decide (p.1 ≤ g) && decide (g < p.2)) && s.lacks core frame g))
  else none

/-- R370, R373: the fetch of a frame's part of some accesses. -/
def State.serve (s : State) (core slot ctx frame : Nat) (spans : List (Nat × Nat)) (gs : List Nat) : State :=
  match s.fetchSpan core frame spans gs with
  | some h => s.fill core slot ctx frame h.1 h.2
  | none => s

/-- The frames of a list of accesses, each with the lanes' spans there. -/
def spansBy (accs : List (Nat × Nat)) (hint : Nat) (guess : Option Nat) : Table (List (Nat × Nat)) :=
  accs.foldl (fun t a => (frameParts a.1 a.2).foldl (fun t p =>
    Table.put t (p.1 / 256) (spanFor hint (p.1 % 256) p.2 guess :: Table.getD t [] (p.1 / 256))) t) []

/-- The granules of a frame that some accesses touch. -/
def granulesOf (accs : List (Nat × Nat)) (frame : Nat) : List Nat :=
  (List.range 16).filter (fun g => accs.any (fun a => decide (a.1 < frame * 256 + 16 * g + 16) && decide (frame * 256 + 16 * g < a.1 + a.2)))

/-- The bytes of each frame that some accesses touch. -/
def bytesBy (accs : List (Nat × Nat)) : Table (BitVec 256) :=
  accs.foldl (fun t a => (frameParts a.1 a.2).foldl (fun t p =>
    Table.put t (p.1 / 256) (Table.getD t 0 (p.1 / 256) ||| byteMask p.1 p.2)) t) []

/-- R360, R370: what the accesses of one instruction ask the homes of frames with masks, one request for each frame. -/
def State.maskAsks (s : State) (core ctx : Nat) (accs : List (Nat × Nat)) : List (Nat × HomeReq) :=
  (bytesBy accs).filterMap (fun e => s.maskAsk (dieOf core) ctx e.1 e.2)

/-- R360: a read that goes to the home reads there, and not in the copy that the core's L1 holds. -/
def State.dropFor (s : State) (core : Nat) (a : Nat × HomeReq) : State :=
  { s with bolts := dropSpan (fun b => b.cache == core && !b.owned) a.2.frame (spanOf a.2.bytes).1 (spanOf a.2.bytes).2 s.bolts }

/-- R171, R360, R370: the accesses of one instruction reach the slices that serve the core, which supply what its L1 lacks. -/
def State.fetch (s : State) (core slot ctx : Nat) (accs : List (Nat × Nat)) (spans : Table (List (Nat × Nat))) : State :=
  let s1 := (s.maskAsks core ctx accs).foldl (fun s a => (s.dropFor core a).ask a) s
  spans.foldl (fun s e => s.serve core slot ctx e.1 e.2 (granulesOf accs e.1)) s1

/-- The requests that such a fetch would make first at the homes of its frames. -/
def State.fetchAsks (s : State) (core ctx : Nat) (accs : List (Nat × Nat)) (spans : Table (List (Nat × Nat))) : List (Nat × HomeReq) :=
  s.maskAsks core ctx accs
    ++ spans.filterMap (fun e => (s.fetchSpan core e.1 e.2 (granulesOf accs e.1)).bind (fun h => s.proxyAsk (dieOf core) ctx e.1 h.1 h.2))

/-- The bolts that the accesses of one instruction fill at once (R171, R370). -/
def State.fillFor (s : State) (core slot ctx : Nat) (accs : List (Nat × Nat)) (hint : Nat) : State :=
  s.fetch core slot ctx accs (spansBy accs hint (s.guess core))

/-- R358: the moment until which a load of P5 bytes waits: every store of its own core to them has performed at the home. -/
def State.uncachedTv (s : State) (core ctx : Nat) (accs : List (Nat × Nat)) : Nat :=
  let ten := s.tenOf ctx
  (s.flight.filter (fun f => f.core == core && s.patFor f.key ten == 5
    && accs.any (fun a => decide (a.1 ≤ f.key) && decide (f.key < a.1 + a.2)))).foldl (fun m f => max m f.tv) 0

/-- R358: a load of P5 bytes waits so. -/
def State.waitUncached (s : State) (core ctx : Nat) (accs : List (Nat × Nat)) : State :=
  s.later (s.uncachedTv core ctx accs)

/-- The uncorrectable cause that reading bytes at their home consumes, if any is poisoned (R311, R331). -/
def State.poisonIn (s : State) (key n : Nat) : Option Nat :=
  if ((List.range ((key + n - 1) / 16 + 1 - key / 16)).any (fun i => s.poisoned ((key / 16 + i) * 16)))
  then some (tierCause (tierOf key)) else none

-- Stores.

/-- The agent of a store. Cores 720 and above are engines and the host die. -/
structure Agent where
  core : Nat
  slot : Nat
  lane : Nat
deriving DecidableEq, Repr

/-- An agent of the host die: service firmware, the Press or the Cutter. -/
def Agent.engine : Agent := ⟨2004, 0, 0⟩

/-- R217: a store that performs at `tv` on a frame wakes the fragments asleep in MWAIT on it, except its own lanes'; those of its own die
within 40 dcy. -/
def State.fireMonitors (s : State) (a : Agent) (frame tv : Nat) : State :=
  { s with frags := Table.mapV s.frags (fun k f =>
      match f.st with
      | .asleep (.mwait fr dl fire) =>
        if fr = frame && !(k / 64 == a.core && f.slot == a.slot && f.mask.getLsbD a.lane) then
          { f with st := .asleep (.mwait fr (if dieOf (k / 64) == dieOf a.core then minLease dl (some (tv + 40)) else dl)
              (some (match fire with | none => tv | some t => min t tv))) }
        else f
      | _ => f) }

/-- A store to an address that drops it: behind a CXL port that is down (R335), or on a peer that no port reaches (R381). -/
def State.dropsStore (s : State) (key : Nat) : Bool := s.cxlDown key || s.peerDown key

/-- R331: a store that writes every byte of a poisoned granule clears its poison. -/
def clearPoison (ps : List Nat) (key n : Nat) : List Nat :=
  ps.filter (fun g => !(decide (key ≤ g * 16) && decide (g * 16 + 16 ≤ key + n)))

/-- R204: whether copies beyond the home's die must be invalidated or updated before the store's Tv. -/
def State.remoteCopies (s : State) (key : Nat) : Bool := !(s.dir (key / 256)).sharers.isEmpty

/-- R204: the bound on d for a store of a core to a key: 256 dcy on its own die without remote copies, else 2,048. -/
def State.tvBound (s : State) (core key : Nat) : Nat :=
  if homeDie key = dieOf core && !s.remoteCopies key then 256 else 2048

/-- The kinds of store: a plain store, the store of an atomic (R188), a frame of ZERO (R191). -/
inductive StoreKind where
  | plain | atomic | zero
deriving DecidableEq, Repr

/-- R353: a die's proxy holds every granule of some bytes of a frame as owned words. -/
def State.proxyOwns (s : State) (die key n : Nat) : Bool :=
  (List.range ((key + n - 1) / 16 + 1 - key / 16)).all (fun i =>
    match s.boltOf (proxyOf die) ((key / 16 + i) * 16) with | some b => b.owned | none => false)

/-- R188, R191, R353, R358: the event that a store of bytes of one frame raises at the home, if it raises one: an atomic and a ZERO are
performed at the home, and so are the stores of P1, P3 and P5; under another pattern a die that owns the words stores locally. -/
def State.storeAsk (s : State) (kind : StoreKind) (core ctx key n : Nat) : Option (Nat × HomeReq) :=
  let frame := key / 256
  let pat := s.patFor key (s.tenOf ctx)
  let die := dieOf core
  let r : HomeReq := ⟨frame, die, byteMask key n⟩
  if pat = 16 || (!s.remote die key && !s.remoteCopies key) then none
  else
    match kind with
    | .atomic => some (EV.at, r)
    | .zero => some (EV.zr, r)
    | .plain =>
      if !s.remote die key || pat = 1 || pat = 3 || pat = 5 then some (EV.wr, r)
      else if s.proxyOwns die key n then
        if !s.masked frame || (Table.getD (s.dir frame).acc 0 die ||| r.bytes) == Table.getD (s.dir frame).acc 0 die then none
        else some (EV.upg, r)
      else some (if (s.boltOf (proxyOf die) key).isSome then EV.upg else EV.rdx, r)

/-- R191, R358: a ZERO of a write-once frame invalidates every copy of it, on every die. -/
def State.dropCopies (s : State) (frame : Nat) : State :=
  { s with bolts := s.bolts.filter (fun b => !(b.frame == frame && decide (b.cache < 2048))) }

/-- What a store makes of its frame's directory entry. An atomic or a ZERO first recalls the storing die's own copies as well, unless P1
updates them (R358, R361). -/
def State.storeEvent (s : State) (kind : StoreKind) (core ctx key n : Nat) : State :=
  let frame := key / 256
  let die := dieOf core
  if s.patFor key (s.tenOf ctx) = 16 then s.recallFrame frame
  else
    let s := if kind = .zero && s.slotAt frame = 3 then s.dropCopies frame else s
    match s.storeAsk kind core ctx key n with
    | some a => (if kind ≠ .plain && s.slotAt frame ≠ 1 && s.remote die key then s.dropReq frame die else s).ask a
    | none =>
      if s.masked frame && s.remote die key then s.setDir frame ((s.dir frame).addMasks ⟨frame, die, byteMask key n⟩ true) else s

/-- R359, R191: the marks after a store of a kind; an agent of another tenancy leaves them as they stand (R356). R359 has a ZERO clear them at
any moment up to its Tv; the model clears them at its issue (DESIGN CHOICE, log entry 85). -/
def State.kindMarks (s : State) (k : StoreKind) (ctx key n : Nat) : List Nat :=
  let pat := s.patFor key (s.tenOf ctx)
  match k with
  | .zero => if pat = 16 then s.marks else s.marks.filter (fun w => !(wordsOf key n).contains w)
  | _ => if pat = 3 then (wordsOf key n).foldl insertNat s.marks else s.marks

/-- The bytes of a store written into a read copy that holds them; a granule written whole is no longer poisoned (R188, R331). -/
def Bolt.patch (b : Bolt) (key : Nat) (bs : List Byte) : Bolt :=
  let d := (List.range bs.length).foldl (fun d i =>
    let o := key % 256 + i
    if b.lo ≤ o / 16 && o / 16 < b.hi then setBits d (8 * o) 8 (bs.getD i 0).toNat else d) b.data
  { b with data := d, poison := b.poison &&& ~~~(granBits ((key % 256 + 15) / 16) ((key % 256 + bs.length) / 16)) }

/-- R187, R188, R206, R358: the L1 caches after a store. The storing core comes to own the words of a plain store, unless the pattern has the
write performed at the home; its read copies then take the bytes, as they do for an atomic. Every other core loses ownership of the
words. P5, and a store by recall, leave the core no copy. The copies of a core take what its own copy engine writes (R193, R211). -/
def State.ownBolt (s : State) (k : StoreKind) (core owner ctx key : Nat) (bs : List Byte) (hint : Nat) (guess : Option Nat) : State :=
  let frame := key / 256
  let patched : List Bolt → List Bolt := fun l =>
    l.map (fun b => if b.cache == owner && b.frame == frame && !b.owned then b.patch key bs else b)
  let n := bs.length
  let tight := spanFor 6 (key % 256) n none
  let others := dropSpan (fun b => b.owned && decide (b.cache < 720) && b.cache != core) frame tight.1 tight.2 s.bolts
  if core ≥ 720 then { s with bolts := patched others }
  else
    let pat := s.patFor key (s.tenOf ctx)
    if pat = 5 || pat = 16 then { s with bolts := dropSpan (fun b => b.cache == core) frame tight.1 tight.2 others }
    else if k ≠ .plain || ((pat = 1 || pat = 3) && s.remote (dieOf core) key) then
      { s with bolts := patched others }
    else
      let sp := spanFor hint (key % 256) n guess
      { s with bolts := insertBolt s.time others ⟨core, frame, sp.1, sp.2, true, 0, 0, 0, s.time, none⟩ }

/-- R203: the earliest Tv that a store of an agent may have: its group's atomics have performed before it. -/
def State.floorOf (s : State) (a : Agent) : Nat :=
  if a.core < 720 then (match s.group? a.core a.slot with | some g => g.floor | none => 0) else 0

/-- R168, R196, R204: one store of bytes within one frame by an agent of a context: it takes its place in coherence order at once, and
every agent sees it from its Tv on. Answers the new state and the Tv, 0 for a store that carries none (R205, R369). -/
def State.storeFrame (s : State) (kind : StoreKind) (a : Agent) (ctx key hint : Nat) (bs : List Byte) : State × Nat :=
  let n := bs.length
  if s.dropsStore key then (s, 0)
  else
    let tv := max (s.floorOf a) (s.time + if s.switched key then s.freeVal else s.freeVal % (s.tvBound a.core key + 1))
    let sp := spanFor 6 (key % 256) n none
    let s1 := (s.useFree.homeHold (key / 256) sp.1 sp.2).soil (key / 256) sp.1 sp.2
    let fl := (List.range n).map (fun i =>
      (⟨s.free, key + i, a.core, a.slot, a.lane, tv, s1.mem.read (key + i), bs.getD i 0, s1.poison.contains ((key + i) / 16), [], ctx⟩ : Flight))
    let s2 := { s1 with mem := s1.mem.writes key bs, flight := s1.flight ++ fl, poison := clearPoison s1.poison key n }
    let s3 := s2.storeEvent kind a.core ctx key n
    let s4 := { s3 with marks := s3.kindMarks kind ctx key n }
    let s5 := s4.ownBolt kind a.core (ownerOf a.core a.slot) ctx key bs hint (s.guess a.core)
    (s5.fireMonitors a (key / 256) tv, if s.switched key then 0 else tv)

/-- The parts of a store, frame by frame. -/
def State.storeParts (s : State) (kind : StoreKind) (a : Agent) (ctx hint : Nat) (bs : List Byte) (key : Nat) : List (Nat × Nat) → State × Nat
  | [] => (s, 0)
  | p :: t =>
    let r := s.storeFrame kind a ctx p.1 hint ((bs.drop (p.1 - key)).take p.2)
    let q := r.1.storeParts kind a ctx hint bs key t
    (q.1, max r.2 q.2)

/-- A store of bytes whose physical address is contiguous. -/
def State.store (s : State) (a : Agent) (ctx key hint : Nat) (bs : List Byte) : State × Nat :=
  s.storeParts .plain a ctx hint bs key (frameParts key bs.length)

/-- A store of a kind of bytes whose physical address is contiguous. -/
def State.storeAs (s : State) (kind : StoreKind) (a : Agent) (ctx key hint : Nat) (bs : List Byte) : State × Nat :=
  s.storeParts kind a ctx hint bs key (frameParts key bs.length)

/-- R188, R196: a core has read bytes at their home: it sees the stores in flight to them from then on. -/
def State.see (s : State) (core key n : Nat) : State :=
  { s with flight := s.flight.map (fun f =>
      if decide (key ≤ f.key) && decide (f.key < key + n) then { f with seen := insertNat f.seen core } else f) }

/-- R204: stores whose Tv has come are seen by every agent, and so are the older ones of their bytes. -/
def settleFlight (now : Nat) : List Flight → List Flight
  | [] => []
  | f :: t =>
    if decide (f.tv ≤ now) || t.any (fun g => g.key == f.key && decide (g.tv ≤ now)) then settleFlight now t
    else f :: settleFlight now t

/-- R381, R394: a store to a peer that no port reaches now is acknowledged later. -/
def State.delayed (s : State) (f : Flight) : Flight := if s.reaches f.key then f else { f with tv := max f.tv (s.time + 1) }

/-- R204, R354, R361: device time has reached the Tv of some stores: every agent sees them, and the pushes that carry them have arrived. -/
def State.expire (s : State) : State :=
  let due := (s.pushes.filter (fun p => decide (p.tv ≤ s.time))).map (fun p => (p.key / 256, p.die))
  let s1 := due.foldl (fun s p => s.deliver p.1 p.2) s
  { s1 with flight := settleFlight s1.time (s1.flight.map s1.delayed) }

/-- R207: an acquire at `.clus` or wider drops every L1 bolt of its core that owns no words and was filled earlier. -/
def State.selfInvalidate (s : State) (core : Nat) : State :=
  { s with bolts := s.bolts.filter (fun b => !(b.cache == core && !b.owned && decide (b.fill < s.time))) }

/-- R167: a home with mixed-size checking finds an overlapping strong access of another size within 2,048 dcy. -/
def State.mixed (s : State) (key n : Nat) : Bool :=
  s.strongs.any (fun a => decide (a.key < key + n) && decide (key < a.key + a.before.length) && (a.before.length != n || a.key != key)
    && decide (s.time ≤ a.time + 2048))

/-- R167: a strong access is remembered for 2,048 dcy, with what its bytes held before it. -/
def State.noteStrong (s : State) (key n : Nat) : State :=
  { s with strongs := s.strongs.filter (fun a => decide (s.time ≤ a.time + 2048)) ++ [⟨key, s.time, s.mem.reads key n⟩] }

-- The lane checks.

/-- R363, R368: the request of a store-class or atomic-class access whose rule of a loaded table has FR, which faults it. -/
def State.tableFault (s : State) (core ctx : Nat) (cls : Cls) (key n : Nat) : Option (Nat × HomeReq) :=
  if !cls.writes || s.patFor key (s.tenOf ctx) < 6 || s.patFor key (s.tenOf ctx) = 16 then none
  else
    (frameParts key n).findSome? (fun p =>
      match s.storeAsk (if cls = .atomic then .atomic else if cls = .zero then .zero else .plain) core ctx p.1 p.2 with
      | some a =>
        let x := (s.ruleAt a.2.frame a.1).toNat
        if bits x 13 1 = 1 && bits x 14 1 = 0 then some a else none
      | none => none)

/-- Steps 2 to 7 of R164 on one page's part of an access. -/
def State.pageStep (s : State) (core ctx : Nat) (cls : Cls) (lane : Bool) (step : Nat) (part : Nat × Nat) : Option LaneFail :=
  let ten := (s.ctx ctx).ten
  match s.xlat core ctx part.1 cls.writes with
  | .unmapped m p => if step = 2 then some { cause := Cause.unmapped, addr := part.1, malf := m, psn := p } else none
  | .poisoned c => if step = 2 then some { cause := c, addr := part.1 } else none
  | .leaf _ base _ e =>
    let key := leafKey base e part.1
    let bad : Nat → Option LaneFail := fun c => some { cause := c, addr := part.1 }
    match step with
    | 2 => if Pte.tier e = 3 && !(List.range part.2).all (fun i => s.inWindow ten (key + i)) then bad Cause.unmapped else none
    | 3 => if Pte.ten e ≠ ten || !Pte.u e || (cls.reads && !Pte.r e) then bad Cause.protect else none
    | 4 => if cls.writes && Pte.tier e = 2 then bad Cause.flashStore else none
    | 5 => if cls.writes && !Pte.w e then bad Cause.protect else none
    | 6 =>
      if cls.writes && cls ≠ .zero && s.markedTwice ten key part.2 then bad Cause.writeTwice
      else (s.tableFault core ctx cls key part.2).map (fun a => { cause := Cause.writeTwice, addr := part.1, ask := some a })
    | 7 => if lane && s.invalidating ctx part.1 then bad Cause.translation else none
    | _ =>
      if lane && cls = .load && Pte.tier e = 2
          && !((List.range part.2).all (fun i => (s.boltOf core (key + i)).isSome)) then
        if s.resident.contains (key / 4096) then none
        else if s.busy.contains (key / 4096) && !s.reading.contains (key / 4096) then
          some { cause := Cause.flashStall, addr := part.1, blocks := [[key / 4096]] }
        else some { cause := Cause.flashWait, addr := part.1, blocks := [[key / 4096]] }
      else none

/-- R164: the lane checks of an access of `n` bytes at `va`, in order, each step on the lower page and then on the upper. `align`
says whether step 1 asks for natural alignment; `lane` is false for engines, which wait for flash and for invalidations (R347). -/
def State.probe (s : State) (core ctx va n : Nat) (cls : Cls) (align lane : Bool) : Option LaneFail :=
  if align && va % n ≠ 0 then some { cause := Cause.misaligned, addr := va }
  else
    let parts := pageParts va n
    match [2, 3, 4, 5, 6, 7, 8].findSome? (fun st => parts.findSome? (s.pageStep core ctx cls lane st)) with
    | none => none
    | some f =>
      if f.cause = Cause.flashWait then
        some { f with blocks := [((parts.filterMap (s.pageStep core ctx cls lane 8)).filter (fun e => e.cause == Cause.flashWait)).flatMap
          (fun e => e.blocks.flatten)] }
      else some f

end Sys2Proof.Machine
end

