-- ==== Sys2Proof/Machine/Ops.lean ====
section
/-! DEFINITION. Machine/Ops.lean: fragments (R16 to R33, R219, R220, R241), error records (R302 to R308, R404), taking a fault and
returning from one, the loss of a context (R311 to R313), and the one way an instruction issues, splits and commits (R28, R29). -/

namespace Sys2Proof.Machine

-- Records and interrupts.

/-- R307: the 64 bytes of a record. -/
def Record.bytes (r : Record) : List Byte :=
  leBytes r.time 8 ++ leBytes r.cause 2
    ++ [BitVec.ofNat 8 (r.inMend.toNat + 2 * r.malf.toNat + 4 * r.psn.toNat + 8 * r.mendBad.toNat + 16 * r.lost.toNat), 0]
    ++ leBytes (r.ctx % 1024 + r.ten % 64 * 1024) 2 ++ leBytes (r.core % 1024) 2 ++ [BitVec.ofNat 8 (r.slot % 16), BitVec.ofNat 8 r.frag, 0, 0]
    ++ leBytes r.mask.toNat 4 ++ leBytes r.fpc 8 ++ leBytes r.addr 8 ++ leBytes r.aux 8 ++ leBytes r.detail.toNat 16

/-- A record of a context's event with nothing but its cause. -/
def State.blank (s : State) (ctx cause : Nat) : Record :=
  ⟨s.time, cause, false, false, false, false, false, ctx, (s.ctx ctx).ten, 0x3FF, 0, 0, 0, 0, 0, 0, 0⟩

/-- R388: a vector of the block of a context's tenancy is raised; at most one interrupt of a vector is outstanding. -/
def State.interrupt (s : State) (ctx vec : Nat) : State :=
  let ten := (s.ctx ctx).ten
  if vec < (s.ten ten).vectors then
    { s with pendingInt := Table.put s.pendingInt (ten * 64 + vec) (insertNat (Table.getD s.pendingInt [] (ten * 64 + vec)) ctx) }
  else s

/-- The device log (R308). -/
def State.log (s : State) (r : Record) : State := { s with devlog := s.devlog ++ [r] }

/-- R308: a record is written at the producer's slot, and the count advances once its bytes are visible; or it is dropped when the ring is
full or its slot cannot be written; the last free slot is the context-lost record's. The ring's becoming non-empty raises vector 1 (R388). -/
def State.report (s : State) (r : Record) : State :=
  let c := s.ctx r.ctx
  match c.ring with
  | none => s
  | some ring =>
    let key := ring.key + 64 * (ring.prod % 2 ^ ring.n)
    let used := ring.prod - ring.cons
    let room := if r.cause = Cause.contextLost then used < 2 ^ ring.n else used < 2 ^ ring.n - 1
    if !room || (s.poisonIn key 64).isSome then
      s.updCtx r.ctx (fun c => { c with ring := some { ring with drop := min (ring.drop + 1) (2 ^ 32 - 1), lost := true } })
    else
      let w := s.store Agent.engine r.ctx key 0 ({ r with lost := ring.lost } : Record).bytes
      let s1 := w.1.later w.2
      let s2 := s1.updCtx r.ctx (fun c => { c with ring := some { ring with prod := ring.prod + 1, lost := false } })
      if used = 0 then s2.interrupt r.ctx 1 else s2

-- Who issues.

/-- The issuing fragment, with its group and team. -/
structure Who where
  core : Nat
  slot : Nat
  fi   : Nat
  g    : Group
  f    : Fragment
  t    : Team
deriving DecidableEq, Repr

/-- The context of the issuer. -/
def Who.ctx (w : Who) : Nat := w.t.ctx

/-- The fragment that `State.cur` names. -/
def State.who? (s : State) : Option Who :=
  match s.cur with
  | none => none
  | some c =>
    match s.group? c.core c.slot, s.frag? c.core c.frag with
    | some g, some f =>
      match Table.find s.teams g.tid with
      | some t => some ⟨c.core, c.slot, c.frag, g, f, t⟩
      | none => none
    | _, _ => none

/-- The guard-true lanes (R40). -/
def Who.act (w : Who) (gd : Guard) : Mask := w.f.mask &&& w.g.guard gd

/-- R46: the header that follows a block. -/
def Fragment.fallThrough (f : Fragment) : Nat := f.blk + 8 * (Hdr.length f.hdr + 1)

/-- R305: the issuing fragment with the iwords of its instruction, which a park of its lanes keeps. -/
def Who.counting (w : Who) (n : Nat) : Who := { w with f := { w.f with iwords := n } }

-- Selection and merging.

/-- R18: an eligible fragment; none of a halted group is (R304). -/
def Fragment.eligible (g : Group) (f : Fragment) : Bool := f.st == .ready && g.halted.isNone

/-- R19: (block address, index, table index) in the order of selection. -/
def before (a b : Nat × Fragment) : Bool :=
  decide (a.2.blk < b.2.blk) || (a.2.blk == b.2.blk &&
    (decide (a.2.idx < b.2.idx) || (a.2.idx == b.2.idx && decide (a.1 < b.1))))

/-- The first in the order of R19. -/
def firstOf : List (Nat × Fragment) → Option (Nat × Fragment)
  | [] => none
  | a :: t =>
    match firstOf t with
    | none => some a
    | some b => if before a b then some a else some b

/-- The passes of a group without a fragment that has left them. -/
def unpass (fi : Nat) (ps : Table (List Nat)) : Table (List Nat) :=
  ((ps.filter (fun e => e.1 != fi)).map (fun e => (e.1, e.2.filter (· != fi)))).filter (fun e => !e.2.isEmpty)

/-- R22: the passes after fragment `hi` has merged into `lo`: the merged fragment is the yielder of both passes, and a pass that waited
for one of the two waits for it (log entry 61). -/
def joinPass (lo hi : Nat) (ps : Table (List Nat)) : Table (List Nat) :=
  let own := (Table.getD ps [] lo ++ Table.getD ps [] hi).filter (fun i => i != lo && i != hi)
  let rest := (ps.filter (fun e => e.1 != lo && e.1 != hi)).map (fun e => (e.1, e.2.map (fun i => if i = hi then lo else i)))
  if own.isEmpty then rest else Table.put rest lo own

/-- R22: what is left of the passes of a group: a fragment that is eligible no more is waited for no more. -/
def livePasses (el : List (Nat × Fragment)) (ps : Table (List Nat)) : Table (List Nat) :=
  (ps.map (fun e => (e.1, e.2.filter (fun i => el.any (fun x => x.1 == i))))).filter (fun e => !e.2.isEmpty)

/-- R19, R22: the group selects its fragment; the yielders rank last until their passes end. -/
def State.select (s : State) (core slot : Nat) : State :=
  match s.group? core slot with
  | none => s
  | some g =>
    let el := (s.fragsOf core slot).filter (fun e => e.2.eligible g)
    let ps := livePasses el g.passes
    let others := el.filter (fun e => (Table.find ps e.1).isNone)
    let c := if others.isEmpty then firstOf el else firstOf others
    s.putGroup core slot { g with
      run := c.map Prod.fst,
      passes := match c with
        | some e => (ps.map (fun p => (p.1, p.2.filter (· != e.1)))).filter (fun p => !p.2.isEmpty)
        | none => ps }

/-- R20: a fragment that merges into one that enters the same block. -/
def Fragment.mergeable (blk : Nat) (f : Fragment) : Bool := f.st == .ready && !f.mend && f.blk == blk && f.idx == 0

/-- R18, R20: a fragment that is running, or whose instruction is held at issue, is no waiting one. -/
def Group.issuing (g : Group) (fi : Nat) : Bool := g.run == some fi || g.held.map Prod.fst == some fi

/-- The acquire that a merged fragment owes. -/
def joinAcq (a b : Option Nat) : Option Nat :=
  match a, b with
  | some x, some y => some (max x y)
  | some x, none => some x
  | none, y => y

/-- R20: two fragments merge into the one of lower index. -/
def State.mergeTwo (s : State) (core i j : Nat) : State :=
  match s.frag? core i, s.frag? core j with
  | some a, some b =>
    let lo := min i j
    let hi := max i j
    let keep := if i < j then a else b
    ((s.putFrag core lo { keep with mask := a.mask ||| b.mask, entered := a.entered && b.entered,
                                    acq := joinAcq a.acq b.acq }).freeFrag core hi).updGroup core a.slot
      (fun g => { g with passes := joinPass lo hi g.passes })
  | _, _ => s

/-- R20: fragment `fi` has arrived at index 0 of a block: every mergeable fragment of its group that waits there merges with it. -/
def State.merge (s : State) (core slot fi : Nat) : State :=
  match s.frag? core fi, s.group? core slot with
  | some f, some g =>
    if !f.mergeable f.blk then s
    else
      (((s.fragsOf core slot).filter (fun e => e.1 != fi && !g.issuing e.1 && e.2.mergeable f.blk)).foldl
        (fun (acc : State × Nat) e => (acc.1.mergeTwo core acc.2 e.1, min acc.2 e.1)) (s, fi)).1
  | _, _ => s

/-- A fragment at index 0 of a block that it has not yet entered (R45). -/
def Fragment.at (f : Fragment) (blk : Nat) : Fragment := { f with blk := blk, idx := 0, entered := false, hdr := 0 }

/-- R46: a fragment past the last iword of its block stands at the next header. -/
def Fragment.settle (f : Fragment) : Fragment :=
  if f.entered && decide (Hdr.length f.hdr ≤ f.idx) then f.at f.fallThrough else f

/-- A fragment goes on to index `idx` of its block; past the last iword it enters the fall-through header, a block entry, where it
merges (R20) and the group selects (R19, R46). -/
def State.goOn (s : State) (core slot fi idx : Nat) : State :=
  match s.frag? core fi with
  | none => s
  | some f =>
    let f1 := ({ f with idx := idx } : Fragment).settle
    let s1 := s.putFrag core fi f1
    if f1.entered then s1 else (s1.merge core slot fi).select core slot

-- Faults.

/-- R30: the causes that a program may resolve in its mend block. -/
def userResolvable (c : Nat) : Bool :=
  c == Cause.badTarget || c == Cause.tableRange || c == Cause.regBound || c == Cause.handle || c == Cause.streamEnd
    || c == Cause.misaligned || c == Cause.writeTwice || c == Cause.flashStore

/-- The record of a fragment that parks (R307). -/
def State.fragRecord (s : State) (core slot fi ctx : Nat) (f : Fragment) (l : LaneFail) (aux : Nat) : Record :=
  { s.blank ctx l.cause with
    inMend := f.mend, malf := l.malf, psn := l.psn, core := core, slot := slot, frag := s.fragId core fi, mask := f.mask,
    fpc := if f.entered then f.iaddr else f.blk, addr := l.addr, aux := aux }

/-- R404: the record that a park writes: none, to the device log, or to the context's ring. -/
def State.parkRecord (s : State) (r : Record) : State :=
  if r.cause = Cause.flashWait || r.cause = Cause.translation then s
  else if r.cause = Cause.flashStall || r.cause = Cause.fragExhausted then s.log r
  else s.report r

/-- TAKING A FAULT. A fragment parks with a cause (R304, R32, R404): it and its instruction stay as they stand, and the park writes
its record. -/
def State.park (s : State) (core slot fi ctx : Nat) (f : Fragment) (l : LaneFail) (aux : Nat) (mendBad : Bool) : State :=
  let s1 := s.putFrag core fi { f with
    st := .parked, cause := l.cause, noInstr := l.fetch || !f.entered, addr := l.addr, blocks := l.blocks, since := s.time,
    raised := if 0x081 ≤ l.cause && l.cause ≤ 0x089 then BitVec.ofNat 9 aux else 0 }
  let s2 := if l.cause = Cause.flashWait then { s1 with reading := l.blocks.flatten.foldl insertNat s1.reading } else s1
  s2.parkRecord { s2.fragRecord core slot fi ctx f l aux with mendBad := mendBad }

/-- R317: the remnant of a cause goes to the mend block, if the header there passes its check. -/
def Who.mends (w : Who) (c : Nat) : Bool :=
  userResolvable c && !w.f.mend && w.g.mendReg != 0 && Hdr.mend w.f.hdr && w.f.entered

/-- R30 to R32, R317: a remnant goes to the mend block that `gs.mend` names, or parks. That it stands at the block's header is no block
entry of R19: the group selects at its next one (DESIGN CHOICE, log entry 80). -/
def State.takeLane (s : State) (w : Who) (fi : Nat) (f : Fragment) (l : LaneFail) (aux : Nat) : State :=
  if w.mends l.cause then
    match s.checkTarget w.core w.ctx w.g.mendReg.toNat with
    | some _ => s.park w.core w.slot fi w.ctx f l aux true
    | none =>
      s.putFrag w.core fi { f.at w.g.mendReg.toNat with
        mend := true, st := .ready, mcause := l.cause, oblk := f.blk, oidx := f.idx, reconv := Hdr.reconv f.hdr, iwords := 0 }
  else s.park w.core w.slot fi w.ctx f l aux false

/-- R17, R241: the free pool entries of a core, ascending. -/
def State.pool (s : State) (core : Nat) : List Nat :=
  (List.range 48).filterMap (fun i => if (s.frag? core (i + 16)).isNone then some (i + 16) else none)

/-- The distinct causes of failing lanes, ascending (R29). -/
def causesOf (fs : List (Nat × LaneFail)) : List Nat := (fs.map (fun e => e.2.cause)).foldl insertNat []

/-- R29: the remnant of a cause: its lanes, and what its record names: the lowest lane's address and marks, all lanes' blocks. -/
def remnantOf (fs : List (Nat × LaneFail)) (c : Nat) : Mask × LaneFail :=
  let mine := fs.filter (fun e => e.2.cause == c)
  let m := Mask.of (mine.map Prod.fst)
  match mine with
  | [] => (0, { cause := c })
  | e :: _ => (m, { e.2 with blocks := (mine.flatMap (fun e => e.2.blocks)).eraseDups })

/-- R29, R241: the failing lanes become remnants, one for each cause in ascending order, on the lowest free pool entries. -/
def State.split (s : State) (w : Who) (fs : List (Nat × LaneFail)) (aux : Nat) : State :=
  ((causesOf fs).zip (s.pool w.core)).foldl (fun s e =>
    let r := remnantOf fs e.1
    s.takeLane w e.2 { w.f with mask := r.1 } r.2 aux) s

/-- R304: the whole issuing fragment parks with a fragment cause; the group selects another. -/
def State.parkWhole (s : State) (w : Who) (c : Nat) (fetch : Bool) : State :=
  (s.park w.core w.slot w.fi w.ctx w.f { cause := c, fetch := fetch } 0 false).select w.core w.slot

/-- R29, R304: the pool cannot supply `need` entries: the fragment parks with GF_FRAG_EXHAUSTED and its group halts. -/
def State.exhaust (s : State) (w : Who) (need : Nat) : State :=
  ((s.park w.core w.slot w.fi w.ctx w.f { cause := Cause.fragExhausted } 0 false).updGroup w.core w.slot
    (fun g => { g with halted := some (w.fi, need) })).select w.core w.slot

/-- RETURNING FROM A FAULT (R33): a parked fragment waits again, at index `idx` of its block, and the group selects (R19). One that parked
in a mend block (R32) goes on as a mending remnant there, so that its block may end in REJOIN (DEDUCED, log entry 81). -/
def State.unpark (s : State) (core slot fi idx : Nat) : State :=
  match s.frag? core fi with
  | none => s
  | some f =>
    let f1 := ({ f with st := .ready, cause := 0, noInstr := false, iwords := 0, addr := 0, blocks := [], raised := 0, idx := idx } : Fragment).settle
    let s1 := s.putFrag core fi f1
    (if f1.entered || !f.entered then s1 else s1.merge core slot fi).select core slot

-- Barriers, exit and the end of groups and teams.

/-- The keys of the groups of a team. -/
def State.groupsOf (s : State) (tid : Nat) : List (Nat × Group) := s.groups.filter (fun e => e.2.tid == tid)

/-- The keys of the groups of a team's cluster. -/
def State.clusterGroups (s : State) (tid : Nat) : List (Nat × Group) :=
  match Table.find s.teams tid with
  | none => []
  | some t => s.groups.filter (fun e =>
      match Table.find s.teams e.2.tid with
      | some u => u.node == t.node && u.clus == t.clus
      | none => false)

/-- A fragment whose next iword lies past its block: as it wakes it enters the next one (log entry 66). -/
def Fragment.leaves (f : Fragment) : Bool := f.entered && decide (Hdr.length f.hdr ≤ f.idx)

/-- R25: a sleeping fragment is ready again at the iword after its instruction, owing an acquire (R230, R295). -/
def State.rouse (s : State) (core fi : Nat) (acq : Option Nat) : State :=
  match s.frag? core fi with
  | none => s
  | some f =>
    let s1 := s.putFrag core fi ({ f with st := .ready, acq := joinAcq f.acq acq } : Fragment).settle
    if f.leaves then s1.merge core f.slot fi else s1

/-- R19, R25: some fragments of a group wake together; the group then selects where none of it runs, or where one of them enters a block. -/
def State.wakeAll (s : State) (core slot : Nat) (fis : List Nat) (acq : Option Nat) : State :=
  let s1 := fis.foldl (fun s fi => s.rouse core fi acq) s
  match s1.group? core slot with
  | some g => if g.run.isNone || fis.any (fun fi => (s.frag? core fi).any Fragment.leaves) then s1.select core slot else s1
  | none => s1

/-- R25: one fragment wakes. -/
def State.wake (s : State) (core fi : Nat) (acq : Option Nat) : State :=
  match s.frag? core fi with
  | none => s
  | some f => s.wakeAll core f.slot [fi] acq

/-- The saved teams of a team's cluster (R314). -/
def State.savedPeers (s : State) (tid : Nat) : List (Nat × SavedTeam) :=
  match Table.find s.teams tid with
  | none => []
  | some t => s.saved.filter (fun e => e.2.team.node == t.node && e.2.team.clus == t.clus)

/-- R25, R27: every lane of a saved team has arrived at its cluster's barrier. -/
def SavedTeam.arrived (k : SavedTeam) : Bool := k.groups.all (fun e => Table.getD e.2.arr 0 8 == e.2.live)

/-- R25, R230, R324: the cluster's barrier completes for a saved team: its arrived sets clear and its sleepers wake where they are kept. -/
def SavedTeam.pass (k : SavedTeam) : SavedTeam :=
  { k with
    groups := Table.mapV k.groups (fun _ g => { g with arr := Table.del g.arr 8 }),
    frags := Table.mapV k.frags (fun _ f =>
      if f.st == .asleep .barc then ({ f with st := .ready, acq := joinAcq f.acq (some 2) } : Fragment).settle else f) }

/-- R25, R26, R229, R230: a barrier over the groups `gs`, and over the saved teams `ks`, completes when every non-exited lane has arrived:
its arrived sets clear and its sleepers wake, each owing an acquire at the barrier's scope. -/
def State.barrierOver (s : State) (gs : List (Nat × Group)) (ks : List (Nat × SavedTeam)) (n : Nat) : State :=
  if gs.all (fun e => Table.getD e.2.arr 0 n == e.2.live) && ks.all (fun k => k.2.arrived) then
    gs.foldl (fun s e =>
      let core := e.1 / 16
      let slot := e.1 % 16
      let s1 := s.updGroup core slot (fun g => { g with arr := Table.del g.arr n })
      s1.wakeAll core slot (((s1.fragsOf core slot).filter (fun f => f.2.st == .asleep (if n = 8 then .barc else .bar n))).map Prod.fst)
        (some (if n = 8 then 2 else 1)))
      { s with saved := ks.foldl (fun t k => Table.put t k.1 k.2.pass) s.saved }
  else s

/-- R25, R26: the barriers of a team and of its cluster that stand complete complete. -/
def State.barriers (s : State) (tid : Nat) : State :=
  let s1 := (List.range 8).foldl (fun s n =>
    if (s.groupsOf tid).any (fun e => Table.getD e.2.arr 0 n != 0) then s.barrierOver (s.groupsOf tid) [] n else s) s
  if (s1.clusterGroups tid).any (fun e => Table.getD e.2.arr 0 8 != 0)
      || (s1.savedPeers tid).any (fun k => k.2.groups.any (fun e => Table.getD e.2.arr 0 8 != 0)) then
    s1.barrierOver (s1.clusterGroups tid) (s1.savedPeers tid) 8
  else s1

/-- The node whose one entry a chain reference stands for (R282): chains 4 and up of a die, and streams 256 and up, are such nodes'. -/
def nodeOf : ChainRef → Option Nat
  | .coll _ n => if n < 4 then none else some (n - 4)
  | .press st => if st < 256 then none else some (st / 256 - 1)
  | _ => none

/-- R269: a reference to a chain that exists. -/
def chainGood : ChainRef → Bool
  | .copy core n => decide (core < 720) && decide (n < 4)
  | .coll die _ => decide (die < 4)
  | .press _ => true
  | .svc ctx n => decide (ctx < 1024) && decide (n < 4)

/-- Keys of chains: copy chains by core, then collective chains by die, Press chains by stream, service chains by context (R269); above
2^20 the one-entry chains of nodes. -/
def chainKey : ChainRef → Nat
  | .copy core n => core * 4 + n
  | .coll die n => if n < 4 then 4096 + die * 4 + n else 2 ^ 20 + 1024 * (n - 4) + die
  | .press st => if st < 256 then 8192 + st else 2 ^ 20 + 1024 * (st / 256 - 1) + 4 + st % 256
  | .svc ctx n => 16384 + ctx * 4 + n

/-- The chain of a key. -/
def refOf (k : Nat) : ChainRef :=
  if k < 4096 then .copy (k / 4) (k % 4)
  else if k < 8192 then .coll ((k - 4096) / 4) (k % 4)
  else if k < 16384 then .press (k - 8192)
  else if k < 2 ^ 20 then .svc ((k - 16384) / 4) (k % 4)
  else if k % 1024 < 4 then .coll (k % 1024) (4 + (k - 2 ^ 20) / 1024)
  else .press (256 * ((k - 2 ^ 20) / 1024 + 1) + (k % 1024 - 4))

/-- A chain that no one has opened. -/
def Chain.closed : Chain := ⟨false, 0, 0, 0, 0, 0, 0, 0, 0, 0, false, false, [], [], 0⟩

/-- A chain. -/
def State.chain (s : State) (c : ChainRef) : Chain := Table.getD s.chains Chain.closed (chainKey c)

/-- Sets a chain. -/
def State.setChain (s : State) (c : ChainRef) (x : Chain) : State :=
  { s with chains := Table.setD s.chains Chain.closed (chainKey c) x }

/-- Where a semaphore stands (R280, R290): in a core's sync unit, or in the saved block of a team. -/
inductive SemAt where
  | live (key : Nat)
  | saved (tid idx : Nat)
deriving DecidableEq, Repr

/-- R273: the entry has failed and its chain will stop at it. -/
def Await.failed (a : Await) : Bool := match a with | .fail _ => true | _ => false

/-- R281: waiters of a core's semaphore in order of arrival: each whose threshold the counter meets, as the one before it left it, is
taken; the counter after, the taken, and those that stay. -/
def serveWaiters (key : Nat) : Nat → List SemWait → Nat × List SemWait × List SemWait
  | c, [] => (c, [], [])
  | c, q :: t =>
    if q.key = key && decide (q.thr ≤ c) then
      let r := serveWaiters key (if q.dec then c - q.thr else c) t
      (r.1, q :: r.2.1, r.2.2)
    else
      let r := serveWaiters key c t
      (r.1, r.2.1, q :: r.2.2)

/-- R273, R278: a chain's WAITSEM entry is satisfied. -/
def State.grantChain (s : State) (c : ChainRef) : State :=
  let x := s.chain c
  s.setChain c { x with started := x.started.map (fun e => if e.await = .sem then { e with await := .ready, tv := s.time } else e) }

/-- R295, R348: the scope at which a wait on a semaphore acquires. -/
def State.semAcq (s : State) (p : SemAt) (scope : Nat) : Nat :=
  match p with
  | .live k => if s.devSems.contains k then 3 else scope
  | .saved _ _ => scope

/-- R281, R295: the waiters that the counter of a core's semaphore satisfies wake, in order of arrival; a fragment owes an acquire at the
semaphore's scope. -/
def State.serveSem (s : State) (key : Nat) : State :=
  let r := serveWaiters key (Table.getD s.sems 0 key) s.semq
  r.2.1.foldl (fun s q =>
    match q.who with
    | .frag core fi => s.wake core fi (some (s.semAcq (.live key) (if q.remote then 2 else 1)))
    | .chain c => s.grantChain c) { s with sems := Table.setD s.sems 0 key r.1, semq := r.2.2 }

/-- R177: frees a tile-table entry; its generation advances modulo 16. -/
def State.freeHandle (s : State) (core idx : Nat) : State :=
  { s with handles := Table.del s.handles (handleKey core idx),
           hgens := Table.setD s.hgens 0 (handleKey core idx) ((Table.getD s.hgens 0 (handleKey core idx) + 1) % 16) }

/-- R373: a team stands on a core: it is its core, or its twin. -/
def Team.on (t : Team) (core : Nat) : Bool := t.core == core || t.twin == some core

/-- R253: the gauge files of the cores that a departing team stood on, where no other team stands on them, return to their reset state. -/
def State.dropGauges (s : State) (t : Team) : State :=
  { s with gauges := s.gauges.filter (fun e => !(t.on (e.1 / 64)) || s.teams.any (fun u => u.2.on (e.1 / 64))) }

/-- A number for the cluster of a team, the owner of its level-2 handles. -/
def Team.cluster (t : Team) : Nat := t.node * 2 ^ 24 + t.clus

/-- R182, R253, R280, R301: an ended team none of whose chains has a started entry leaves its core: chains close, level-1 handles
free, level-2 handles free when it is the last team of its cluster, semaphores go to zero, and an empty core's gauges reset. -/
def State.releaseTeam (s : State) (tid : Nat) (t : Team) : State :=
  let mine := (List.range 4).filter (fun n => (s.chain (.copy t.core n)).isOpen && (s.chain (.copy t.core n)).holder == tid)
  if mine.any (fun n => !(s.chain (.copy t.core n)).started.isEmpty) then s
  else
    let s := mine.foldl (fun s n => s.setChain (.copy t.core n) Chain.closed) s
    let teams := Table.del s.teams tid
    let last := !teams.any (fun e => e.2.cluster == t.cluster) && !s.saved.any (fun e => e.2.team.cluster == t.cluster)
    let s := (s.handles.filter (fun e =>
        (e.2.level == 1 && e.2.owner == tid) || (e.2.level == 2 && e.2.owner == t.cluster && last))).foldl
      (fun s e => s.freeHandle (e.1 / 256) (e.1 % 256)) s
    let mineSem : Nat → Bool := fun k => decide (semKey t.core t.semBase ≤ k) && decide (k < semKey t.core t.semBase + t.semCnt)
    ({ s with teams := teams, sems := s.sems.filter (fun e => !mineSem e.1), devSems := s.devSems.filter (fun k => !mineSem k) } : State).dropGauges t

/-- R281, R301: the waits of a team's copy chains whose counters meet them are satisfied, whether or not their wakes have been served. -/
def State.serveChains (s : State) (core tid : Nat) : State :=
  let mine : SemWaiter → Bool := fun q =>
    match q with
    | .chain (.copy c n) => c == core && (s.chain (.copy c n)).holder == tid
    | _ => false
  ((s.semq.filter (fun q => mine q.who)).map (·.key)).foldl State.serveSem s

/-- R23, R301: a team whose last group has ended stops its chains' new positions, and a WAITSEM that is not satisfied is not performed; the
team leaves when it may. -/
def State.endTeam (s : State) (tid : Nat) : State :=
  match Table.find s.teams tid with
  | none => s
  | some t =>
    if (s.groupsOf tid).isEmpty then
      let s := s.serveChains t.core tid
      let s := (List.range 4).foldl (fun s n =>
        let c := s.chain (.copy t.core n)
        if c.isOpen && c.holder == tid then
          { s.setChain (.copy t.core n) { c with closing := true, started := c.started.filter (fun e => e.await != .sem) } with
            semq := s.semq.filter (fun q => q.who != .chain (.copy t.core n)) }
        else s) s
      let s := { s with nodes := Table.upd s.nodes t.node (fun n => { n with ended := n.ended + 1 }) }
      s.releaseTeam tid { t with slots := [] }
    else s

/-- R300: what a node still waits for of a group that ends: its horizon, its outstanding loads, and the acknowledgements that a FENCE.rel of it
waits for. -/
def State.leaveNode (s : State) (nid key : Nat) (g : Group) : State :=
  let acks := if g.fence.any (4 ≤ ·) then
      ((s.flight.filter (fun f => f.core == key / 16 && f.slot == key % 16 && s.switched f.key && s.waiting f)).map (·.id)).eraseDups
    else []
  { s with
    orphans := s.orphans ++ g.loads.map (fun l => ⟨key, nid, l⟩),
    nodes := Table.upd s.nodes nid (fun n => { n with horizon := max n.horizon g.horizon, acks := n.acks ++ acks }) }

/-- R23: a group that no lane remains in ends: window, home entry and slot are released. -/
def State.endGroup (s : State) (core slot : Nat) : State :=
  match s.group? core slot with
  | none => s
  | some g =>
    if g.live = 0 then
      let nid := ((Table.find s.teams g.tid).map (·.node)).getD 0
      ({ s.leaveNode nid (slotKey core slot) g with groups := Table.del s.groups (slotKey core slot) } : State).endTeam g.tid
    else s

/-- R23, R24, R26: lanes leave a group: every fragment, the arrival and expected sets; fragments left empty end, whatever their state;
barriers that thereby stand complete complete; an empty group ends. -/
def State.exitLanes (s : State) (core slot : Nat) (m : Mask) : State :=
  match s.group? core slot with
  | none => s
  | some g =>
    let s1 := s.putGroup core slot { g with
      live := g.live &&& ~~~m, arr := (g.arr.map (fun e => (e.1, e.2 &&& ~~~m))).filter (fun e => e.2 != 0) }
    let s2 := (s1.fragsOf core slot).foldl (fun s e =>
      let k := e.2.mask &&& ~~~m
      if k = 0 then
        let s := s.freeFrag core e.1
        let s := { s with semq := s.semq.filter (fun q => q.who != SemWaiter.frag core e.1) }
        s.updGroup core slot (fun g => { g with
          passes := unpass e.1 g.passes, halted := if g.halted.map Prod.fst = some e.1 then none else g.halted })
      else s.putFrag core e.1 { e.2 with mask := k }) s1
    let s3 := s2.barriers g.tid
    let s4 := match s3.group? core slot with
      | some g' => if g'.run.isSome && (match g'.run with | some i => (s3.frag? core i).isSome | none => false) then s3
                   else s3.select core slot
      | none => s3
    s4.endGroup core slot

-- The loss of a context.

/-- R312, R389: a team is evicted without being saved: its fragments, groups, handles, semaphores and chains go; a stop word that waits is
still written (R378). Its node waits all the same for what its groups have under way (R300). -/
def State.evict (s : State) (tid : Nat) : State :=
  match Table.find s.teams tid with
  | none => s
  | some t =>
    let gs := s.groupsOf tid
    let s := gs.foldl (fun s e =>
      let core := e.1 / 16
      let s := (s.fragsOf core (e.1 % 16)).foldl (fun s f =>
        { s.freeFrag core f.1 with semq := s.semq.filter (fun q => q.who != SemWaiter.frag core f.1) }) s
      { s.leaveNode t.node e.1 e.2 with
        groups := Table.del s.groups e.1, mq := Table.upd s.mq core (fun q => q.filter (fun m => m.slot != e.1 % 16)) }) s
    let s := (List.range 4).foldl (fun s n =>
      let c := s.chain (.copy t.core n)
      if c.isOpen && c.holder == tid then
        s.setChain (.copy t.core n) (if c.started.any (·.await.failed) then { c with isOpen := false } else Chain.closed)
      else s) s
    s.releaseTeam tid { t with slots := [] }

/-- R346: the generation of a context advances at every ingress. -/
def State.advanceGen (s : State) (ctx : Nat) : State := s.updCtx ctx (fun c => { c with gen := (c.gen + 1) % 2 ^ 16 })

/-- The teams of a context. -/
def State.teamsOf (s : State) (ctx : Nat) : List Nat := (s.teams.filter (fun e => e.2.ctx == ctx)).map Prod.fst

/-- The page that a leaf maps holds a key. -/
def holdsKey (base size : Nat) (val : Dword) (key : Nat) : Bool :=
  decide (leafKey base val base ≤ key) && decide (key < leafKey base val base + size)

/-- R312: the page of an address is retired: PSN is set in every context's leaf that maps it, and no core keeps a translation to it. -/
def State.retire (s : State) (ctx va : Nat) : State :=
  match s.walk ctx va with
  | .leaf _ base _ val =>
    let key := leafKey base val va
    let ptes := (s.ctxs.flatMap (fun c => s.leavesOf c.1 0 (2 ^ 57))).filterMap (fun e =>
      if holdsKey e.base (e.va - e.base + e.size) e.val key then some e.pte else none)
    { s with
      mem := ptes.foldl (fun m p => m.writeNat p 8 (m.readNat p 8 ||| 2 ^ 11)) s.mem,
      tlb := s.tlb.filter (fun t => !holdsKey t.base t.size t.val key) }
  | _ => s

/-- R312: a live context consumes uncorrectable data at some addresses: its chains and queues freeze, its teams are evicted unsaved,
its generation advances, the pages are retired, and its owner receives one SY_CONTEXT_LOST record and vector 0. -/
def State.loseContext (s : State) (ctx cause : Nat) (vas : List Nat) : State :=
  if (s.ctx ctx).mode ≠ .live then s
  else
    let s := { s with chains := Table.mapV s.chains (fun _ c => if c.ctx = ctx then { c with stopped := true, started := [] } else c) }
    let s := (s.teamsOf ctx).foldl State.evict s
    let s := { s with saved := s.saved.filter (fun e => e.2.team.ctx != ctx) }
    let s := s.advanceGen ctx
    let s := vas.foldl (fun s a => s.retire ctx a) s
    let s := s.updCtx ctx (fun c => { c with mode := .lost, cause := cause, svcq := [] })
    let r := { s.blank ctx Cause.contextLost with aux := cause }
    (((s.report r).log r).interrupt ctx 0)

/-- The lowest of some causes, 0x1FF for none. -/
def lowestCause (cs : List Nat) : Nat := cs.foldl min 0x1FF

/-- R313: what a context consumes at once, each with its cause and address, is one loss with the lowest cause. -/
def State.consume (s : State) (ctx : Nat) (ps : List (Nat × Nat)) : State := s.loseContext ctx (lowestCause (ps.map Prod.fst)) (ps.map Prod.snd)

/-- R375: twin cores disagree: nothing of the effect leaves the pair, the context freezes, one record is written and vector 2 raised. -/
def State.freeze (s : State) (w : Who) (addr aux : Nat) : State :=
  let s1 := s.updCtx w.ctx (fun c => { c with mode := .frozen })
  let r := { s1.blank w.ctx Cause.redundancy with
    core := w.core, slot := w.slot, frag := s.fragId w.core w.fi, mask := w.f.mask, fpc := w.f.iaddr, addr := addr, aux := aux,
    detail := BitVec.ofNat 128 ((w.t.twin.getD 0) % 1024) }
  ((s1.report r).log r).interrupt w.ctx 2

-- Issuing.

/-- Where the committing lanes go (R220, R227, R229, R232). -/
inductive Flow where
  /-- On to the next iword. -/
  | seq
  /-- Each lane to its target's header. -/
  | jump (targets : List (Nat × Nat))
  /-- Asleep at the next iword. -/
  | sleep (w : Sleep)
  /-- Out of the group. -/
  | gone
  /-- Out of the mend, to a header. -/
  | rejoin (target : Nat)
deriving DecidableEq, Repr

/-- What an instruction does to the fragment that issues it, once the fragment checks pass (R28): the lanes that fail, the effect of
the lanes that commit, and where they go. -/
structure Plan where
  /-- A direct operand lies beyond the requested lines (R50). -/
  oob    : Bool := false
  fails  : List (Nat × LaneFail) := []
  /-- AUX of the remnants' records (R307). -/
  aux    : Nat := 0
  commit : Mask → State → State := fun _ s => s
  flow   : Flow := .seq
  /-- What follows once the lanes stand where they go: barriers that complete, a new selection. -/
  post   : State → State := fun s => s
  /-- The scope of the release that the instruction waits for at issue (R205, R403), if it makes one. -/
  rel    : Option Nat := none
  /-- It waits at issue for something else (R298). -/
  wait   : Bool := false
  /-- A fragment cause found on the leader's values, once the release has been performed (R294, R299). -/
  late   : Option Nat := none
  /-- The effect leaves a twin pair and is compared (R374); its address, for the record of R375: the leader's. -/
  leaves : Bool := false
  addr   : Nat := 0
  /-- It stores to memory or to a handle, or reads the time, so that a FENCE.rel holds it (R216, R218). -/
  stores : Bool := false
  /-- The requests that its accesses make at homes whose tables may hold them (R365). -/
  asks   : List (Nat × HomeReq) := []

/-- R205: a release at a scope may perform. -/
def State.relReady (s : State) (g : Group) (scope : Nat) : Bool :=
  scope == 0 || (decide (g.horizon ≤ s.time) && g.loads.isEmpty && (scope < 4 || g.unacked == 0))

/-- R194, R282: the scope at which a strong operation executes, and whether it was narrowed. Code 5 is tenant scope. -/
def State.narrow (s : State) (w : Who) (scope : Nat) : Nat × Bool :=
  if w.t.scope < scope then (w.t.scope, true)
  else if scope = 4 && (s.ten (s.ctx w.ctx).ten).policy = 1 && s.feature 3 then (5, true)
  else (scope, false)

/-- R194: a narrowing sets SN and writes one record to the device log. -/
def State.noteNarrow (s : State) (w : Who) (scope : Nat) : State :=
  if (s.narrow w scope).2 then
    (s.updGroup w.core w.slot (fun g => { g with status := g.status ||| 1 })).log
      { s.blank w.ctx Cause.scopeNarrowed with core := w.core, slot := w.slot, frag := s.fragId w.core w.fi, mask := w.f.mask, fpc := w.f.iaddr }
  else s

/-- R207: an acquire at a scope. -/
def State.acquire (s : State) (core scope : Nat) : State := if 2 ≤ scope then s.selfInvalidate core else s

/-- Inserts lanes into the list of destinations, ordered by block and index (R220). -/
def addDest (d : Nat × Nat) (m : Mask) : List ((Nat × Nat) × Mask) → List ((Nat × Nat) × Mask)
  | [] => [(d, m)]
  | (e, k) :: t =>
    if d = e then (e, k ||| m) :: t
    else if d.1 < e.1 || (d.1 = e.1 && d.2 < e.2) then (d, m) :: (e, k) :: t
    else (e, k) :: addDest d m t

/-- The destinations of a control instruction's lanes (R220): targets for the committing lanes; for the others `here`. -/
def destsOf (targets : List (Nat × Nat)) (cm rest : Mask) (here : Nat × Nat) : List ((Nat × Nat) × Mask) :=
  let d0 := if rest = 0 then [] else [(here, rest)]
  (targets.filter (fun e => cm.getLsbD e.1)).foldl (fun d e => addDest (e.2, 0) (Mask.one e.1) d) d0

/-- Where lanes that no control instruction moves stand next (R220): the next iword, or the fall-through header. -/
def Fragment.next (f : Fragment) (n : Nat) : Nat × Nat :=
  if Hdr.length f.hdr ≤ f.idx + n then (f.fallThrough, 0) else (f.blk, f.idx + n)

/-- A fragment at a destination. -/
def Fragment.atDest (f : Fragment) (d : Nat × Nat) (m : Mask) : Fragment :=
  if d.2 = 0 then { f.at d.1 with mask := m } else { f with blk := d.1, idx := d.2, mask := m }

/-- How many pool entries the flow takes beyond the remnants' (R220). -/
def Flow.extra (fl : Flow) (f : Fragment) (n : Nat) (cm rest : Mask) : Nat :=
  match fl with
  | .seq | .gone => 0
  | .jump ts => (destsOf ts cm rest (f.next n)).length - 1
  | .sleep _ | .rejoin _ => if cm ≠ 0 && rest ≠ 0 then 1 else 0

/-- Places fragments at destinations: the first on the existing entry, the others on the given free entries (R220); then each that is at
index 0 of a block merges (R20), and the group selects (R19). -/
def State.placeAll (s : State) (w : Who) (ds : List ((Nat × Nat) × Mask)) (free : List Nat) : State :=
  let at_ := ds.zip (w.fi :: free)
  let s1 := at_.foldl (fun s e => s.putFrag w.core e.2 (w.f.atDest e.1.1 e.1.2)) s
  let s2 := at_.foldl (fun s e => if e.1.1.2 = 0 then s.merge w.core w.slot e.2 else s) s1
  if ds.any (fun e => e.1.2 == 0) then s2.select w.core w.slot else s2

/-- Moves the lanes of the issuing fragment (R220): `n` is the instruction's iwords. -/
def State.place (s : State) (w : Who) (fl : Flow) (n : Nat) (cm rest : Mask) : State :=
  let free := s.pool w.core
  let all := cm ||| rest
  if all = 0 then (s.freeFrag w.core w.fi).select w.core w.slot
  else
    match fl with
    | .seq => (s.putFrag w.core w.fi { w.f with mask := all }).goOn w.core w.slot w.fi (w.f.idx + n)
    | .jump ts =>
      match destsOf ts cm rest (w.f.next n) with
      | [] => s
      | ds => s.placeAll w ds free
    | .sleep z =>
      if cm = 0 then (s.putFrag w.core w.fi { w.f with mask := all }).goOn w.core w.slot w.fi (w.f.idx + n)
      else
        let s1 := s.putFrag w.core w.fi { w.f with mask := cm, idx := w.f.idx + n, st := .asleep z }
        let s2 := if rest = 0 then s1
          else
            match free with
            | [] => s1
            | j :: _ =>
              let s' := s1.putFrag w.core j (w.f.atDest (w.f.next n) rest)
              if (w.f.next n).2 = 0 then s'.merge w.core w.slot j else s'
        s2.select w.core w.slot
    | .gone =>
      if rest = 0 then s.exitLanes w.core w.slot cm
      else
        ((s.putFrag w.core w.fi { w.f with mask := rest }).goOn w.core w.slot w.fi (w.f.idx + n)).exitLanes w.core w.slot cm
    | .rejoin t =>
      if cm = 0 then (s.putFrag w.core w.fi { w.f with mask := all }).goOn w.core w.slot w.fi (w.f.idx + n)
      else
        let back : Fragment := { w.f.at t with mask := cm, mend := false, mcause := 0, oblk := 0, oidx := 0, reconv := 0 }
        let s1 := s.putFrag w.core w.fi back
        let s2 := if rest = 0 then s1
          else
            match free with
            | [] => s1
            | j :: _ => s1.putFrag w.core j (w.f.atDest (w.f.next n) rest)
        (s2.merge w.core w.slot w.fi).select w.core w.slot

/-- Moves the lanes, unless the context was lost on the way and its group has gone (R312). -/
def State.settleAt (s : State) (w : Who) (fl : Flow) (n : Nat) (cm rest : Mask) : State :=
  if (s.group? w.core w.slot).isSome then s.place w fl n cm rest else s

/-- The failing lanes of a plan among the active ones. -/
def Plan.failing (p : Plan) (act : Mask) : List (Nat × LaneFail) :=
  if p.oob then (Mask.lanes act).map (fun l => (l, { cause := Cause.regBound })) else p.fails.filter (fun e => act.getLsbD e.1)

/-- The causes of R311: uncorrectable data has been consumed. -/
def lossCause (c : Nat) : Bool := decide (0x100 ≤ c) && decide (c < 0x140)

/-- R311: a table entry that a check of the instruction met was poisoned: a lane's, or that of the mend block's header. -/
def State.lossAmong (s : State) (w : Who) (fs : List (Nat × LaneFail)) : Option Nat :=
  (causesOf fs).findSome? (fun c =>
    if lossCause c then some c
    else if w.mends c then
      (s.checkTarget w.core w.ctx w.g.mendReg.toNat).bind (fun e => if lossCause e.cause then some e.cause else none)
    else none)

/-- R363, R365: the rules that faulted some lanes are performed at their homes. -/
def State.tellHomes (s : State) (fs : List (Nat × LaneFail)) : State :=
  (fs.filterMap (fun e => e.2.ask)).foldl (fun s a => s.homeAsk a.1 a.2) s

/-- How many pool entries an instruction takes: one for each cause among the failing lanes, and those of its flow (R29, R220). -/
def Plan.need (p : Plan) (w : Who) (gd : Guard) (n : Nat) : Nat :=
  let act := w.act gd
  let fs := p.failing act
  (causesOf fs).length + p.flow.extra w.f n (act &&& ~~~(Mask.of (fs.map Prod.fst))) (w.f.mask &&& ~~~act)

/-- R28, R29, R220: failing lanes become remnants, the others commit and go on; or, when the pool cannot supply every entry, no lane
commits and the group halts. A walk that met a poisoned table entry loses the context (R311). -/
def State.carry (s : State) (w : Who) (gd : Guard) (n : Nat) (p : Plan) : State :=
  let act := w.act gd
  let fs := p.failing act
  let cm := act &&& ~~~(Mask.of (fs.map Prod.fst))
  let rest := w.f.mask &&& ~~~act
  let need := p.need w gd n
  match s.lossAmong w fs with
  | some c => s.loseContext w.ctx c []
  | none =>
    if (s.pool w.core).length < need then s.exhaust (w.counting n) need
    else p.post ((p.commit cm ((s.split (w.counting n) fs p.aux).tellHomes fs)).settleAt w p.flow n cm rest)

/-- R374, R375: the cores of a twin pair disagree about an effect: a free choice of each effect that leaves the pair (log entry 16). -/
def State.disagrees (s : State) (w : Who) (leaves : Bool) : Bool := leaves && w.t.twin.isSome && s.freeVal % 2 == 1

/-- The choice has been made. -/
def State.compared (s : State) (w : Who) (leaves : Bool) : State := if leaves && w.t.twin.isSome then s.useFree else s

/-- R216: no FENCE.rel of the group waits to perform. -/
def State.fenceReady (s : State) (g : Group) : Bool :=
  match g.fence with
  | none => true
  | some sc => s.relReady g sc

/-- R403: an instruction is held at issue: by the release that it makes (R205), or by one that a FENCE.rel before it makes (R216); by a
full service queue (R298); by a table that holds its request at a home (R365). -/
def Plan.holds (p : Plan) (s : State) (w : Who) (act : Mask) : Bool :=
  act != 0 && (p.wait || (match p.rel with | none => false | some sc => !s.relReady w.g sc)
    || ((p.stores || p.rel.isSome) && !s.fenceReady w.g) || s.asksStall p.asks)

/-- An instruction is held at issue, and its requests stand among the held ones of their frames (R365). -/
def State.holdAtIssue (s : State) (w : Who) (i : Instr) (p : Plan) : State :=
  (p.asks.foldl (fun s a => s.queueAsk (slotKey w.core w.slot) a) s).updGroup w.core w.slot (fun g => { g with held := some (w.fi, i) })

/-- R216: a FENCE.rel has performed before a store or a release that follows it. -/
def State.fencePassed (s : State) (w : Who) (act : Mask) (p : Plan) : State :=
  if act != 0 && (p.stores || p.rel.isSome) && w.g.fence.isSome then s.updGroup w.core w.slot (fun g => { g with fence := none }) else s

/-- R374: an instruction has an effect that twin cores compare: one that leaves the pair, remnants, or the parking of its fragment. -/
def Plan.compares (p : Plan) (s : State) (w : Who) (gd : Guard) (n : Nat) : Bool :=
  (p.leaves && w.act gd != 0) || !(p.failing (w.act gd)).isEmpty || p.late.isSome || decide ((s.pool w.core).length < p.need w gd n)

/-- R374: what the issuer does, compared by the cores of a pair; where they disagree, they halt before it (R375). -/
def State.agree (s : State) (w : Who) (lv : Bool) (addr : Nat) (k : State → State) : State :=
  if s.disagrees w lv then (s.compared w lv).useFree.freeze w addr (s.compared w lv).freeVal else k (s.compared w lv)

/-- What an instruction does once it may issue. -/
def State.perform (s : State) (w : Who) (gd : Guard) (n : Nat) (p : Plan) : State :=
  s.agree w (p.compares s w gd n) p.addr (fun s =>
    match p.late with
    | some c => s.parkWhole (w.counting n) c false
    | none => s.carry w gd n p)

/-- R28, R40, R374, R403: the one way an instruction issues. The fragment checks come first, whatever the guards; then an instruction
that makes a release may be held at issue (R205); then it is carried out. -/
def State.issue (s : State) (i : Instr) (gd : Guard) (n : Nat) (plan : Who → Except Nat Plan) : Host.Outcome State Fault Refusal :=
  match s.who? with
  | none => .fault .noIssuer
  | some w =>
    match plan w with
    | .error c => .next (s.agree w true 0 (fun s => s.parkWhole (w.counting n) c false))
    | .ok p =>
      if p.holds s w (w.act gd) then .next (s.holdAtIssue w i p)
      else .next ((s.fencePassed w (w.act gd) p).perform w gd n p)

end Sys2Proof.Machine
end

