-- ==== Sys2Proof/Machine/Operands.lean ====
section
/-! DEFINITION. Machine/Operands.lean: every operand form: registers, pairs, special registers and stream ports as sources and
destinations (R48 to R50, R72, R73, R78, R79, R83, R86 to R91, R112, R121 to R124, R402), and lanes' accesses to memory. -/

namespace Sys2Proof.Machine

/-- The format tags of R81 by name. -/
def Tg.raw : Nat := 0
def Tg.i8 : Nat := 1
def Tg.i16 : Nat := 2
def Tg.i32 : Nat := 3
def Tg.i64 : Nat := 4
def Tg.n8 : Nat := 5
def Tg.n16 : Nat := 6
def Tg.n32 : Nat := 7
def Tg.n64 : Nat := 8
def Tg.f16 : Nat := 9
def Tg.bf16 : Nat := 10
def Tg.f32 : Nat := 11
def Tg.f64 : Nat := 12
def Tg.j8e4 : Nat := 13
def Tg.j8e5 : Nat := 14
def Tg.a56i : Nat := 22
def Tg.a56f : Nat := 23
def Tg.mask : Nat := 24

/-- A tag whose operands are pairs (R73). -/
def Tg.wide (t : Nat) : Bool := t == 4 || t == 8 || t == 12

/-- The groups of R122. -/
def Tg.int (t : Nat) : Bool := decide (1 ≤ t) && decide (t ≤ 8)
def Tg.bits (t : Nat) : Bool := Tg.int t || t == 0 || t == 24
def Tg.shift (t : Nat) : Bool := Tg.int t || t == 0
def Tg.flt (t : Nat) : Bool := decide (9 ≤ t) && decide (t ≤ 12)
def Tg.any (_ : Nat) : Bool := true

/-- I32, N32 or RAW: what index, length and handle lines carry. -/
def Tg.word (t : Nat) : Bool := t == 3 || t == 7 || t == 0

/-- I64, N64 or RAW: what address pairs carry. -/
def Tg.dword (t : Nat) : Bool := t == 4 || t == 8 || t == 0

/-- A signed integer tag. -/
def Tg.signed (t : Nat) : Bool := decide (1 ≤ t) && decide (t ≤ 4)

/-- The element width in bits (R81, R112). -/
def Tg.width (t : Nat) : Nat :=
  match t with
  | 1 | 5 | 13 | 14 => 8
  | 2 | 6 | 9 | 10 => 16
  | 4 | 8 | 12 => 64
  | _ => 32

/-- Elements per lane of a unit (R112). -/
def Tg.epl (t : Nat) : Nat := if Tg.wide t then 1 else 32 / Tg.width t

/-- The elements of a unit's value. -/
def elemsOf (t x : Nat) : List Nat := (List.range (Tg.epl t)).map (fun i => bits x (i * Tg.width t) (Tg.width t))

/-- A unit's value from its elements. -/
def unitOf (t : Nat) : List Nat → Nat
  | [] => 0
  | e :: r => e % 2 ^ Tg.width t + 2 ^ Tg.width t * unitOf t r

/-- The bits of one in a format (R79): the number 1, or 1.0 in a float format, in every element. -/
def Tg.one (t : Nat) : Nat :=
  let e := match t with
    | 9 => 0x3C00
    | 10 => 0x3F80
    | 11 => 0x3F800000
    | 12 => 0x3FF0000000000000
    | 13 => 0x38
    | 14 => 0x3C
    | 23 => 0x003FF00000000000
    | _ => 1
  unitOf t (List.replicate (Tg.epl t) e)

/-- The tag that a special register carries (R78); `sr.zero` and `sr.one` carry the operation's. -/
def SReg.tag (r : SReg) : Nat :=
  match r with
  | .fpc => 8
  | _ => 7

/-- The value of a special register in a lane (R15, R31, R78). -/
def Who.sreg (s : State) (w : Who) (l : Nat) (r : SReg) : Nat :=
  match r with
  | .lane => l
  | .grp => w.g.grp
  | .team => w.t.num
  | .core => w.core
  | .clus => w.t.clus
  | .teamidx => w.t.teamidx
  | .cause => if w.f.mend then w.f.mcause else 0
  | .fpc => if w.f.mend then w.f.oblk + 8 * (w.f.oidx + 1) else 0
  | .frag => s.fragId w.core w.fi
  | .ufc => Table.getD w.g.ufc 0 l
  | .zero => 0
  | .one => 1

/-- The binding of port `k` in a lane (R86). -/
def Group.binding (g : Group) (k l : Nat) : Option Binding := Table.find g.streams (k * 32 + l)

/-- R88: the address of a lane's next element. -/
def Binding.addr (b : Binding) : Nat :=
  wrap 64 ((b.base.toNat : Int) + b.i0 * b.s0.toInt + b.i1 * b.s1.toInt + b.i2 * b.s2.toInt)

/-- R88: the cursor moves on. -/
def Binding.advance (b : Binding) : Binding :=
  let i0 := b.i0 + 1
  let c0 := i0 == b.n0
  let i1 := if c0 then b.i1 + 1 else b.i1
  let c1 := i1 == b.n1
  let i2 := if c1 then b.i2 + 1 else b.i2
  { b with i0 := if c0 then 0 else i0, i1 := if c1 then 0 else i1, i2 := i2, ended := i2 == b.n2 }

/-- The bytes of a stream's element (R87). -/
def Binding.size (b : Binding) : Nat := if Tg.wide b.tag then 8 else 4

/-- How an instruction uses a register slot: as a format source, or as one line or one pair with the tags it accepts. -/
inductive Use where
  | fmt (x : BitVec 10)
  | line (x : BitVec 10) (accept : Nat → Bool)
  | pair (x : BitVec 10) (accept : Nat → Bool)

/-- The field of a use. -/
def Use.field : Use → BitVec 10
  | .fmt x => x
  | .line x _ => x
  | .pair x _ => x

/-- The tag of the first line of a register source, of a special register or of a port's bindings in the active lanes; none for
`sr.zero` and `sr.one`, for a line past the requested lines (R402), and for a port with no active lane. -/
def Who.srcTag (w : Who) (act : Mask) (x : BitVec 10) : Option Nat :=
  match operandOf x with
  | .v n => if n < w.g.lines then some (w.g.tag n) else none
  | .sr .zero | .sr .one | .reserved => none
  | .sr r => some (SReg.tag r)
  | .port k => (Mask.leader act).bind (fun l => (w.g.binding k l).map (·.tag))

/-- A source is `sr.zero` or `sr.one`. -/
def isZeroOne (x : BitVec 10) : Bool := Fld.isZeroOne x

/-- R89: an active lane's binding of a port is unbound or bound the other way. -/
def Who.portBad (w : Who) (act : Mask) (k : Nat) (write : Bool) : Bool :=
  (Mask.lanes act).any (fun l =>
    match w.g.binding k l with
    | none => true
    | some b => b.write != write)

/-- R89: active lanes' bindings disagree in tag. -/
def Who.portMixed (w : Who) (act : Mask) (k : Nat) : Bool :=
  match ((Mask.lanes act).filterMap (w.g.binding k)).map (·.tag) with
  | [] => false
  | t :: r => r.any (· != t)

/-- Fails with a cause when a condition holds. -/
def failIf (b : Bool) (c : Nat) : Except Nat Unit := if b then .error c else .ok ()

/-- The lines of an operand that lie within the requested lines (R402). -/
def Who.shown (w : Who) (n cnt : Nat) : List Nat := ((List.range cnt).map (· + n)).filter (· < w.g.lines)

/-- R83: the lines of a register operand carry one tag, and the operand accepts it. -/
def Who.checkLines (w : Who) (n cnt : Nat) (ok : Nat → Bool) : Except Nat Unit :=
  match w.shown n cnt with
  | [] => .ok ()
  | i :: r =>
    if r.any (fun j => w.g.tag j != w.g.tag i) then .error Cause.tagMixed
    else if ok (w.g.tag i) then .ok () else .error Cause.tagMismatch

/-- R50: an operand of `cnt` lines from `n` on lies wholly or partly past the requested lines. -/
def Who.beyond (w : Who) (n cnt : Nat) : Bool := decide (w.g.lines < n + cnt)

/-- R50 for a register field; specials and ports have no lines. -/
def Who.beyondField (w : Who) (x : BitVec 10) (cnt : Nat) : Bool :=
  match operandOf x with
  | .v n => w.beyond n cnt
  | _ => false

/-- R83, R89: the tag check of a source of `cnt` lines (for a special register or port: of a unit of that width). -/
def Who.checkSrc (w : Who) (act : Mask) (x : BitVec 10) (cnt : Nat) (ok : Nat → Bool) : Except Nat Unit :=
  match operandOf x with
  | .v n => w.checkLines n cnt ok
  | .sr .zero | .sr .one | .reserved => .ok ()
  | .sr r => if ok (SReg.tag r) && (Tg.wide (SReg.tag r) == (cnt == 2)) then .ok () else .error Cause.tagMismatch
  | .port k =>
    if w.portMixed act k then .error Cause.tagMixed
    else
      match w.srcTag act x with
      | none => .ok ()
      | some t => if (Tg.wide t == (cnt == 2)) && ok t then .ok () else .error Cause.tagMismatch

/-- The operation format of R121. -/
structure Fmt where
  /-- T, or none when every line that would give it lies past the requested lines (R402). -/
  t    : Option Nat
  wide : Bool
deriving DecidableEq, Repr

/-- T as a number; I32 where nothing gives it. -/
def Fmt.tag (f : Fmt) : Nat := f.t.getD 3

/-- R121: the operation format of an instruction whose format sources are among `uses`. -/
def Who.format (w : Who) (act : Mask) (etag : Nat) (uses : List Use) : Fmt :=
  let fs := uses.filterMap (fun u => match u with | .fmt x => some x | _ => none)
  let t := if fs.all isZeroOne then some (if etag = 31 then 3 else etag) else fs.findSome? (w.srcTag act)
  ⟨t, if etag = 31 then Tg.wide (t.getD 3) else Tg.wide etag⟩

/-- R49, R122: an odd register in a slot that its tag, the expected tag or T makes 64 bits wide. -/
def Who.oddWide (w : Who) (f : Fmt) (x : BitVec 10) : Bool :=
  match operandOf x with
  | .v n => n % 2 == 1 && (f.wide || Tg.wide f.tag || decide (n < w.g.lines) && Tg.wide (w.g.tag n))
  | _ => false

/-- The lines of a use: a unit of T, or one line. -/
def Use.lines (f : Fmt) : Use → Nat
  | .fmt _ => if f.wide then 2 else 1
  | .line _ _ => 1
  | .pair _ _ => 2

/-- The tag check of one use, in slot order (R83, R123). -/
def Who.checkUse (w : Who) (act : Mask) (etag : Nat) (f : Fmt) (accept : Nat → Bool) : Use → Except Nat Unit
  | .fmt x => w.checkSrc act x (if f.wide then 2 else 1) (fun t => f.t == some t && accept t && (etag == 31 || t == etag))
  | .line x ok => w.checkSrc act x 1 ok
  | .pair x ok => w.checkSrc act x 2 ok

/-- The fragment checks of a vector instruction: the fields that need bindings or tags (R49, R89), then the tags in slot order
(R83, R123), then the group that T must belong to where only `sr.zero` and `sr.one` give it, and last the tag of a write port (log entry
64). An odd register with a 64-bit tag in a one-line slot fails that slot's tags (log entry 79). `known` says whether the lines that give the
result's tag lie within the requested lines (R402). -/
def Who.vecCheck (w : Who) (act : Mask) (etag : Nat) (accept : Nat → Bool) (uses : List Use) (d : BitVec 10)
    (resTag : Nat → Nat) (known : Fmt → Bool := fun f => f.t.isSome) : Except Nat Fmt := do
  let f := w.format act etag uses
  let ports := uses.filterMap (fun u => match operandOf u.field with | .port k => some k | _ => none)
  failIf (ports.any (fun k => w.portBad act k false)) Cause.illegalField
  match operandOf d with
  | .port k => failIf (w.portBad act k true) Cause.illegalField
  | _ => .ok ()
  failIf (uses.any (fun u => match u with | .fmt x => w.oddWide f x | _ => false)) Cause.illegalField
  match operandOf d with
  | .v n => failIf ((Tg.wide (resTag f.tag) || (etag != 31 && Tg.wide (resTag etag))) && n % 2 == 1) Cause.illegalField
  | _ => .ok ()
  uses.forM (w.checkUse act etag f accept)
  failIf (f.t.isSome && !accept f.tag) Cause.tagMismatch
  match operandOf d with
  | .port k =>
    failIf (w.portMixed act k) Cause.tagMixed
    match w.srcTag act d with
    | none => .ok ()
    | some t =>
      let rt := resTag f.tag
      failIf (known f && !(Tg.wide t == Tg.wide rt && (rt == t || rt == 0))) Cause.tagMismatch
  | _ => .ok ()
  return f

/-- R50 for the operands of a vector instruction. -/
def Who.vecBeyond (w : Who) (f : Fmt) (uses : List Use) (d : BitVec 10) (resTag : Nat) : Bool :=
  uses.any (fun u => w.beyondField u.field (u.lines f)) || w.beyondField d (if Tg.wide resTag then 2 else 1)

-- Lanes' accesses to memory.

/-- The bytes that a lane's load of `n` bytes at a virtual address returns, with the largest future Tv among them (R208) and the cause
and the address of each page's poison that it consumes (R311). -/
def State.loadVa (s : State) (core slot ctx va n : Nat) : List Byte × Nat × List (Nat × Nat) :=
  (pageParts va n).foldl (fun acc p =>
    let key := s.keyAt core ctx p.1 false
    let r := s.loadBytes core slot key p.2
    (acc.1 ++ r.map (·.val), r.foldl (fun m b => max m b.tv) acc.2.1,
      acc.2.2 ++ (if r.any (·.psn) then [(tierCause (tierOf key), p.1)] else []))) ([], 0, [])

/-- The physical parts of a lane's access. -/
def State.partsAt (s : State) (core ctx va n : Nat) : List (Nat × Nat) :=
  (pageParts va n).map (fun p => (s.keyAt core ctx p.1 false, p.2))

/-- R173: a byte of a load that was still to be read, read now. -/
def LanePart.take (s : State) (core slot : Nat) (q : LanePart) (m : Nat × Nat) : LanePart :=
  let r := s.loadByte core slot m.2
  { q with
    value := q.value ||| BitVec.ofNat 128 (r.val.toNat * 2 ^ (8 * m.1)),
    tv := max q.tv r.tv,
    poison := if r.psn then q.poison ++ [(tierCause (tierOf m.2), q.va + m.1)] else q.poison }

/-- R166, R173, R196: the bytes of a load's part that are still to be read are read now, all together, if `sel` selects the key of one. -/
def LanePart.read (s : State) (core slot : Nat) (sel : Nat → Bool) (q : LanePart) : LanePart :=
  if q.miss.any (fun m => sel m.2) then q.miss.foldl (LanePart.take s core slot) { q with miss := [] } else q

/-- R196: before an access of a group to some bytes takes effect, its earlier loads of those bytes do. -/
def State.readNow (s : State) (core slot : Nat) (sel : Nat → Bool) : State :=
  s.updGroup core slot (fun g => { g with
    loads := g.loads.map (fun p => { p with parts := p.parts.map (LanePart.read s core slot sel) }) })

/-- The keys of some physical parts. -/
def inParts (parts : List (Nat × Nat)) (key : Nat) : Bool := parts.any (fun p => decide (p.1 ≤ key) && decide (key < p.1 + p.2))

/-- A group's horizon rises to a Tv (R205, R208). -/
def State.raise (s : State) (core slot tv : Nat) : State :=
  s.updGroup core slot (fun g => { g with horizon := max g.horizon tv })

/-- A lane's store of a kind at a virtual address, its translation used (R160), its Tv joining the horizon (R205). -/
def State.storeVaAs (s : State) (kind : StoreKind) (w : Who) (lane va hint : Nat) (bs : List Byte) : State :=
  (pageParts va bs.length).foldl (fun s p =>
    let s := s.touch w.core w.ctx p.1 true
    let key := s.keyAt w.core w.ctx p.1 true
    let s := s.readNow w.core w.slot (inParts [(key, p.2)])
    let r := s.storeAs kind ⟨w.core, w.slot, lane⟩ w.ctx key hint ((bs.drop (p.1 - va)).take p.2)
    let s := r.1.raise w.core w.slot r.2
    if s.switched key then s.updGroup w.core w.slot (fun g => { g with unacked := g.unacked + 1 }) else s) s

/-- A lane's plain store at a virtual address. -/
def State.storeVa (s : State) (w : Who) (lane va hint : Nat) (bs : List Byte) : State := s.storeVaAs .plain w lane va hint bs

/-- R359: the words of a write-once range that an access touches. -/
def State.onceWords (s : State) (w : Who) (va n : Nat) : List Nat :=
  (s.partsAt w.core w.ctx va n).flatMap (fun p => if s.patFor p.1 (s.ctx w.ctx).ten == 3 then wordsOf p.1 p.2 else [])

/-- R359: the probes of the lanes of a storing instruction in ascending lane order: a word of a write-once range that an earlier lane of
the instruction takes fails a later lane with LF_WRITE_TWICE (R168). A lane that has failed one probe makes no other, `skip` is the last, and
the words of a lane that fails one of its probes, or another check of the instruction (`out`), are not taken. -/
def State.probeFrom (s : State) (w : Who) (cls : Cls) (align : Bool) (out : List Nat) (skip : Option Nat) (taken : List (Nat × Nat)) :
    List (Nat × Nat × Nat) → List (Nat × LaneFail)
  | [] => []
  | (l, va, n) :: t =>
    if skip = some l then s.probeFrom w cls align out skip taken t
    else
      let f := s.probe w.core w.ctx va n cls align true
      let ws := s.onceWords w va n
      let clash := ws.any (fun x => taken.any (fun y => y.1 == x && y.2 != l))
      let kept := taken.filter (fun y => y.2 != l)
      match f with
      | some e =>
        (l, if clash && (e.cause == Cause.translation) then { cause := Cause.writeTwice, addr := va } else e)
          :: s.probeFrom w cls align out (some l) kept t
      | none =>
        if clash then (l, { cause := Cause.writeTwice, addr := va }) :: s.probeFrom w cls align out (some l) kept t
        else s.probeFrom w cls align out skip (if out.contains l then taken else ws.map (fun x => (x, l)) ++ taken) t

/-- R359: the probes of the lanes of a storing instruction; `out` are the lanes that another of its checks fails. -/
def State.probeStores (s : State) (w : Who) (cls : Cls) (align : Bool) (out : List Nat) (accs : List (Nat × Nat × Nat)) :
    List (Nat × LaneFail) := s.probeFrom w cls align out none [] accs

/-- The probes of the lanes of a loading instruction. -/
def State.probeLoads (s : State) (w : Who) (align : Bool) (accs : List (Nat × Nat × Nat)) : List (Nat × LaneFail) :=
  accs.filterMap (fun a => (s.probe w.core w.ctx a.2.1 a.2.2 .load align true).map (fun f => (a.1, f)))

-- Stream ports.

/-- R89: the lane checks of a port: an ended binding, then the probe of the element. `out` are the lanes that the slots before it fail. -/
def State.portFails (s : State) (w : Who) (act : Mask) (x : BitVec 10) (write : Bool) (out : List Nat := []) : List (Nat × LaneFail) :=
  match operandOf x with
  | .port k =>
    let ended := (Mask.lanes act).filter (fun l => match w.g.binding k l with | some b => b.ended | none => false)
    let accs := (Mask.lanes act).filterMap (fun l =>
      match w.g.binding k l with
      | some b => if b.ended then none else some (l, b.addr, b.size)
      | none => none)
    ended.map (fun l => (l, { cause := Cause.streamEnd }))
      ++ (if write then s.probeStores w .store false out accs else s.probeLoads w false accs)
  | _ => []

/-- The lane failures of an instruction's slots: each lane's first, in slot order, the destination last. -/
def firstFails (fs : List (Nat × LaneFail)) : List (Nat × LaneFail) :=
  fs.foldl (fun acc e => if acc.any (fun a => a.1 == e.1) then acc else acc ++ [e]) []

/-- The failures of an instruction whose last slot is a destination: those of its other slots, then those of a write port (R89, R359). -/
def State.failsTo (s : State) (w : Who) (act : Mask) (before : List (Nat × LaneFail)) (d : BitVec 10) : List (Nat × LaneFail) :=
  firstFails (before ++ s.portFails w act d true (before.map Prod.fst))

/-- R374: one of some slots is a stream port. -/
def anyPort (xs : List (BitVec 10)) : Bool := xs.any Fld.isPort

/-- The accesses of a read port by the committing lanes. -/
def Who.portAccs (w : Who) (cm : Mask) (x : BitVec 10) : List (Nat × Nat × Nat) :=
  match operandOf x with
  | .port k => (Mask.lanes cm).filterMap (fun l => (w.g.binding k l).map (fun b => (l, b.addr, b.size)))
  | _ => []

/-- R90: the bindings of a port in the committing lanes move on once. -/
def State.advancePort (s : State) (w : Who) (cm : Mask) (k : Nat) : State :=
  s.updGroup w.core w.slot (fun g =>
    let moved := (Mask.lanes cm).foldl (fun t l => Table.upd t (k * 32 + l) Binding.advance) g.streams
    { g with streams := moved })

/-- The values that the committing lanes' accesses return at once: the bolts that they need are filled first (R171), and the group's earlier
loads of the same bytes take effect (R196). Each value comes with the largest future Tv in it (R208) and the poison consumed (R311). -/
def State.loadLanes (s : State) (w : Who) (accs : List (Nat × Nat × Nat)) (hint : Nat) : State × List (Nat × List Byte × Nat × List (Nat × Nat)) :=
  let s := accs.foldl (fun s a => s.touchAll w.core w.ctx a.2.1 a.2.2 false) s
  let parts := accs.flatMap (fun a => s.partsAt w.core w.ctx a.2.1 a.2.2)
  let s := ((s.readNow w.core w.slot (inParts parts)).waitUncached w.core w.ctx parts).fillFor w.core w.slot w.ctx parts hint
  (s, accs.map (fun a => (a.1, s.loadVa w.core w.slot w.ctx a.2.1 a.2.2)))

/-- R365: the home requests that the stores of some lanes' accesses would make. No table of the standard patterns holds one (R358), so
without a loaded pattern there is nothing to ask. -/
def State.storeAsks (s : State) (kind : StoreKind) (w : Who) (accs : List (Nat × Nat × Nat)) : List (Nat × HomeReq) :=
  if s.patterns.isEmpty then []
  else accs.flatMap (fun a => (pageParts a.2.1 a.2.2).flatMap (fun p =>
    (frameParts (s.keyAt w.core w.ctx p.1 true) p.2).filterMap (fun q => s.storeAsk kind w.core w.ctx q.1 q.2)))

/-- R365: the requests that the accesses of the lanes that pass their checks would make: of stores of a kind, or of loads that read at once. -/
def State.asksFor (s : State) (kind : Option StoreKind) (w : Who) (fails : List (Nat × LaneFail)) (accs : List (Nat × Nat × Nat)) :
    List (Nat × HomeReq) :=
  if s.patterns.isEmpty then []
  else
    let ok := accs.filter (fun a => !fails.any (fun e => e.1 == a.1))
    match kind with
    | some k => s.storeAsks k w ok
    | none =>
      let parts := ok.flatMap (fun a => s.partsAt w.core w.ctx a.2.1 a.2.2)
      s.fetchAsks w.core w.ctx parts (spansBy parts 0 (s.guess w.core))

/-- R365: the requests of a port's accesses. -/
def State.portAsks (s : State) (w : Who) (act : Mask) (fails : List (Nat × LaneFail)) (x : BitVec 10) (write : Bool) : List (Nat × HomeReq) :=
  s.asksFor (if write then some .plain else none) w fails (w.portAccs act x)

/-- The loads of the distinct read ports among some slots: state after, values by port and lane, and the poison consumed. -/
def State.loadPorts (s : State) (w : Who) (cm : Mask) : List Nat → State × Table Nat × List (Nat × Nat)
  | [] => (s, [], [])
  | k :: t =>
    let accs := (Mask.lanes cm).filterMap (fun l => (w.g.binding k l).map (fun b => (l, b.addr, b.size)))
    let r := s.loadLanes w accs 0
    let tv := r.2.foldl (fun m v => max m v.2.2.1) 0
    let s := ((r.1.raise w.core w.slot tv).advancePort w cm k)
    let q := s.loadPorts w cm t
    (q.1, r.2.foldl (fun tb v => Table.put tb (k * 32 + v.1) (leNat v.2.1)) q.2.1,
      r.2.flatMap (fun v => v.2.2.2) ++ q.2.2)

/-- The distinct ports of some fields. -/
def portsOf (xs : List (BitVec 10)) : List Nat :=
  (xs.filterMap (fun x => match operandOf x with | .port k => some k | _ => none)).foldl insertNat []

/-- The value of a source in a lane: `t` its format, `wide` whether it is a pair, `pv` the values its ports supplied. -/
def Who.srcVal (s : State) (w : Who) (x : BitVec 10) (t : Nat) (wide : Bool) (pv : Table Nat) (l : Nat) : Nat :=
  match operandOf x with
  | .v n => ((w.g.line n).slot l).toNat + (if wide then 2 ^ 32 * ((w.g.line (n + 1)).slot l).toNat else 0)
  | .sr .zero => 0
  | .sr .one => Tg.one t
  | .sr r => w.sreg s l r
  | .port k => Table.getD pv 0 (k * 32 + l)
  | .reserved => 0

/-- Writes lanes' unit values to a destination: a register or pair under R82, or a write port under R90. -/
def State.writeDst (s : State) (w : Who) (d : BitVec 10) (tag : Nat) (wide : Bool) (vs : List (Nat × Nat)) : State :=
  match operandOf d with
  | .v n =>
    s.updGroup w.core w.slot (fun g =>
      let g1 := g.writeSlots n tag (vs.map (fun v => (v.1, BitVec.ofNat 32 v.2)))
      if wide then g1.writeSlots (n + 1) tag (vs.map (fun v => (v.1, BitVec.ofNat 32 (v.2 / 2 ^ 32)))) else g1)
  | .port k =>
    let s1 := vs.foldl (fun s v =>
      match w.g.binding k v.1 with
      | some b => s.storeVa w v.1 b.addr 0 (leBytes v.2 b.size)
      | none => s) s
    s1.advancePort w (Mask.of (vs.map Prod.fst)) k
  | _ => s

/-- The one line of a slot that is read from the leader, as a 32-bit number; `sr.zero` and `sr.one` are 0 and 1. -/
def Who.word (s : State) (w : Who) (x : BitVec 10) (l : Nat) : Nat := w.srcVal s x 3 false [] l

/-- A pair read as a 64-bit number. -/
def Who.dword (s : State) (w : Who) (x : BitVec 10) (l : Nat) : Nat := w.srcVal s x 8 true [] l

end Sys2Proof.Machine
end

