-- ==== Sys2Proof/Machine/Flags.lean ====
section
/-! DEFINITION. Machine/Flags.lean: the sticky flags of `gs.flags` (R108, R317, R320), rounding mode and flush-to-zero (R106, R107, R140),
saturation (R130), conversions between formats (R113) and gauges (R127, R254). -/

namespace Sys2Proof.Machine

/-- R108: flags are ORed into `gs.flags`. -/
def Group.orFlags (g : Group) (f : BitVec 9) : Group := { g with flags := g.flags ||| f.zeroExtend 32 }

/-- R106, R317: the mode of an instruction: its RM field, or the mode in `gs.mode` (1 RNE, 2 RTZ, 3 RTO). -/
def Group.rm (g : Group) (field : Nat) : Nat := if field = 0 then bits g.mode.toNat 0 2 + 1 else field

/-- R107, R317: flush-to-zero. -/
def Group.ftz (g : Group) : Bool := g.mode.getLsbD 2

/-- R317, R390: the mixed-size check, which reads 0 where the feature is not accepted. -/
def Group.mixchk (g : Group) : Bool := g.mode.getLsbD 3

/-- R140: `fin`: a source element's value and the flag it sets. -/
def fin (f : FloatFmt) (ftz : Bool) (x : Nat) : FV × BitVec 9 :=
  match f.value x with
  | .nan true => (.nan true, AF.invalid)
  | .fin n m e => if ftz && f.subnormal x then (.fin n 0 0, 0) else (.fin n m e, 0)
  | v => (v, 0)

/-- R107: a result that would be subnormal becomes zero of its sign. -/
def flush (f : FloatFmt) (ftz : Bool) (r : Nat × BitVec 9) : Nat × BitVec 9 :=
  if ftz && f.subnormal r.1 then (bits r.1 (f.eb + f.fb) 1 * 2 ^ (f.eb + f.fb), r.2 ||| AF.underflow ||| AF.inexact) else r

/-- R140: `fout`: the encoding and the flags of an exact result. -/
def fout (f : FloatFmt) (rm : Nat) (ftz : Bool) (x : Exact) : Nat × BitVec 9 :=
  let r := match x.v with
    | .fin n m e => f.round rm n m e x.sticky
    | v => f.roundFV rm v
  let y := flush f ftz r
  (y.1, y.2 ||| x.flags)

/-- The least and the greatest value of an integer tag. -/
def lowest (t : Nat) : Int := if Tg.signed t then -(2 ^ (Tg.width t - 1) : Nat) else 0
def highest (t : Nat) : Int := if Tg.signed t then (2 ^ (Tg.width t - 1) : Nat) - 1 else (2 ^ Tg.width t : Nat) - 1

/-- An integer cut to the range of an integer tag. -/
def clampTo (t : Nat) (x : Int) : Int := min (max x (lowest t)) (highest t)

/-- R130: an exact integer stored wrapped, or saturated with AF_INT_OVERFLOW. -/
def storeInt (t : Nat) (sat : Bool) (x : Int) : Nat × BitVec 9 :=
  if sat then (wrap (Tg.width t) (clampTo t x), if clampTo t x = x then 0 else AF.intOverflow)
  else (wrap (Tg.width t) x, 0)

/-- R106, R113: a value rounded to an integer format; from a float or J8 value out of range it is invalid. -/
def toInt (t rm : Nat) (v : FV) : Nat × BitVec 9 :=
  match v with
  | .nan _ => (0, AF.invalid)
  | .inf n => (wrap (Tg.width t) (if n then lowest t else highest t), AF.invalid)
  | .fin n m e =>
    -- a magnitude past every range is cut before it is shifted into place
    let r := roundInt rm n m (if 128 ≤ e then 128 else e)
    let x := r.1
    if clampTo t x = x then (wrap (Tg.width t) x, if r.2 then 0 else AF.inexact)
    else (wrap (Tg.width t) (clampTo t x), AF.invalid)

/-- R113: `convert`: one element from a source tag to a target tag. -/
def convert (src dst rm : Nat) (ftz : Bool) (x : Nat) : Nat × BitVec 9 :=
  let w := Tg.width src
  if Tg.int src then
    let v := ival src w x
    if Tg.int dst then (wrap (Tg.width dst) (clampTo dst v), if clampTo dst v = v then 0 else AF.intOverflow)
    else if Tg.flt dst then flush (fmtOf dst) ftz ((fmtOf dst).roundFV rm (FV.ofInt v))
    else j8Round dst rm (FV.ofInt v)
  else
    let v := if Tg.flt src then fin (fmtOf src) ftz x else (valueOf src w x, 0)
    let r := if Tg.int dst then toInt dst rm v.1
      else if Tg.flt dst then flush (fmtOf dst) ftz ((fmtOf dst).roundFV rm v.1)
      else j8Round dst rm v.1
    (r.1, r.2 ||| v.2)

/-- The gauge `n` of a core (R253). -/
def State.gauge (s : State) (core n : Nat) : Gauge := Table.getD s.gauges Gauge.off (semKey core n)

/-- Sets a gauge. -/
def State.setGauge (s : State) (core n : Nat) (g : Gauge) : State :=
  { s with gauges := Table.setD s.gauges Gauge.off (semKey core n) g }

/-- A gauge's bounds as numbers (R127, R266). -/
def Gauge.bound (g : Gauge) (x : Slot) : FV := if g.int then FV.ofInt x.toInt else F32.value x.toNat

/-- R127: `to_T`. -/
def toT (t : Nat) (v : FV) : Nat :=
  if Tg.flt t then ((fmtOf t).roundFV 1 v).1
  else if t = 13 || t = 14 then (j8Round t 1 v).1
  else (toInt t 1 v).1

/-- R127: a value lies outside a gauge's bounds. -/
def Gauge.hit (g : Gauge) (v : FV) : Bool :=
  v.isNan || v.cmp (g.bound g.lo) == some .lt || v.cmp (g.bound g.hi) == some .gt

/-- R127: `gauge_check` of an element by a gauge as read at issue: the element, the hits counted, and the flag. -/
def Gauge.check (g : Gauge) (t y : Nat) : Nat × Nat × BitVec 9 :=
  let v := valueOf t (Tg.width t) y
  if g.act = 0 || !g.hit v then (y, 0, 0)
  else if g.act = 2 then (toT t (if v.cmp (g.bound g.hi) = some .gt then g.bound g.hi else g.bound g.lo), 1, 0)
  else if g.act = 3 then (y, 1, AF.gauge)
  else (y, 1, 0)

/-- R253, R373: the cores whose gauge files the team of a group reaches: its own and, under DUP, its twin. -/
def State.filesOf (s : State) (core slot : Nat) : List Nat :=
  core :: (((s.group? core slot).bind (fun g => Table.find s.teams g.tid)).bind (·.twin)).toList

/-- R266, R373: a gauge is set for a group. -/
def State.setGauges (s : State) (core slot n : Nat) (g : Gauge) : State :=
  (s.filesOf core slot).foldl (fun s c => s.setGauge c n g) s

/-- A gauge with more hits, saturating (R128, R253). -/
def Gauge.more (g : Gauge) (hits : Nat) : Gauge := { g with hits := min (g.hits + hits) (2 ^ 32 - 1) }

/-- R128, R373: hits of an instruction of a group are added to a gauge. -/
def State.addHits (s : State) (core slot n hits : Nat) : State :=
  if hits = 0 then s
  else { s with gauges := (s.filesOf core slot).foldl (fun t c =>
    Table.setD t Gauge.off (semKey c n) ((Table.getD t Gauge.off (semKey c n)).more hits)) s.gauges }

/-- R317: bit k of the flags that TFENCE raises: those enabled in TEN, and AF_GAUGE and AF_RESIDUE always. -/
def Group.raised (g : Group) : BitVec 9 :=
  g.flags.extractLsb' 0 9 &&& (g.mode.extractLsb' 16 9 ||| AF.gauge ||| AF.residue)

/-- The lowest set bit of a flag set. -/
def lowestFlag (p : BitVec 9) : Nat := ((List.range 9).find? p.getLsbD).getD 0

/-- R317: what a write of `gs.mode` leaves: reserved bits zero, an RM of 3 not taken, MIXCHK only where accepted. -/
def modeWrite (s : State) (old new : BitVec 32) : BitVec 32 :=
  let keep : BitVec 32 := if s.feature 6 then 0x00DF000C else 0x00DF0004
  let rm := if new.extractLsb' 0 2 = 3 then old.extractLsb' 0 2 else new.extractLsb' 0 2
  (new &&& keep) ||| rm.zeroExtend 32

end Sys2Proof.Machine
end

