-- ==== Sys2Proof/Machine/Vector.lean ====
section
/-! DEFINITION. Machine/Vector.lean: the one way a vector instruction of classes 0x0 to 0x3 and 0xB issues (R121 to R128): operand
checks, stream accesses, elements, gauge, flags and the write of the destination. -/

namespace Sys2Proof.Machine

/-- What the committing lanes' results depend on: the issuer, T, the sources' unit values by use and lane, the committing lanes, and free
values. -/
structure VecIn where
  w    : Who
  t    : Nat
  val  : Nat → Nat → Nat
  cm   : Mask
  free : Nat → Nat

/-- A lane's result: its elements in the result tag, and the flags it sets. -/
structure LaneOut where
  lane  : Nat
  elems : List Nat
  flags : BitVec 9 := 0
deriving DecidableEq, Repr

/-- A vector instruction. -/
structure VecOp where
  g      : Guard
  etag   : Nat
  accept : Nat → Bool
  uses   : List Use
  d      : BitVec 10
  resTag : Nat → Nat := id
  /-- The result's tag is known: T is, where the result's tag hangs on T (R402). -/
  known  : Fmt → Bool := fun f => f.t.isSome
  gauge  : Nat := 0
  /-- A check beyond the tables' (R149). -/
  extra  : Who → Fmt → Except Nat Unit := fun _ _ => .ok ()
  eval   : VecIn → List LaneOut
  /-- The results may depend on free values (R136: a stream that another lane's slot would be read from). -/
  free   : Bool := false

/-- R126: the control slot's gauge and SAT. -/
def ctlGauge (c : BitVec 10) : Nat := c.toNat % 64
def ctlSat (c : BitVec 10) : Bool := c.getLsbD 6

/-- A source's unit value in a lane. -/
def Use.value (s : State) (w : Who) (f : Fmt) (pv : Table Nat) (l : Nat) : Use → Nat
  | .fmt x => w.srcVal s x f.tag f.wide pv l
  | .line x _ => w.srcVal s x 3 false pv l
  | .pair x _ => w.srcVal s x 8 true pv l

/-- R127, R128: the elements of a lane after its gauge, and the hits and flags that the gauge adds. -/
def gaugeLane (g : Option Gauge) (t : Nat) (r : LaneOut) : LaneOut × Nat :=
  match g with
  | none => (r, 0)
  | some g =>
    let ys := r.elems.map (g.check t)
    (⟨r.lane, ys.map Prod.fst, ys.foldl (fun f y => f ||| y.2.2) r.flags⟩, ys.foldl (fun n y => n + y.2.1) 0)

/-- What the committing lanes of an instruction see; `pv` holds the values that read ports supplied. -/
def VecOp.input (op : VecOp) (s : State) (w : Who) (f : Fmt) (pv : Table Nat) (cm : Mask) : VecIn :=
  ⟨w, f.tag, fun u l => match op.uses[u]? with | some x => x.value s w f pv l | none => 0, cm,
    fun n => (Config.free (s.free + n)).toNat⟩

/-- The effect of the committing lanes: the streams are read (R90), the elements computed, the gauge counts, the flags are set (R108)
and the destination is written (R124). Poison consumed through a stream loses the context (R311). -/
def State.vecCommit (w : Who) (op : VecOp) (f : Fmt) (cm : Mask) (s : State) : State :=
  let r := s.loadPorts w cm (portsOf (op.uses.map Use.field))
  match r.2.2 with
  | p :: ps => r.1.consume w.ctx (p :: ps)
  | [] =>
    let out := op.eval (op.input s w f r.2.1 cm)
    let gauge := if op.gauge = 0 then none else some (s.gauge w.core op.gauge)
    let rt := op.resTag f.tag
    let ys := out.map (gaugeLane gauge rt)
    let s0 := if op.free then { r.1 with free := r.1.free + 32 } else r.1
    let s1 := s0.addHits w.core w.slot op.gauge (ys.foldl (fun n y => n + y.2) 0)
    let s2 := s1.updGroup w.core w.slot (fun g => g.orFlags (ys.foldl (fun fl y => fl ||| y.1.flags) 0))
    s2.writeDst w op.d rt (Tg.wide rt) (ys.map (fun y => (y.1.lane, unitOf rt y.1.elems)))

/-- R123 to R125: the plan of a vector instruction. -/
def vecPlan (s : State) (op : VecOp) (w : Who) : Except Nat Plan :=
  let act := w.act op.g
  match w.vecCheck act op.etag op.accept op.uses op.d op.resTag op.known with
  | .error c => .error c
  | .ok f =>
    match op.extra w f with
    | .error c => .error c
    | .ok _ =>
      let fails := s.failsTo w act (op.uses.flatMap (fun u => s.portFails w act u.field false)) op.d
      .ok {
        oob := w.vecBeyond f op.uses op.d (op.resTag f.tag),
        fails := fails,
        commit := fun cm s => s.vecCommit w op f cm,
        leaves := anyPort (op.d :: op.uses.map Use.field),
        stores := Fld.isPort op.d,
        asks := op.uses.flatMap (fun u => s.portAsks w act fails u.field false) ++ s.portAsks w act fails op.d true }

/-- Issues a vector instruction. -/
def State.issueVec (s : State) (i : Instr) (n : Nat) (op : VecOp) : Host.Outcome State Fault Refusal :=
  s.issue i op.g n (vecPlan s op)

/-- R122: element `i` of each lane's result depends on element `i` of its `n` sources alone. -/
def lanewise (n : Nat) (k : List Nat → Nat × BitVec 9) (x : VecIn) : List LaneOut :=
  (Mask.lanes x.cm).map (fun l =>
    let rs := (List.range (Tg.epl x.t)).map (fun i =>
      k ((List.range n).map (fun u => bits (x.val u l) (i * Tg.width x.t) (Tg.width x.t))))
    ⟨l, rs.map Prod.fst, rs.foldl (fun f r => f ||| r.2) 0⟩)

/-- A lane's whole slot passes through unchanged. -/
def slotOut (x : VecIn) (pick : Nat → Nat) : List LaneOut :=
  (Mask.lanes x.cm).map (fun l => ⟨l, elemsOf x.t (pick l), 0⟩)

end Sys2Proof.Machine
end

