-- ==== Sys2Proof/Machine/Integer.lean ====
section
/-! DEFINITION. Machine/Integer.lean: the integer vector instructions, class 0x0 (R129 to R138). -/

namespace Sys2Proof.Machine

/-- R130: an integer operation of `n` sources, exact, then stored wrapped or saturated. -/
def arithOp (f : FmtV) (uses : List Use) (gauge : Nat) (sat : Bool) (op : List Int → Int) : VecOp where
  g := f.g
  etag := f.etag.toNat
  accept := Tg.int
  uses := uses
  d := f.d
  gauge := gauge
  eval := fun x => lanewise uses.length (fun xs => storeInt x.t sat (op (xs.map (ival x.t (Tg.width x.t))))) x

/-- Two sources and a control slot. -/
def arith2 (f : FmtV) (op : Int → Int → Int) : VecOp :=
  arithOp f [.fmt f.a, .fmt f.b] (ctlGauge f.c) (ctlSat f.c) (fun xs => op (xs.getD 0 0) (xs.getD 1 0))

/-- One source and a control slot. -/
def arith1 (f : FmtV) (op : Int → Int) : VecOp :=
  arithOp f [.fmt f.a] (ctlGauge f.c) (ctlSat f.c) (fun xs => op (xs.getD 0 0))

/-- R131 to R133: an operation on bit patterns: T, then the elements of the sources. -/
def bitsOp (f : FmtV) (accept : Nat → Bool) (uses : List Use) (resTag : Nat → Nat) (op : Nat → List Nat → Nat) : VecOp where
  g := f.g
  etag := f.etag.toNat
  accept := accept
  uses := uses
  d := f.d
  resTag := resTag
  eval := fun x => lanewise uses.length (fun xs => (op x.t xs, 0)) x

/-- Two sources. -/
def bits2 (f : FmtV) (accept : Nat → Bool) (op : Nat → Nat → Nat → Nat) : VecOp :=
  bitsOp f accept [.fmt f.a, .fmt f.b] id (fun w xs => op (Tg.width w) (xs.getD 0 0) (xs.getD 1 0))

/-- One source. -/
def bits1 (f : FmtV) (resTag : Nat → Nat) (op : Nat → Nat → Nat) : VecOp :=
  bitsOp f Tg.bits [.fmt f.a] resTag (fun w xs => op (Tg.width w) (xs.getD 0 0))

-- The element operations: `w` is the element's width.

/-- R131: shifts by `n` modulo `w`. -/
def shlBits (w a n : Nat) : Nat := a * 2 ^ (n % w) % 2 ^ w
def shrBits (w a n : Nat) : Nat := a / 2 ^ (n % w)
def sarBits (w a n : Nat) : Nat := wrap w (signed w a / 2 ^ (n % w))
def rotlBits (w a n : Nat) : Nat := (a * 2 ^ (n % w) % 2 ^ w) ||| (if n % w = 0 then 0 else a / 2 ^ (w - n % w))

/-- R131: NOT. -/
def notBits (w a : Nat) : Nat := 2 ^ w - 1 - a % 2 ^ w

/-- R132. -/
def popcBits (w a : Nat) : Nat := (List.range w).foldl (fun n k => n + bits a k 1) 0
def clzBits (w a : Nat) : Nat := if a = 0 then w else w - 1 - Nat.log2 a
def brevBits (w a : Nat) : Nat := (List.range w).foldl (fun y k => y + bits a k 1 * 2 ^ (w - 1 - k)) 0

/-- R133: the carry-less product. -/
def clmulBits (w a b : Nat) : Nat :=
  (List.range w).foldl (fun p k => if bits b k 1 = 1 then p ^^^ (a * 2 ^ k) else p) 0

/-- R134: the field's position and length in a field line's slot. -/
def bfxBits (t w a x : Nat) : Nat :=
  let pos := bits x 0 8
  let len := bits x 8 8
  let top := min (pos + len) w
  if w ≤ pos || len = 0 then 0
  else
    let f := bits a pos (top - pos)
    if Tg.signed t then wrap w (signed (top - pos) f) else f

/-- R134: a field of `c` replaced by the low bits of `a`. -/
def bfiBits (w a x c : Nat) : Nat :=
  let pos := bits x 0 8
  let len := bits x 8 8
  let top := min (pos + len) w
  if w ≤ pos || len = 0 then c
  else c - bits c pos (top - pos) * 2 ^ pos + bits a 0 (top - pos) * 2 ^ pos

/-- R132: the result tag of POPC and CLZ. -/
def countTag (t : Nat) : Nat := if Tg.int t then t else Tg.n32

-- The meanings.

def execIadd (f : FmtV) (s : State) : Host.Outcome State Fault Refusal :=
  s.issueVec (.iadd f) 1 (arith2 f (fun a b => a + b))

def execIsub (f : FmtV) (s : State) : Host.Outcome State Fault Refusal :=
  s.issueVec (.isub f) 1 (arith2 f (fun a b => a - b))

def execImul (f : FmtV) (s : State) : Host.Outcome State Fault Refusal :=
  s.issueVec (.imul f) 1 (arith2 f (fun a b => a * b))

/-- R130: the upper half of the product, which depends on the width of T. -/
def imulhOp (f : FmtV) : VecOp :=
  { arith2 f (fun a b => a * b) with
    eval := fun x => lanewise 2 (fun xs =>
      let w := Tg.width x.t
      storeInt x.t false ((ival x.t w (xs.getD 0 0) * ival x.t w (xs.getD 1 0)) / (2 ^ w : Nat))) x }

def execImulh (f : FmtV) (s : State) : Host.Outcome State Fault Refusal :=
  s.issueVec (.imulh f) 1 (imulhOp f)

def execImad (f : FmtV) (s : State) : Host.Outcome State Fault Refusal :=
  s.issueVec (.imad f) 1 (arithOp f [.fmt f.a, .fmt f.b, .fmt f.c] 0 false (fun xs => xs.getD 0 0 * xs.getD 1 0 + xs.getD 2 0))

def execImin (f : FmtV) (s : State) : Host.Outcome State Fault Refusal :=
  s.issueVec (.imin f) 1 (arith2 f (fun a b => min a b))

def execImax (f : FmtV) (s : State) : Host.Outcome State Fault Refusal :=
  s.issueVec (.imax f) 1 (arith2 f (fun a b => max a b))

def execIabs (f : FmtV) (s : State) : Host.Outcome State Fault Refusal :=
  s.issueVec (.iabs f) 1 (arith1 f (fun a => a.natAbs))

def execIneg (f : FmtV) (s : State) : Host.Outcome State Fault Refusal :=
  s.issueVec (.ineg f) 1 (arith1 f (fun a => -a))

def execAnd (f : FmtV) (s : State) : Host.Outcome State Fault Refusal :=
  s.issueVec (.and f) 1 (bits2 f Tg.bits (fun _ a b => a &&& b))

def execOr (f : FmtV) (s : State) : Host.Outcome State Fault Refusal :=
  s.issueVec (.or f) 1 (bits2 f Tg.bits (fun _ a b => a ||| b))

def execXor (f : FmtV) (s : State) : Host.Outcome State Fault Refusal :=
  s.issueVec (.xor f) 1 (bits2 f Tg.bits (fun _ a b => a ^^^ b))

def execNot (f : FmtV) (s : State) : Host.Outcome State Fault Refusal :=
  s.issueVec (.not f) 1 (bits1 f id notBits)

def execShl (f : FmtV) (s : State) : Host.Outcome State Fault Refusal :=
  s.issueVec (.shl f) 1 (bits2 f Tg.shift shlBits)

def execShr (f : FmtV) (s : State) : Host.Outcome State Fault Refusal :=
  s.issueVec (.shr f) 1 (bits2 f Tg.shift shrBits)

def execSar (f : FmtV) (s : State) : Host.Outcome State Fault Refusal :=
  s.issueVec (.sar f) 1 (bits2 f Tg.shift sarBits)

def execRotl (f : FmtV) (s : State) : Host.Outcome State Fault Refusal :=
  s.issueVec (.rotl f) 1 (bits2 f Tg.shift rotlBits)

def execPopc (f : FmtV) (s : State) : Host.Outcome State Fault Refusal :=
  s.issueVec (.popc f) 1 (bits1 f countTag popcBits)

def execClz (f : FmtV) (s : State) : Host.Outcome State Fault Refusal :=
  s.issueVec (.clz f) 1 (bits1 f countTag clzBits)

def execBrev (f : FmtV) (s : State) : Host.Outcome State Fault Refusal :=
  s.issueVec (.brev f) 1 (bits1 f id brevBits)

/-- R135: the selector is slot C. -/
def selOp (f : FmtV) : VecOp where
  g := f.g
  etag := f.etag.toNat
  accept := Tg.any
  uses := [.fmt f.a, .fmt f.b]
  d := f.d
  eval := fun x =>
    let p := x.w.g.guard ⟨f.c.getLsbD 4, f.c.extractLsb' 0 4⟩
    slotOut x (fun l => x.val (if p.getLsbD l then 0 else 1) l)

def execSel (f : FmtV) (s : State) : Host.Outcome State Fault Refusal :=
  s.issueVec (.sel f) 1 (selOp f)

def execClmul (f : FmtV) (s : State) : Host.Outcome State Fault Refusal :=
  s.issueVec (.clmul f) 1 (bits2 f Tg.shift (fun w a b => clmulBits w a b % 2 ^ w))

def execClmulh (f : FmtV) (s : State) : Host.Outcome State Fault Refusal :=
  s.issueVec (.clmulh f) 1 (bits2 f Tg.shift (fun w a b => clmulBits w a b / 2 ^ w))

/-- R134: element `i` of a lane with the field line of the lane. -/
def fieldwise (n : Nat) (k : Nat → List Nat → Nat) (field : Nat) (x : VecIn) : List LaneOut :=
  (Mask.lanes x.cm).map (fun l =>
    ⟨l, (List.range (Tg.epl x.t)).map (fun i =>
      k (x.val field l) ((List.range n).map (fun u => bits (x.val (if u < field then u else u + 1) l) (i * Tg.width x.t) (Tg.width x.t)))), 0⟩)

/-- R134: BFX. -/
def bfxOp (f : FmtV) : VecOp where
  g := f.g
  etag := f.etag.toNat
  accept := Tg.shift
  uses := [.fmt f.a, .line f.b Tg.word]
  d := f.d
  eval := fun x => fieldwise 1 (fun fl xs => bfxBits x.t (Tg.width x.t) (xs.getD 0 0) fl) 1 x

def execBfx (f : FmtV) (s : State) : Host.Outcome State Fault Refusal :=
  s.issueVec (.bfx f) 1 (bfxOp f)

/-- R134: BFI: the value that receives the field is slot C. -/
def bfiOp (f : FmtV) : VecOp where
  g := f.g
  etag := f.etag.toNat
  accept := Tg.shift
  uses := [.fmt f.a, .line f.b Tg.word, .fmt f.c]
  d := f.d
  eval := fun x => fieldwise 2 (fun fl xs => bfiBits (Tg.width x.t) (xs.getD 0 0) fl (xs.getD 1 0)) 1 x

def execBfi (f : FmtV) (s : State) : Host.Outcome State Fault Refusal :=
  s.issueVec (.bfi f) 1 (bfiOp f)

/-- R136: slot A of lane `j`, whatever lane `j` is doing. A stream has no slot: a lane that does not commit read nothing from it, and the
value is free (log entry 12). -/
def otherLane (f : FmtV) (x : VecIn) (l j : Nat) : Nat :=
  if Fld.isPort f.a && !x.cm.getLsbD j then x.free l else x.val 0 j

/-- R136: SHUF reads its lane's index line. -/
def shufOp (f : FmtV) : VecOp where
  g := f.g
  etag := f.etag.toNat
  accept := Tg.any
  uses := [.fmt f.a, .line f.b Tg.word]
  d := f.d
  eval := fun x => slotOut x (fun l => otherLane f x l (x.val 1 l % 32))
  free := Fld.isPort f.a

def execShuf (f : FmtV) (s : State) : Host.Outcome State Fault Refusal :=
  s.issueVec (.shuf f) 1 (shufOp f)

/-- R136: BCAST names the lane in slot C. -/
def bcastOp (f : FmtV) : VecOp where
  g := f.g
  etag := f.etag.toNat
  accept := Tg.any
  uses := [.fmt f.a]
  d := f.d
  eval := fun x => slotOut x (fun _ => otherLane f x 0 (f.c.toNat % 32))
  free := Fld.isPort f.a

def execBcast (f : FmtV) (s : State) : Host.Outcome State Fault Refusal :=
  s.issueVec (.bcast f) 1 (bcastOp f)

/-- R137, R150: every committing lane receives element-wise results computed from all of them. -/
def acrossLanes (k : List (Nat × Nat) → Nat × BitVec 9) (x : VecIn) : List LaneOut :=
  let rs := (List.range (Tg.epl x.t)).map (fun i =>
    k ((Mask.lanes x.cm).map (fun l => (l, bits (x.val 0 l) (i * Tg.width x.t) (Tg.width x.t)))))
  (Mask.lanes x.cm).map (fun l => ⟨l, rs.map Prod.fst, rs.foldl (fun f r => f ||| r.2) 0⟩)

/-- R137: the combination of kind `k` in tag `t`. -/
def ireduceBits (t k : Nat) (sat : Bool) (xs : List Nat) : Nat × BitVec 9 :=
  let w := Tg.width t
  let is := xs.map (ival t w)
  match k with
  | 0 => storeInt t sat (is.foldl (· + ·) 0)
  | 1 => (wrap w (is.foldl min (is.headD 0)), 0)
  | 2 => (wrap w (is.foldl max (is.headD 0)), 0)
  | 3 => (xs.foldl (· &&& ·) (2 ^ w - 1), 0)
  | 4 => (xs.foldl (· ||| ·) 0, 0)
  | _ => (xs.foldl (· ^^^ ·) 0, 0)

/-- R137: IREDUCE. -/
def ireduceOp (f : FmtV) : VecOp where
  g := f.g
  etag := f.etag.toNat
  accept := if f.c.toNat % 8 ≤ 2 then Tg.int else Tg.bits
  uses := [.fmt f.a]
  d := f.d
  eval := fun x => acrossLanes (fun xs => ireduceBits x.t (f.c.toNat % 8) (f.c.getLsbD 6) (xs.map Prod.snd)) x

def execIreduce (f : FmtV) (s : State) : Host.Outcome State Fault Refusal :=
  s.issueVec (.ireduce f) 1 (ireduceOp f)

/-- R138: I8 or N8. -/
def Tg.byte (t : Nat) : Bool := t == 1 || t == 5

/-- R138: the tag of a line source of the issuer; I32 where it has none of its own. -/
def Who.lineTag (w : Who) (act : Mask) (x : BitVec 10) : Nat := (w.srcTag act x).getD Tg.i32

/-- R138: DOT4. T is not used: A and B are lines of bytes (`sr.one` is 1 in each byte, R79), C a 32-bit number whose tag D takes. -/
def dot4Op (f : FmtV) (w : Who) : VecOp where
  g := f.g
  etag := 31
  accept := Tg.any
  uses := [.line f.a (fun t => Tg.byte t && (f.etag == 31 || t == f.etag.toNat)), .line f.b Tg.byte,
           .line f.c (fun t => t == Tg.i32 || t == Tg.n32)]
  d := f.d
  resTag := fun _ => if Fld.isSpecial f.c then Tg.i32 else w.lineTag (w.act f.g) f.c
  known := fun _ => Fld.isSpecial f.c || (w.srcTag (w.act f.g) f.c).isSome
  eval := fun x =>
    let byteVal : BitVec 10 → Nat → Nat := fun r v => if r == 0x3CB then 0x01010101 else v
    let ta := w.lineTag (w.act f.g) f.a
    let tb := w.lineTag (w.act f.g) f.b
    let tc := w.lineTag (w.act f.g) f.c
    (Mask.lanes x.cm).map (fun l =>
      let ps := (List.range 4).map (fun i => ival ta 8 (bits (byteVal f.a (x.val 0 l)) (8 * i) 8)
        * ival tb 8 (bits (byteVal f.b (x.val 1 l)) (8 * i) 8))
      ⟨l, [wrap 32 (ps.foldl (· + ·) (ival tc 32 (x.val 2 l)))], 0⟩)

def execDot4 (f : FmtV) (s : State) : Host.Outcome State Fault Refusal :=
  s.issue (.dot4 f) f.g 1 (fun w => vecPlan s (dot4Op f w) w)

end Sys2Proof.Machine
end

