-- ==== Sys2Proof/Machine/Float.lean ====
section
/-! DEFINITION. Machine/Float.lean: the float vector instructions, class 0x1 (R139 to R150). -/

namespace Sys2Proof.Machine

/-- R140: the rounding mode of an instruction. -/
def VecIn.rm (x : VecIn) (f : FmtV) : Nat := x.w.g.rm f.rm.toNat

/-- R140: source elements through `fin`, and the flags they set. -/
def finAll (x : VecIn) (xs : List Nat) : List FV × BitVec 9 :=
  let vs := xs.map (fin (fmtOf x.t) x.w.g.ftz)
  (vs.map Prod.fst, vs.foldl (fun f v => f ||| v.2) 0)

/-- R140: a float instruction: each element is `fout` of an exact operation on its sources after `fin`. -/
def floatOp (f : FmtV) (uses : List Use) (gauge : Nat) (op : List FV → Exact) : VecOp where
  g := f.g
  etag := f.etag.toNat
  accept := Tg.flt
  uses := uses
  d := f.d
  gauge := gauge
  eval := fun x => lanewise uses.length (fun xs =>
    let vs := finAll x xs
    let r := fout (fmtOf x.t) (x.rm f) x.w.g.ftz (op vs.1)
    (r.1, r.2 ||| vs.2)) x

/-- Two sources and a control slot. -/
def float2 (f : FmtV) (op : FV → FV → Exact) : VecOp :=
  floatOp f [.fmt f.a, .fmt f.b] (ctlGauge f.c) (fun vs => op (vs.getD 0 (.nan false)) (vs.getD 1 (.nan false)))

/-- One source and a control slot. -/
def float1 (f : FmtV) (op : FV → Exact) : VecOp :=
  floatOp f [.fmt f.a] (ctlGauge f.c) (fun vs => op (vs.getD 0 (.nan false)))

/-- R145: a function that rounds its own result: mode, value to encoding and flags. -/
def transOp (f : FmtV) (op : FloatFmt → Nat → FV → Nat × BitVec 9) : VecOp where
  g := f.g
  etag := f.etag.toNat
  accept := Tg.flt
  uses := [.fmt f.a]
  d := f.d
  gauge := ctlGauge f.c
  eval := fun x => lanewise 1 (fun xs =>
    let v := fin (fmtOf x.t) x.w.g.ftz (xs.getD 0 0)
    let r := flush (fmtOf x.t) x.w.g.ftz (op (fmtOf x.t) (x.rm f) v.1)
    (r.1, r.2 ||| v.2)) x

/-- A value and its flags as an exact result. -/
def exactOf (r : FV × BitVec 9) : Exact := ⟨r.1, false, r.2⟩

/-- R141: the fused multiply-add: 0 times an infinity is invalid whatever the addend. -/
def FV.fma (a b c : FV) : Exact :=
  let p := a.mul b
  let r := p.1.add c
  ⟨r.1, false, p.2 ||| r.2⟩

/-- R142: the smaller or the larger input; a NaN gives way to a number. -/
def FV.pick (larger : Bool) (a b : FV) : FV :=
  match a, b with
  | .nan _, .nan _ => .nan false
  | .nan _, v => v
  | v, .nan _ => v
  | x, y => if x.less y != larger then x else y

/-- R143. -/
def FV.abs : FV → FV
  | .nan s => .nan s
  | .inf _ => .inf false
  | .fin _ m e => .fin false m e

/-- R147: a value rounded to an integral value. -/
def FV.integral (rm : Nat) : FV → FV
  | .fin n m e => if 0 ≤ e then .fin n m e else .fin n (roundInt rm false m e).1.natAbs 0
  | v => v

/-- R148: a value times 2^n. -/
def FV.scale (n : Int) : FV → FV
  | .fin s m e => .fin s m (e + n)
  | v => v

/-- R146: the class bit of an encoding. -/
def classBits (f : FloatFmt) (x : Nat) : Nat :=
  match f.value x with
  | .nan s => if s then 0x100 else 0x200
  | .inf n => if n then 0x001 else 0x080
  | .fin n m _ =>
    if m = 0 then (if n then 0x008 else 0x010)
    else if f.subnormal x then (if n then 0x004 else 0x020)
    else (if n then 0x002 else 0x040)

/-- R146: the result tag of FCLASS. -/
def classTag (t : Nat) : Nat := match t with | 11 => Tg.n32 | 12 => Tg.n64 | _ => Tg.n16

-- The meanings.

def execFadd (f : FmtV) (s : State) : Host.Outcome State Fault Refusal :=
  s.issueVec (.fadd f) 1 (float2 f (fun a b => exactOf (a.add b)))

def execFsub (f : FmtV) (s : State) : Host.Outcome State Fault Refusal :=
  s.issueVec (.fsub f) 1 (float2 f (fun a b => exactOf (a.add b.neg)))

def execFmul (f : FmtV) (s : State) : Host.Outcome State Fault Refusal :=
  s.issueVec (.fmul f) 1 (float2 f (fun a b => exactOf (a.mul b)))

def execFfma (f : FmtV) (s : State) : Host.Outcome State Fault Refusal :=
  s.issueVec (.ffma f) 1 (floatOp f [.fmt f.a, .fmt f.b, .fmt f.c] 0
    (fun vs => (vs.getD 0 (.nan false)).fma (vs.getD 1 (.nan false)) (vs.getD 2 (.nan false))))

def execFmin (f : FmtV) (s : State) : Host.Outcome State Fault Refusal :=
  s.issueVec (.fmin f) 1 (float2 f (fun a b => ⟨FV.pick false a b, false, 0⟩))

def execFmax (f : FmtV) (s : State) : Host.Outcome State Fault Refusal :=
  s.issueVec (.fmax f) 1 (float2 f (fun a b => ⟨FV.pick true a b, false, 0⟩))

def execFabs (f : FmtV) (s : State) : Host.Outcome State Fault Refusal :=
  s.issueVec (.fabs f) 1 (float1 f (fun a => ⟨a.abs, false, 0⟩))

def execFneg (f : FmtV) (s : State) : Host.Outcome State Fault Refusal :=
  s.issueVec (.fneg f) 1 (float1 f (fun a => ⟨a.neg, false, 0⟩))

def execFrcp (f : FmtV) (s : State) : Host.Outcome State Fault Refusal :=
  s.issueVec (.frcp f) 1 (float1 f (fun a => (FV.fin false 1 0).div a))

def execFrsq (f : FmtV) (s : State) : Host.Outcome State Fault Refusal :=
  s.issueVec (.frsq f) 1 (float1 f FV.rsqrt)

def execFsqrt (f : FmtV) (s : State) : Host.Outcome State Fault Refusal :=
  s.issueVec (.fsqrt f) 1 (float1 f FV.sqrt)

def execFdiv (f : FmtV) (s : State) : Host.Outcome State Fault Refusal :=
  s.issueVec (.fdiv f) 1 (float2 f FV.div)

def execFexp2 (f : FmtV) (s : State) : Host.Outcome State Fault Refusal :=
  s.issueVec (.fexp2 f) 1 (transOp f fexp2)

def execFlog2 (f : FmtV) (s : State) : Host.Outcome State Fault Refusal :=
  s.issueVec (.flog2 f) 1 (transOp f flog2)

def execFsinpi (f : FmtV) (s : State) : Host.Outcome State Fault Refusal :=
  s.issueVec (.fsinpi f) 1 (transOp f (ftrig false))

def execFcospi (f : FmtV) (s : State) : Host.Outcome State Fault Refusal :=
  s.issueVec (.fcospi f) 1 (transOp f (ftrig true))

/-- R146: FCLASS reads its element as it stands. -/
def fclassOp (f : FmtV) : VecOp where
  g := f.g
  etag := f.etag.toNat
  accept := Tg.flt
  uses := [.fmt f.a]
  d := f.d
  resTag := classTag
  eval := fun x => lanewise 1 (fun xs => (classBits (fmtOf x.t) (xs.getD 0 0), 0)) x

def execFclass (f : FmtV) (s : State) : Host.Outcome State Fault Refusal :=
  s.issueVec (.fclass f) 1 (fclassOp f)

/-- R147: FRND, which reads the rounding mode of the issuer. -/
def frndOp (f : FmtV) : VecOp :=
  transOp f (fun fm rm v => fm.roundFV rm (v.integral rm))

def execFrnd (f : FmtV) (s : State) : Host.Outcome State Fault Refusal :=
  s.issueVec (.frnd f) 1 (frndOp f)

/-- R148: FSCALE: slot B is an exponent line tagged I32. -/
def fscaleOp (f : FmtV) : VecOp where
  g := f.g
  etag := f.etag.toNat
  accept := Tg.flt
  uses := [.fmt f.a, .line f.b (· == Tg.i32)]
  d := f.d
  gauge := ctlGauge f.c
  eval := fun x => (Mask.lanes x.cm).map (fun l =>
    let rs := (elemsOf x.t (x.val 0 l)).map (fun e =>
      let v := fin (fmtOf x.t) x.w.g.ftz e
      let r := fout (fmtOf x.t) (x.rm f) x.w.g.ftz ⟨v.1.scale (signed 32 (x.val 1 l)), false, 0⟩
      (r.1, r.2 ||| v.2))
    ⟨l, rs.map Prod.fst, rs.foldl (fun a r => a ||| r.2) 0⟩)

def execFscale (f : FmtV) (s : State) : Host.Outcome State Fault Refusal :=
  s.issueVec (.fscale f) 1 (fscaleOp f)

/-- R149: the exact sum of terms; infinities of opposite sign are invalid. -/
def FV.sum (ts : List FV) : Exact :=
  let v := ts.foldl (fun a t => (a.add t).1) (FV.fin true 0 0)
  if ts.contains (.inf true) && ts.contains (.inf false) then ⟨.nan false, false, AF.invalid⟩ else ⟨v, false, 0⟩

/-- R149: FDOT2. `sr.one` as the addend is 1.0 in F32 (log entry 22). -/
def fdot2Op (f : FmtV) : VecOp where
  g := f.g
  etag := f.etag.toNat
  accept := fun t => t == Tg.f16 || t == Tg.bf16
  uses := [.fmt f.a, .fmt f.b, .line f.c (· == Tg.f32)]
  d := f.d
  resTag := fun _ => Tg.f32
  known := fun _ => true
  eval := fun x => (Mask.lanes x.cm).map (fun l =>
    let a := (elemsOf x.t (x.val 0 l)).map (fin (fmtOf x.t) x.w.g.ftz)
    let b := (elemsOf x.t (x.val 1 l)).map (fin (fmtOf x.t) x.w.g.ftz)
    let c := fin F32 x.w.g.ftz (if f.c = 0x3CB then 0x3F800000 else x.val 2 l)
    let ps := (a.zip b).map (fun p => p.1.1.mul p.2.1)
    let r := fout F32 (x.rm f) x.w.g.ftz (FV.sum (c.1 :: ps.map Prod.fst))
    let fl := (a ++ b ++ [c] ++ ps).foldl (fun f v => f ||| v.2) r.2
    ⟨l, [r.1], fl⟩)

def execFdot2 (f : FmtV) (s : State) : Host.Outcome State Fault Refusal :=
  s.issueVec (.fdot2 f) 1 (fdot2Op f)

/-- R150: one level of the tree over lane numbers. -/
def treeLevel {α : Type} (c : α → α → α) : List (Option α) → List (Option α)
  | x :: y :: t =>
    (match x, y with
     | none, v => v
     | v, none => v
     | some a, some b => some (c a b)) :: treeLevel c t
  | l => l

/-- R150: the tree of 32 leaves. -/
def tree {α : Type} (c : α → α → α) (vs : List (Option α)) : Option α :=
  ((treeLevel c (treeLevel c (treeLevel c (treeLevel c (treeLevel c vs))))).head?).getD none

/-- R150: two nodes combine. -/
def combine (fm : FloatFmt) (rm : Nat) (ftz : Bool) (kind : Nat) (a b : FV × BitVec 9) : FV × BitVec 9 :=
  match kind with
  | 0 =>
    let r := fout fm rm ftz (exactOf (a.1.add b.1))
    (fm.value r.1, a.2 ||| b.2 ||| r.2)
  | k => (FV.pick (k == 2) a.1 b.1, a.2 ||| b.2)

/-- R150: FREDUCE. -/
def freduceOp (f : FmtV) : VecOp where
  g := f.g
  etag := f.etag.toNat
  accept := Tg.flt
  uses := [.fmt f.a]
  d := f.d
  eval := fun x => acrossLanes (fun es =>
    let fm := fmtOf x.t
    let leaf : Nat → Option (FV × BitVec 9) := fun l => (Table.find es l).map (fin fm x.w.g.ftz)
    match tree (combine fm (x.rm f) x.w.g.ftz f.c.toNat) (lanes32.map leaf) with
    | none => (0, 0)
    | some r => ((fm.roundFV 1 r.1).1, r.2)) x

def execFreduce (f : FmtV) (s : State) : Host.Outcome State Fault Refusal :=
  s.issueVec (.freduce f) 1 (freduceOp f)

end Sys2Proof.Machine
end

