-- ==== Sys2Proof/Machine/Convert.lean ====
section
/-! DEFINITION. Machine/Convert.lean: conversions, tags, packing and bit planes, class 0x2 (R111 to R120). -/

namespace Sys2Proof.Machine

/-- A register source of some lines: its field, its lines and the tags it accepts (R83, R111). In a slot that takes the instruction's format,
`wide` says whether the expected tag makes it 64 bits wide (R49, R73); a slot of one line whatever its tag has none (log entry 79). -/
structure LinesSrc where
  x     : BitVec 10
  lines : Nat
  ok    : Nat → Bool
  wide  : Option Bool

/-- R83, R111: a source of several lines; a special register carries its tag for all of them, and `sr.zero` and `sr.one` are never checked
(R79). -/
def Who.checkBlock (w : Who) (b : LinesSrc) : Except Nat Unit :=
  match operandOf b.x with
  | .v n => w.checkLines n b.lines b.ok
  | .sr .zero | .sr .one => .ok ()
  | .sr r => if b.ok (SReg.tag r) then .ok () else .error Cause.tagMismatch
  | _ => .ok ()

/-- An instruction over lines: illegal fields, sources, the first destination line and how many, the tag, and each committing lane's slots
and flags; `post` is what else it writes. -/
structure LinesOp where
  g     : Guard
  bad   : Bool := false
  /-- The expected tag is one that the entry never accepts, whatever the lines hold (R112, R120). -/
  wrong : Bool := false
  srcs  : List LinesSrc
  d     : Nat
  lines : Nat
  tag   : Nat
  eval  : Nat → List Slot × BitVec 9
  post  : Mask → State → State := fun _ s => s

/-- R82: writes lanes' slots to lines from `n` on, and tags the lines. -/
def Group.writeLines (g : Group) (n tag : Nat) (vs : List (Nat × List Slot)) (cnt : Nat) : Group :=
  (List.range cnt).foldl (fun g j => g.writeSlots (n + j) tag (vs.map (fun v => (v.1, v.2.getD j 0)))) g

/-- R49, R73: an odd register in a slot that takes the instruction's format and is 64 bits wide. -/
def Who.oddLines (w : Who) (b : LinesSrc) : Bool := b.wide.any (fun e => w.oddWide ⟨none, e⟩ b.x)

/-- Issues an instruction over lines. -/
def linesPlan (op : Who → LinesOp) (w : Who) : Except Nat Plan :=
  let o := op w
  match (do
      failIf (o.bad || o.srcs.any w.oddLines) Cause.illegalField
      failIf o.wrong Cause.tagMismatch
      o.srcs.forM w.checkBlock : Except Nat Unit) with
  | .error c => .error c
  | .ok _ => .ok {
      oob := o.srcs.any (fun b => w.beyondField b.x b.lines) || w.beyond o.d o.lines,
      commit := fun cm s =>
        let out := (Mask.lanes cm).map (fun l => (l, o.eval l))
        let s1 := s.updGroup w.core w.slot (fun g =>
          (g.orFlags (out.foldl (fun f r => f ||| r.2.2) 0)).writeLines o.d o.tag (out.map (fun r => (r.1, r.2.1))) o.lines)
        o.post cm s1 }

/-- The tag that fixes a source's span: the expected tag, else its first line's or its special register's (R112); I32 where nothing
gives one. -/
def Who.spanTag (w : Who) (x : BitVec 10) (etag : Nat) : Nat :=
  if etag = 31 then (w.srcTag 0 x).getD Tg.i32 else etag

/-- Line `j` of a source in a lane (R111); `t` is the format that `sr.zero` and `sr.one` take. -/
def Who.lineSlot (s : State) (w : Who) (x : BitVec 10) (t j l : Nat) : Slot :=
  match operandOf x with
  | .v n => (w.g.line (n + j)).slot l
  | .sr .zero => 0
  | .sr .one => BitVec.ofNat 32 (if Tg.wide t && j % 2 == 1 then Tg.one t / 2 ^ 32 else Tg.one t)
  | .sr r => BitVec.ofNat 32 (if j % 2 = 1 then w.sreg s l r / 2 ^ (if Tg.wide (SReg.tag r) then 32 else 0) else w.sreg s l r)
  | _ => 0

-- CVT.

/-- R113: tags that CVT converts between. -/
def Tg.convertible (t : Nat) : Bool := decide (1 ≤ t) && decide (t ≤ 14)

/-- R112, R113: the elements per lane of a CVT, and the units of source and destination. -/
def cvtElems (src dst : Nat) : Nat := max (Tg.epl src) (Tg.epl dst)
def cvtUnits (t n : Nat) : Nat := n / Tg.epl t

/-- Lines of a unit. -/
def Tg.unitLines (t : Nat) : Nat := if Tg.wide t then 2 else 1

/-- R113: the elements of a source in a lane: from its lines, or from the element a port supplied. -/
def Who.cvtSource (s : State) (w : Who) (x : BitVec 10) (t n : Nat) (pv : Table Nat) (l : Nat) : List Nat :=
  match operandOf x with
  | .port k => elemsOf t (Table.getD pv 0 (k * 32 + l))
  | _ => (List.range (cvtUnits t n)).flatMap (fun u =>
      let lo := (w.lineSlot s x t (u * Tg.unitLines t) l).toNat
      elemsOf t (if Tg.wide t then lo + 2 ^ 32 * (w.lineSlot s x t (2 * u + 1) l).toNat else lo))

/-- A list cut into pieces of `k`. -/
def chunks {α : Type} (k : Nat) (xs : List α) : Nat → List (List α)
  | 0 => []
  | n + 1 => xs.take k :: chunks k (xs.drop k) n

/-- The slots of a unit's value. -/
def slotsOf (t x : Nat) : List Slot := if Tg.wide t then [BitVec.ofNat 32 x, BitVec.ofNat 32 (x / 2 ^ 32)] else [BitVec.ofNat 32 x]

/-- R113: the checks of CVT, which give its source tag. `sr.zero` and `sr.one` are never refused (R79): in a format that CVT does not convert
they stand for the I32 numbers (log entry 20). A port that no active lane gives a tag has that of I32 (log entry 63). -/
def cvtCheck (f : FmtV) (w : Who) : Except Nat Nat := do
  let act := w.act f.g
  let etag := f.etag.toNat
  let dt := f.c.toNat
  let st := if etag = 31 then (w.srcTag act f.a).getD Tg.i32 else if Fld.isZeroOne f.a && !Tg.convertible etag then Tg.i32 else etag
  let n := cvtElems st dt
  match operandOf f.a with
  | .port k => failIf (w.portBad act k false || decide (cvtUnits st n ≠ 1)) Cause.illegalField
  | .v r => failIf (r % 2 == 1 && (Tg.wide st || (decide (r < w.g.lines) && Tg.wide (w.g.tag r)))) Cause.illegalField
  | _ => .ok ()
  match operandOf f.d with
  | .port k => failIf (w.portBad act k true || decide (cvtUnits dt n ≠ 1)) Cause.illegalField
  | .v r => failIf (r % 2 == 1 && Tg.wide dt) Cause.illegalField
  | _ => .ok ()
  let ok : Nat → Bool := fun t => Tg.convertible t && (etag == 31 || t == etag)
  match operandOf f.a with
  | .port k =>
    failIf (w.portMixed act k) Cause.tagMixed
    match w.srcTag act f.a with
    | none => .ok ()
    | some t => failIf (!ok t) Cause.tagMismatch
  | _ => w.checkBlock ⟨f.a, cvtUnits st n * Tg.unitLines st, ok, none⟩
  match operandOf f.d with
  | .port k =>
    failIf (w.portMixed act k) Cause.tagMixed
    match w.srcTag act f.d with
    | none => .ok ()
    | some t => failIf (!(Tg.wide t == Tg.wide dt && (t == dt || dt == 0))) Cause.tagMismatch
  | _ => .ok ()
  return st

/-- R113: CVT. -/
def cvtPlan (s : State) (f : FmtV) (w : Who) : Except Nat Plan :=
  let act := w.act f.g
  match cvtCheck f w with
  | .error c => .error c
  | .ok st =>
    let dt := f.c.toNat
    let n := cvtElems st dt
    let dl := cvtUnits dt n * Tg.unitLines dt
    let fails := s.failsTo w act (s.portFails w act f.a false) f.d
    .ok {
      oob := w.beyondField f.a (cvtUnits st n * Tg.unitLines st) || w.beyondField f.d dl,
      fails := fails,
      leaves := anyPort [f.a, f.d],
      stores := Fld.isPort f.d,
      asks := s.portAsks w act fails f.a false ++ s.portAsks w act fails f.d true,
      commit := fun cm s =>
        let r := s.loadPorts w cm (portsOf [f.a])
        match r.2.2 with
        | p :: ps => r.1.consume w.ctx (p :: ps)
        | [] =>
          let out := (Mask.lanes cm).map (fun l =>
            (l, (w.cvtSource s f.a st n r.2.1 l).map (convert st dt (w.g.rm f.rm.toNat) w.g.ftz)))
          let fl := out.foldl (fun a o => o.2.foldl (fun b e => b ||| e.2) a) 0
          let units := out.map (fun o => (o.1, (chunks (Tg.epl dt) (o.2.map Prod.fst) (cvtUnits dt n)).map (unitOf dt)))
          let s1 := r.1.updGroup w.core w.slot (fun g => g.orFlags fl)
          match operandOf f.d with
          | .v d => s1.updGroup w.core w.slot (fun g => g.writeLines d dt (units.map (fun u => (u.1, u.2.flatMap (slotsOf dt)))) dl)
          | _ => s1.writeDst w f.d dt (Tg.wide dt) (units.map (fun u => (u.1, u.2.headD 0))) }

def execCvt (f : FmtV) (s : State) : Host.Outcome State Fault Refusal :=
  s.issue (.cvt f) f.g 1 (cvtPlan s f)

-- CVTS and SCALESEL.

/-- F32, F16 and BF16. -/
def Tg.block (t : Nat) : Bool := decide (9 ≤ t) && decide (t ≤ 11)

/-- R112: the lines of a block source. -/
def blockLines (t : Nat) : Nat := if t = 9 || t = 10 then 16 else 32

/-- The expected tag makes an operand 64 bits wide (R73). -/
def wideEtag (etag : BitVec 5) : Bool := etag != 31 && Tg.wide etag.toNat

/-- R111 to R115: the block source of CVTS and SCALESEL. -/
def Who.blockSrc (w : Who) (f : FmtV) : LinesSrc :=
  ⟨f.a, blockLines (w.spanTag f.a f.etag.toNat), fun t => Tg.block t && (f.etag == 31 || t == f.etag.toNat),
    some (wideEtag f.etag)⟩

/-- The 32 elements of a lane's block, after R107, with their flags; `sr.zero` and `sr.one` are the numbers. -/
def Who.block (s : State) (w : Who) (f : FmtV) (l : Nat) : List (FV × BitVec 9) :=
  if Fld.isZeroOne f.a then List.replicate 32 (FV.ofInt (if f.a == 0x3CB then 1 else 0), 0)
  else
    let t := w.spanTag f.a f.etag.toNat
    (List.range (blockLines t)).flatMap (fun j =>
      (elemsOf t (w.lineSlot s f.a t j l).toNat).map (fin (fmtOf t) w.g.ftz))

/-- R101: the exponent of a J8 format's largest value. -/
def emaxOf (t : Nat) : Int := if t = 13 then 8 else 16

/-- R114: the exponent of a finite non-zero value. -/
def FV.exponent : FV → Option Int
  | .fin _ m e => if m = 0 then none else some (e + Nat.log2 m)
  | _ => none

/-- R114: the shift of a block. -/
def shiftOf (t : Nat) (es : List FV) (ufc uft : Nat) : Int :=
  match es.filterMap FV.exponent with
  | [] => 0
  | e :: r => min 127 (max (-127) (emaxOf t - r.foldl max e + min 2 (ufc / 2 ^ uft)))

/-- R114: SCALESEL. -/
def scaleselOp (s : State) (f : FmtV) (w : Who) : LinesOp where
  g := f.g
  srcs := [w.blockSrc f]
  d := f.d.toNat
  lines := 1
  tag := Tg.i32
  eval := fun l =>
    ([BitVec.ofInt 32 (shiftOf f.c.toNat ((w.block s f l).map Prod.fst) (Table.getD w.g.ufc 0 l) (bits w.g.uft.toNat 0 4))], 0)

def execScalesel (f : FmtV) (s : State) : Host.Outcome State Fault Refusal :=
  s.issue (.scalesel f) f.g 1 (linesPlan (scaleselOp s f))

/-- R115: the codes of a lane's converted block, the elements lost to zero, and the flags. As the shift, `sr.one` is the number 1 (log
entry 22). -/
def cvtsLane (s : State) (f : FmtV) (w : Who) (l : Nat) : List Nat × Nat × BitVec 9 :=
  let t := f.c.toNat % 32
  let sh : Int := min 127 (max (-127) (signed 32 (w.lineSlot s f.b Tg.i32 0 l).toNat))
  let rs := (w.block s f l).map (fun v =>
    let r := j8Round t (w.g.rm f.rm.toNat) (v.1.scale sh)
    (r.1, (match v.1 with | .fin _ m _ => m != 0 && r.1 == 0 | _ => false), r.2 ||| v.2))
  (rs.map Prod.fst, (rs.filter (fun r => r.2.1)).length, rs.foldl (fun a r => a ||| r.2.2) 0)

/-- R115: CVTS. -/
def cvtsOp (s : State) (f : FmtV) (w : Who) : LinesOp where
  g := f.g
  srcs := [w.blockSrc f, ⟨f.b, 1, fun t => t == Tg.i32 || t == Tg.n32, none⟩]
  d := f.d.toNat
  lines := 8
  tag := f.c.toNat % 32
  eval := fun l =>
    let r := cvtsLane s f w l
    ((chunks 4 r.1 8).map (fun c => BitVec.ofNat 32 (unitOf (f.c.toNat % 32) c)), r.2.2)
  post := fun cm s' => s'.updGroup w.core w.slot (fun g => { g with
    ufc := (Mask.lanes cm).foldl (fun t l =>
      let u := (cvtsLane s f w l).2.1
      Table.setD t 0 l (if f.c.getLsbD 5 then min 0xFFFF (Table.getD w.g.ufc 0 l + u) else u)) g.ufc })

def execCvts (f : FmtV) (s : State) : Host.Outcome State Fault Refusal :=
  s.issue (.cvts f) f.g 1 (linesPlan (cvtsOp s f))

-- Tags.

/-- R116: TAG. -/
def tagPlan (f : FmtV) (w : Who) : Except Nat Plan :=
  .ok {
    oob := w.beyond f.d.toNat (f.c.toNat / 32 + 1),
    commit := fun cm s => if cm = 0 then s
      else s.updGroup w.core w.slot (fun g => g.setTags f.d.toNat (f.c.toNat / 32 + 1) (f.c.toNat % 32)) }

def execTag (f : FmtV) (s : State) : Host.Outcome State Fault Refusal :=
  s.issue (.tag f) f.g 1 (tagPlan f)

/-- R117: TAGR. -/
def tagrOp (f : FmtV) (w : Who) : LinesOp where
  g := f.g
  srcs := [⟨f.a, 1, fun _ => true, none⟩]
  d := f.d.toNat
  lines := 1
  tag := Tg.n32
  eval := fun l => ([BitVec.ofNat 32 (if l < f.c.toNat then w.g.tag (f.a.toNat + l) else 31)], 0)

/-- R117: every line that TAGR reads lies inside the requested window, or no lane commits. -/
def tagrPlan (f : FmtV) (w : Who) : Except Nat Plan :=
  (linesPlan (tagrOp f) w).map (fun p => { p with oob := p.oob || w.beyond f.a.toNat f.c.toNat })

def execTagr (f : FmtV) (s : State) : Host.Outcome State Fault Refusal :=
  s.issue (.tagr f) f.g 1 (tagrPlan f)

-- PACK and UNPACK.

/-- R118: the width that C[1:0] names. -/
def packWidth (c : BitVec 10) : Nat := if c.toNat % 4 = 0 then 8 else 16

/-- R118: PACK's tag for a source tag. -/
def packTag (w t : Nat) : Nat := match t with | 3 => if w = 8 then 1 else 2 | 7 => if w = 8 then 5 else 6 | _ => 0

/-- R118: PACK. -/
def packOp (s : State) (f : FmtV) (w : Who) : LinesOp where
  g := f.g
  srcs := [⟨f.a, 32 / packWidth f.c, fun t => Tg.word t && (f.etag == 31 || t == f.etag.toNat), some (wideEtag f.etag)⟩]
  d := f.d.toNat
  lines := 1
  tag := packTag (packWidth f.c) (w.spanTag f.a f.etag.toNat)
  eval := fun l => ([BitVec.ofNat 32 ((List.range (32 / packWidth f.c)).foldl (fun y i =>
    y + (w.lineSlot s f.a Tg.i32 i l).toNat % 2 ^ packWidth f.c * 2 ^ (packWidth f.c * i)) 0)], 0)

def execPack (f : FmtV) (s : State) : Host.Outcome State Fault Refusal :=
  s.issue (.pack f) f.g 1 (linesPlan (packOp s f))

/-- R118: UNPACK accepts a typed source whose width and signedness C states, or RAW. -/
def unpackOk (f : FmtV) (t : Nat) : Bool :=
  let w8 := packWidth f.c == 8
  let sg := f.c.getLsbD 2
  (t == 0 || t == (if w8 then (if sg then 1 else 5) else (if sg then 2 else 6))) && (f.etag == 31 || t == f.etag.toNat)

/-- R118: UNPACK. -/
def unpackOp (s : State) (f : FmtV) (w : Who) : LinesOp where
  g := f.g
  srcs := [⟨f.a, 1, unpackOk f, some (wideEtag f.etag)⟩]
  d := f.d.toNat
  lines := 32 / packWidth f.c
  tag := let t := w.spanTag f.a f.etag.toNat
    if t = 0 then 0 else if Tg.signed t then Tg.i32 else Tg.n32
  eval := fun l =>
    let x := (w.lineSlot s f.a (w.spanTag f.a f.etag.toNat) 0 l).toNat
    ((List.range (32 / packWidth f.c)).map (fun i =>
      let e := bits x (packWidth f.c * i) (packWidth f.c)
      if f.c.getLsbD 2 then BitVec.ofInt 32 (signed (packWidth f.c) e) else BitVec.ofNat 32 e), 0)

def execUnpack (f : FmtV) (s : State) : Host.Outcome State Fault Refusal :=
  s.issue (.unpack f) f.g 1 (linesPlan (unpackOp s f))

-- Bit planes.

/-- Byte `e` of lines from `n` on. -/
def Group.elemByte (g : Group) (n e : Nat) : Nat := (g.byte (128 * n + e)).toNat

/-- R119: BPSPLIT. -/
def bpsplitOp (f : FmtV) (w : Who) : LinesOp where
  g := f.g
  srcs := [⟨f.a, 8, fun t => t == Tg.i8 && (f.etag == 31 || f.etag.toNat == t), some (wideEtag f.etag)⟩]
  d := f.d.toNat
  lines := f.c.toNat
  tag := 13 + f.c.toNat
  eval := fun l => ((List.range f.c.toNat).map (fun t =>
    BitVec.ofNat 32 ((List.range 32).foldl (fun y b => y + bits (w.g.elemByte f.a.toNat (32 * l + b)) (7 - t) 1 * 2 ^ b) 0)), 0)

def execBpsplit (f : FmtV) (s : State) : Host.Outcome State Fault Refusal :=
  s.issue (.bpsplit f) f.g 1 (linesPlan (bpsplitOp f))

/-- R104: the value of an element of which `p` planes are read: `q` holds them in its top bits, the rest zero. -/
def planeValue (p q : Nat) : Int := signed 8 q + (if p < 8 then (2 ^ (7 - p) : Nat) else 0)

/-- R103: bit `e` of a line. -/
def Line.bit (x : Line) (e : Nat) : Nat := (x.bits.getLsbD e).toNat

/-- R120: the planes of a BPp source: its tag less 13; 8 where no line shows one. -/
def Who.planes (w : Who) (f : FmtV) : Nat :=
  let t := w.spanTag f.a f.etag.toNat
  if 15 ≤ t && t ≤ 21 then t - 13 else 1

/-- R120: the planes that BPJOIN reads. -/
def Who.planesRead (w : Who) (f : FmtV) : Nat := if f.c = 0 then w.planes f else f.c.toNat

/-- R120: BPJOIN. -/
def bpjoinOp (f : FmtV) (w : Who) : LinesOp where
  g := f.g
  srcs := [⟨f.a, w.planes f, fun t => decide (15 ≤ t) && decide (t ≤ 21) && (f.etag == 31 || t == f.etag.toNat)
    && decide (w.planesRead f ≤ t - 13), some (wideEtag f.etag)⟩]
  wrong := f.etag != 31 && !(decide (15 ≤ f.etag.toNat) && decide (f.etag.toNat ≤ 21) && decide (f.c.toNat ≤ f.etag.toNat - 13))
  d := f.d.toNat
  lines := 8
  tag := Tg.i8
  eval := fun l => ((List.range 8).map (fun t => BitVec.ofNat 32 (unitOf Tg.i8 ((List.range 4).map (fun b =>
    let e := 128 * t + 4 * l + b
    let q := (List.range (w.planesRead f)).foldl (fun y k => y + (w.g.line (f.a.toNat + k)).bit e * 2 ^ (7 - k)) 0
    wrap 8 (planeValue (w.planesRead f) q))))), 0)

def execBpjoin (f : FmtV) (s : State) : Host.Outcome State Fault Refusal :=
  s.issue (.bpjoin f) f.g 1 (linesPlan (bpjoinOp f))

end Sys2Proof.Machine
end

