-- ==== Sys2Proof/Machine/Immediate.lean ====
section
/-! DEFINITION. Machine/Immediate.lean: the immediate instructions, class 0x3 (R151 to R154). -/

namespace Sys2Proof.Machine

/-- R151: k, IMM16 extended to 64 bits by Z. -/
def immValue (f : FmtI) : Nat := if f.z then f.imm.toNat else wrap 64 (signed 16 f.imm.toNat)

/-- R151, R153: one source and an immediate. -/
def immOp (f : FmtI) (accept : Nat → Bool) (op : Nat → Nat → Nat) : VecOp where
  g := f.g
  etag := f.etag.toNat
  accept := accept
  uses := [.fmt f.a]
  d := f.d
  eval := fun x => lanewise 1 (fun xs => (op (Tg.width x.t) (xs.getD 0 0), 0)) x

/-- R152: MOVI and MOVI.W: the same value in every element; `t` is the result tag and `v` gives its element. -/
def moviOp (f : FmtI) (t : Nat) (v : Nat → Nat) : VecOp where
  g := f.g
  etag := t
  accept := Tg.any
  uses := []
  d := f.d
  eval := fun x => (Mask.lanes x.cm).map (fun l => ⟨l, List.replicate (Tg.epl x.t) (v x.t % 2 ^ Tg.width x.t), 0⟩)

/-- R152: MOVI's element for a tag. -/
def moviElem (f : FmtI) (t : Nat) : Nat :=
  match t with
  | 9 | 10 => f.imm.toNat
  | 11 => f.imm.toNat * 2 ^ 16
  | 12 => f.imm.toNat * 2 ^ 48
  | _ => immValue f

def execMovi (f : FmtI) (s : State) : Host.Outcome State Fault Refusal :=
  s.issueVec (.movi f) 1 (moviOp f (if f.etag = 31 then Tg.i32 else f.etag.toNat) (moviElem f))

/-- R152: MOVI.W with its extension iword. -/
def moviWOp (f : FmtI) (ext : Iword) : VecOp := moviOp f (if f.etag = 31 then Tg.i64 else f.etag.toNat) (fun _ => ext.toNat)

def execMoviW (f : FmtI) (ext : Iword) (s : State) : Host.Outcome State Fault Refusal :=
  s.issueVec (.moviW f ext) 2 (moviWOp f ext)

def execIaddi (f : FmtI) (s : State) : Host.Outcome State Fault Refusal :=
  s.issueVec (.iaddi f) 1 (immOp f Tg.int (fun w a => (a + immValue f) % 2 ^ w))

def execAndi (f : FmtI) (s : State) : Host.Outcome State Fault Refusal :=
  s.issueVec (.andi f) 1 (immOp f Tg.bits (fun w a => a &&& (immValue f % 2 ^ w)))

def execOri (f : FmtI) (s : State) : Host.Outcome State Fault Refusal :=
  s.issueVec (.ori f) 1 (immOp f Tg.bits (fun w a => a ||| (immValue f % 2 ^ w)))

def execXori (f : FmtI) (s : State) : Host.Outcome State Fault Refusal :=
  s.issueVec (.xori f) 1 (immOp f Tg.bits (fun w a => a ^^^ (immValue f % 2 ^ w)))

def execShli (f : FmtI) (s : State) : Host.Outcome State Fault Refusal :=
  s.issueVec (.shli f) 1 (immOp f Tg.shift (fun w a => shlBits w a (f.imm.toNat % 64)))

def execShri (f : FmtI) (s : State) : Host.Outcome State Fault Refusal :=
  s.issueVec (.shri f) 1 (immOp f Tg.shift (fun w a => shrBits w a (f.imm.toNat % 64)))

def execSari (f : FmtI) (s : State) : Host.Outcome State Fault Refusal :=
  s.issueVec (.sari f) 1 (immOp f Tg.shift (fun w a => sarBits w a (f.imm.toNat % 64)))

def execImuli (f : FmtI) (s : State) : Host.Outcome State Fault Refusal :=
  s.issueVec (.imuli f) 1 (immOp f Tg.int (fun w a => (a * immValue f) % 2 ^ w))

/-- R154: LEA reads a pair and writes an address. -/
def leaOp (f : FmtI) : VecOp where
  g := f.g
  etag := Tg.n64
  accept := Tg.any
  uses := [.pair f.a (fun t => Tg.dword t && (f.etag == 31 || t == f.etag.toNat))]
  d := f.d
  resTag := fun _ => Tg.n64
  known := fun _ => true
  eval := fun x => (Mask.lanes x.cm).map (fun l => ⟨l, [(x.val 0 l + immValue f) % 2 ^ 64], 0⟩)

def execLea (f : FmtI) (s : State) : Host.Outcome State Fault Refusal :=
  s.issueVec (.lea f) 1 (leaOp f)

end Sys2Proof.Machine
end

