-- ==== Sys2Proof/Machine/RegSpace.lean ====
section
/-! DEFINITION. Machine/RegSpace.lean: copies, computed register numbers and stream ports, class 0xB (R93 to R97). -/

namespace Sys2Proof.Machine

/-- R93: MOV. -/
def movOp (f : FmtV) : VecOp where
  g := f.g
  etag := f.etag.toNat
  accept := Tg.any
  uses := [.fmt f.a]
  d := f.d
  eval := fun x => slotOut x (x.val 0)

def execMov (f : FmtV) (s : State) : Host.Outcome State Fault Refusal :=
  s.issueVec (.mov f) 1 (movOp f)

/-- The index that a lane of an RGET or RPUT names (R94); a port's element is read as the probe finds it, and `sr.one` is the number 1 (log
entry 22). -/
def Who.index (s : State) (w : Who) (x : BitVec 10) (l : Nat) : Int :=
  match operandOf x with
  | .port k => signed 32 (match w.g.binding k l with
    | some b => leNat (s.loadVa w.core w.slot w.ctx b.addr 4).1
    | none => 0)
  | _ => signed 32 (w.word s x l)

/-- R94: an index past the requested lines, or odd where a pair is meant. -/
def Who.indexBad (w : Who) (n : Int) (wide : Bool) : Bool :=
  decide (n < 0) || decide ((w.g.lines : Int) < n + (if wide then 2 else 1)) || (wide && decide (n % 2 ≠ 0))

/-- R94, R95: the lanes whose index fails. -/
def Who.indexFails (s : State) (w : Who) (act : Mask) (x : BitVec 10) (wide : Bool) : List (Nat × LaneFail) :=
  ((Mask.lanes act).filter (fun l => w.indexBad (w.index s x l) wide)).map (fun l => (l, { cause := Cause.regBound }))

/-- R94: the common tag of the lines that some lanes read, RAW if they differ. -/
def Who.commonTag (w : Who) (ns : List Nat) (wide : Bool) : Nat :=
  match ns.flatMap (fun n => if wide then [w.g.tag n, w.g.tag (n + 1)] else [w.g.tag n]) with
  | [] => 0
  | t :: r => if r.all (· == t) then t else 0

/-- R94: RGET. -/
def rgetPlan (s : State) (f : FmtV) (w : Who) : Except Nat Plan :=
  let act := w.act f.g
  let wide := f.c == 1
  let etag := f.etag.toNat
  let bound := w.indexFails s act f.a wide
  let good := (Mask.lanes act).filter (fun l => !bound.any (fun e => e.1 == l))
  let tagOf : List Nat → Nat := fun ls =>
    if etag ≠ 31 then etag else w.commonTag (ls.map (fun l => (w.index s f.a l).toNat)) wide
  match (do
      match operandOf f.a with
      | .port k => failIf (w.portBad act k false) Cause.illegalField
      | _ => .ok ()
      match operandOf f.d with
      | .port k => failIf (w.portBad act k true) Cause.illegalField
      | .v n => failIf (n % 2 == 1 && etag != 31 && Tg.wide etag) Cause.illegalField
      | _ => .ok ()
      w.checkSrc act f.a 1 Tg.word
      failIf (etag ≠ 31 && Tg.wide etag != wide) Cause.tagMismatch
      match operandOf f.d with
      | .port k =>
        failIf (w.portMixed act k) Cause.tagMixed
        match w.srcTag act f.d with
        | none => .ok ()
        | some t =>
          let size : Bool := Tg.wide t
          failIf (size != wide || !(t == tagOf good || tagOf good == 0)) Cause.tagMismatch
      | _ => .ok () : Except Nat Unit) with
  | .error c => .error c
  | .ok _ =>
    let fails := s.failsTo w act (s.portFails w act f.a false ++ bound) f.d
    .ok {
      oob := w.beyondField f.a 1 || w.beyondField f.d (if wide then 2 else 1),
      fails := fails,
      leaves := anyPort [f.a, f.d],
      stores := Fld.isPort f.d,
      asks := s.portAsks w act fails f.a false ++ s.portAsks w act fails f.d true,
      commit := fun cm s' =>
        let ls := Mask.lanes cm
        let r := s'.loadPorts w cm (portsOf [f.a])
        match r.2.2 with
        | p :: ps => r.1.consume w.ctx (p :: ps)
        | [] =>
          r.1.writeDst w f.d (tagOf ls) wide (ls.map (fun l =>
            let n := (w.index s f.a l).toNat
            (l, ((w.g.line n).slot l).toNat + (if wide then 2 ^ 32 * ((w.g.line (n + 1)).slot l).toNat else 0)))) }

def execRget (f : FmtV) (s : State) : Host.Outcome State Fault Refusal :=
  s.issue (.rget f) f.g 1 (rgetPlan s f)

/-- R95: the tag that RPUT's lines take. -/
def rputTag (f : FmtV) (w : Who) : Nat :=
  if Fld.isZeroOne f.a then (if f.etag ≠ 31 then f.etag.toNat else if f.c == 1 then Tg.i64 else Tg.i32)
  else (w.srcTag (w.act f.g) f.a).getD 0

/-- R95: RPUT. -/
def rputPlan (s : State) (f : FmtV) (w : Who) : Except Nat Plan :=
  let act := w.act f.g
  let wide := f.c == 1
  let etag := f.etag.toNat
  let okA : Nat → Bool := fun t => (Tg.wide t == wide || t == 0) && (etag == 31 || t == etag)
  match (do
      match operandOf f.a with
      | .port k => failIf (w.portBad act k false) Cause.illegalField
      | _ => .ok ()
      match operandOf f.b with
      | .port k => failIf (w.portBad act k false) Cause.illegalField
      | _ => .ok ()
      failIf (w.oddWide ⟨none, etag != 31 && Tg.wide etag⟩ f.a) Cause.illegalField
      w.checkSrc act f.a (if wide then 2 else 1) okA
      failIf (etag ≠ 31 && Tg.wide etag != wide && (Fld.isZeroOne f.a || etag ≠ 0)) Cause.tagMismatch
      w.checkSrc act f.b 1 Tg.word : Except Nat Unit) with
  | .error c => .error c
  | .ok _ =>
    let fails := firstFails (s.portFails w act f.a false ++ s.portFails w act f.b false ++ w.indexFails s act f.b wide)
    .ok {
      oob := w.beyondField f.a (if wide then 2 else 1) || w.beyondField f.b 1,
      fails := fails,
      leaves := anyPort [f.a, f.b],
      asks := s.portAsks w act fails f.a false ++ s.portAsks w act fails f.b false,
      commit := fun cm s' =>
        let r := s'.loadPorts w cm (portsOf [f.a, f.b])
        match r.2.2 with
        | p :: ps => r.1.consume w.ctx (p :: ps)
        | [] =>
          let t := rputTag f w
          let vs := (Mask.lanes cm).map (fun l => (l, (w.index s f.b l).toNat, w.srcVal s f.a t wide r.2.1 l))
          r.1.updGroup w.core w.slot (fun g => vs.foldl (fun g v =>
            let g1 := g.writeSlots v.2.1 t [(v.1, BitVec.ofNat 32 v.2.2)]
            if wide then g1.writeSlots (v.2.1 + 1) t [(v.1, BitVec.ofNat 32 (v.2.2 / 2 ^ 32))] else g1) g) }

def execRput (f : FmtV) (s : State) : Host.Outcome State Fault Refusal :=
  s.issue (.rput f) f.g 1 (rputPlan s f)

/-- R87: word `i` of the descriptor in a line. -/
def descWord (x : Line) (i : Nat) : Nat := (x.slot i).toNat

/-- R87: a valid stream descriptor. -/
def descValid (x : Line) : Bool :=
  let w0 := descWord x 0
  bits w0 9 23 == 0 && bits w0 5 3 == 0 && decide (bits w0 0 5 ≤ 14) && descWord x 7 == 0
    && [1, 2, 3].all (fun i => decide (1 ≤ descWord x i) && decide (descWord x i ≤ 65535))

/-- R96: the binding that a descriptor makes for a base. -/
def bindingOf (x : Line) (base : Nat) : Binding :=
  ⟨BitVec.ofNat 64 base, bits (descWord x 0) 8 1 == 1, bits (descWord x 0) 0 5, descWord x 1, descWord x 2, descWord x 3,
    x.slot 4, x.slot 5, x.slot 6, 0, 0, 0, false⟩

/-- R96: SBIND. -/
def sbindPlan (s : State) (f : FmtV) (w : Who) : Except Nat Plan :=
  let k := f.d.toNat - 0x3E0
  let unbind := Fld.isZero f.a
  let shown := decide (f.b.toNat < w.g.lines)
  match (do
      failIf (!unbind && shown && !descValid (w.g.line f.b.toNat)) Cause.illegalField
      w.checkSrc (w.act f.g) f.a 2 Tg.dword
      w.checkSrc (w.act f.g) f.b 1 (fun t => Tg.word t && (f.etag == 31 || t == f.etag.toNat)) : Except Nat Unit) with
  | .error c => .error c
  | .ok _ => .ok {
      oob := w.beyondField f.a 2 || w.beyondField f.b 1,
      commit := fun cm s' => s'.updGroup w.core w.slot (fun g => { g with
        streams := (Mask.lanes cm).foldl (fun t l =>
          if unbind then Table.del t (k * 32 + l)
          else Table.put t (k * 32 + l) (bindingOf (w.g.line f.b.toNat) (w.dword s f.a l))) g.streams }) }

def execSbind (f : FmtV) (s : State) : Host.Outcome State Fault Refusal :=
  s.issue (.sbind f) f.g 1 (sbindPlan s f)

/-- R97: the position of a binding. -/
def Binding.position (b : Binding) : Nat := if b.ended then b.n0 * b.n1 * b.n2 else b.i0 + b.n0 * (b.i1 + b.n1 * b.i2)

/-- R97: what SSTAT reads of a binding. -/
def sstatValue (sel : Nat) (b : Option Binding) : Nat :=
  match b with
  | none => 0
  | some b =>
    match sel with
    | 0 => b.n0 * b.n1 * b.n2 - b.position
    | 1 => b.position
    | _ => if b.ended then 0 else b.addr

/-- R97: SSTAT. -/
def sstatPlan (f : FmtV) (w : Who) : Except Nat Plan :=
  .ok {
    oob := w.beyondField f.d 2,
    commit := fun cm s => s.writeDst w f.d Tg.n64 true ((Mask.lanes cm).map (fun l =>
      (l, sstatValue f.c.toNat (w.g.binding (f.a.toNat - 0x3E0) l)))) }

def execSstat (f : FmtV) (s : State) : Host.Outcome State Fault Refusal :=
  s.issue (.sstat f) f.g 1 (sstatPlan f)

end Sys2Proof.Machine
end

