-- ==== Sys2Proof/Machine/Mem.lean ====
section
/-! DEFINITION. Machine/Mem.lean: loads, stores, atomics and range instructions, classes 0x4 and 0x5 (R166 to R192, R213 to R215). -/

namespace Sys2Proof

/-- The lines that a data operand spans by SIZE (R184, R187). -/
def Machine.sizeLines (size : Nat) : Nat := match size with | 3 => 2 | 4 => 4 | _ => 1

/-- The bytes of an access (R57). -/
def FmtM.bytes (f : FmtM) : Nat := 2 ^ f.size.toNat

/-- OFF20 and OFF16 (R57, R183). -/
def FmtM.off20 (f : FmtM) : Int := Machine.signed 20 f.off.toNat
def FmtM.off16 (f : FmtM) : Int := Machine.signed 16 f.off.toNat

/-- R50 for an instruction of format M with a base pair. -/
def FmtM.beyond (f : FmtM) (w : Machine.Who) (lines : Nat) : Bool := w.beyondField f.base 2 || w.beyondField f.data lines

/-- R50 for LDT and STT. -/
def FmtM.handleBeyond (f : FmtM) (w : Machine.Who) : Bool :=
  w.beyondField f.base 1 || w.beyondField (f.off.extractLsb' 10 10) 1 || w.beyondField (f.off.extractLsb' 0 10) 1
    || w.beyondField f.data (Machine.sizeLines f.size.toNat)

/-- OP of ATOM and ATOMF (R183). -/
def FmtM.op (f : FmtM) : Nat := Machine.bits f.off.toNat 16 4

end Sys2Proof

namespace Sys2Proof.Machine

/-- R184: the tag that `place` gives. -/
def placeTag (size : Nat) (sign : Bool) : Nat :=
  match size with
  | 0 | 1 => if sign then Tg.i32 else Tg.n32
  | 2 => if sign then Tg.i32 else Tg.raw
  | 3 => if sign then Tg.i64 else Tg.raw
  | _ => Tg.raw

/-- R184: the slots that `place` writes for a lane's value. -/
def placeSlots (size : Nat) (sign : Bool) (v : Nat) : List Slot :=
  match size with
  | 0 | 1 => [if sign then BitVec.ofInt 32 (signed (8 * 2 ^ size) v) else BitVec.ofNat 32 v]
  | 2 => [BitVec.ofNat 32 v]
  | 3 => [BitVec.ofNat 32 v, BitVec.ofNat 32 (v / 2 ^ 32)]
  | _ => (List.range 4).map (fun k => BitVec.ofNat 32 (v / 2 ^ (32 * k)))

/-- R183: `addr(l)` with an offset. -/
def Who.memAddr (s : State) (w : Who) (f : FmtM) (off : Int) (l : Nat) : Nat := wrap 64 ((w.dword s f.base l : Int) + off)

/-- R89: the field checks of a port in the data slot of format M: bound, and of the access's size. -/
def Who.dataPortBad (w : Who) (act : Mask) (x : BitVec 10) (write : Bool) (n : Nat) : Bool :=
  match operandOf x with
  | .port k => w.portBad act k write || (Mask.lanes act).any (fun l =>
      match w.g.binding k l with | some b => b.size != n | none => false)
  | _ => false

/-- R89, R90: the tag checks of a port that receives values of tag `t`. -/
def Who.dataPortTag (w : Who) (act : Mask) (x : BitVec 10) (t : Nat) : Except Nat Unit :=
  match operandOf x with
  | .port k =>
    if w.portMixed act k then .error Cause.tagMixed
    else
      match w.srcTag act x with
      | none => .ok ()
      | some p => if t == 0 || p == t then .ok () else .error Cause.tagMismatch
  | _ => .ok ()

-- Strong accesses.

/-- R167: a strong access of a group at a key is noted at the home; where mixed sizes are checked and met, a record is written. The later
access's group says whether they are checked (log entry 68). -/
def State.strongAt (s : State) (w : Who) (va key n : Nat) : State :=
  let s1 := if w.g.mixchk && s.mixed key n then
      s.report { s.blank w.ctx Cause.mixedSize with
        core := w.core, slot := w.slot, frag := s.fragId w.core w.fi, mask := w.f.mask, fpc := w.f.iaddr, addr := va }
    else s
  s1.noteStrong key n

/-- R167: the recent strong accesses of other sizes that overlap a byte of one. -/
def State.overlapping (s : State) (key n b : Nat) : List Strong :=
  s.strongs.filter (fun a => (a.before.length != n || a.key != key) && decide (a.key ≤ b) && decide (b < a.key + a.before.length)
    && decide (s.time ≤ a.time + 2048))

/-- R167: bytes that strong accesses of different sizes overlap hold one of the values written to them or held before: a free choice
(log entry 13). What an access has written stands in memory or is what a later one met. -/
def State.blur (s : State) (key : Nat) (bs : List Byte) : List Byte :=
  if s.mixed key bs.length then
    (List.range bs.length).map (fun i =>
      match s.overlapping key bs.length (key + i) with
      | [] => bs.getD i 0
      | as =>
        let cs := bs.getD i 0 :: as.map (fun a => a.before.getD (key + i - a.key) 0)
          ++ (s.flight.filter (fun f => f.key == key + i)).flatMap (fun f => [f.old, f.new])
        cs.getD ((Config.free (s.free + i)).toNat % cs.length) 0)
  else bs

/-- The free values that `blur` used. -/
def State.blurred (s : State) (key n : Nat) : State := if s.mixed key n then { s with free := s.free + n } else s

-- Loads.

/-- What a lane's access brought back at once, as a part of the load. -/
def partOf (l va : Nat) (v : List Byte × Nat × List (Nat × Nat)) : LanePart := ⟨l, va, BitVec.ofNat 128 (leNat v.1), [], v.2.2, v.2.1⟩

/-- R173: a load goes out and stays outstanding until it returns; `accs` are the accesses, and `spans` the spans, that its return fetches. -/
def State.sendLoad (s : State) (w : Who) (f : FmtM) (acq : Option Nat) (accs : List (Nat × Nat)) (spans : Table (List (Nat × Nat)))
    (parts : List LanePart) : State :=
  if parts.isEmpty then s
  else s.updGroup w.core w.slot (fun g => { g with
    loads := g.loads ++ [⟨f.data, f.size.toNat, f.mod.getLsbD 3, acq, w.ctx, accs, spans, parts⟩] })

/-- R173, R360: a lane's access at the tag check: the bytes that the L1 holds are read, the others are to be read at the home, and so are those
of frames that the accesses ask the home about. -/
def State.tagCheck (s : State) (w : Who) (asked : List Nat) (l va n : Nat) : LanePart :=
  let bytes := (pageParts va n).flatMap (fun p => (List.range p.2).map (fun i => (p.1 - va + i, s.keyAt w.core w.ctx p.1 false + i)))
  let here : Nat × Nat → Bool := fun m => (s.boltOf w.core m.2).isSome && !asked.contains (m.2 / 256)
  (bytes.filter here).foldl (LanePart.take s w.core w.slot) ⟨l, va, 0, bytes.filter (fun m => !here m), [], 0⟩

/-- R171, R173, R184: the loads of some lanes' accesses go out. -/
def State.startLoad (s : State) (w : Who) (f : FmtM) (lanes : Nat → List Nat) (accs : List (Nat × Nat × Nat)) : State :=
  let s1 := accs.foldl (fun s a => s.touchAll w.core w.ctx a.2.1 a.2.2 false) s
  let parts := accs.flatMap (fun a => s1.partsAt w.core w.ctx a.2.1 a.2.2)
  let s2 := ((s1.readNow w.core w.slot (fun k => inParts parts k && (s1.boltOf w.core k).isSome)).waitUncached w.core w.ctx parts)
  let asked := (s2.maskAsks w.core w.ctx parts).map (fun a => a.2.frame)
  let sent := accs.flatMap (fun a => (lanes a.1).map (fun l => s2.tagCheck w asked l a.2.1 a.2.2))
  s2.sendLoad w f none parts (spansBy parts (f.mod.toNat % 8) (s2.guess w.core)) sent

/-- The checks of a load (R57, R83, R89). -/
def loadCheck (f : FmtM) (w : Who) : Except Nat Unit := do
  let act := w.act f.g
  failIf (w.dataPortBad act f.data true f.bytes) Cause.illegalField
  w.checkSrc act f.base 2 Tg.dword
  w.dataPortTag act f.data (placeTag f.size.toNat (f.mod.getLsbD 3))

/-- R184: LD. -/
def ldPlan (s : State) (f : FmtM) (w : Who) : Except Nat Plan :=
  let act := w.act f.g
  let acc : Nat → Nat × Nat × Nat := fun l => (l, w.memAddr s f f.off20 l, f.bytes)
  match loadCheck f w with
  | .error c => .error c
  | .ok _ =>
    let fails := s.failsTo w act (s.probeLoads w false ((Mask.lanes act).map acc)) f.data
    .ok {
      oob := f.beyond w (sizeLines f.size.toNat),
      fails := fails,
      leaves := true,
      addr := w.memAddr s f f.off20 ((Mask.leader act).getD 0),
      stores := Fld.isPort f.data,
      asks := s.portAsks w act fails f.data true,
      commit := fun cm s' =>
        s'.startLoad w f (fun l => [l]) ((Mask.lanes cm).map acc) }

def execLd (f : FmtM) (s : State) : Host.Outcome State Fault Refusal :=
  s.issue (.ld f) f.g 1 (ldPlan s f)

/-- R184: LDU: the leader's access alone is probed and made, and its value goes to every committing lane. -/
def lduPlan (s : State) (f : FmtM) (w : Who) : Except Nat Plan :=
  let act := w.act f.g
  let leader := (Mask.leader act).getD 0
  let va := w.memAddr s f f.off20 leader
  match loadCheck f w with
  | .error c => .error c
  | .ok _ =>
    let fails := s.failsTo w act (match s.probe w.core w.ctx va f.bytes .load false true with
        | some e => (Mask.lanes act).map (fun l => (l, e))
        | none => []) f.data
    .ok {
      oob := f.beyond w (sizeLines f.size.toNat),
      fails := fails,
      leaves := true,
      addr := va,
      stores := Fld.isPort f.data,
      asks := s.portAsks w act fails f.data true,
      commit := fun cm s' =>
        if cm = 0 then s'
        else
          s'.startLoad w f (fun _ => Mask.lanes cm) [(leader, va, f.bytes)] }

def execLdu (f : FmtM) (s : State) : Host.Outcome State Fault Refusal :=
  s.issue (.ldu f) f.g 1 (lduPlan s f)

/-- R214: LDA: a load of which each access is single-copy atomic, and an acquire at its scope: R207 first, and again when it returns. -/
def ldaPlan (s : State) (f : FmtM) (w : Who) : Except Nat Plan :=
  let act := w.act f.g
  let scope := f.mod.toNat % 8
  let acc : Nat → Nat × Nat × Nat := fun l => (l, w.memAddr s f f.off20 l, f.bytes)
  match loadCheck f w with
  | .error c => .error c
  | .ok _ =>
    let fails := s.probeLoads w true ((Mask.lanes act).map acc)
    .ok {
      oob := f.beyond w (sizeLines f.size.toNat),
      fails := fails,
      leaves := true,
      addr := w.memAddr s f f.off20 ((Mask.leader act).getD 0),
      asks := s.asksFor none w fails ((Mask.lanes act).map acc),
      commit := fun cm s' =>
        if act = 0 then s'
        else
          let sc := (s'.narrow w scope).1
          let s1 := (s'.noteNarrow w scope).acquire w.core sc
          let r := s1.loadLanes w ((Mask.lanes cm).map acc) 0
          let keyed := r.2.map (fun v => (s1.keyAt w.core w.ctx (w.memAddr s f f.off20 v.1) false, v))
          let vals := keyed.map (fun k => (k.2.1, r.1.blur k.1 k.2.2.1, k.2.2.2))
          let s2 := keyed.foldl (fun s k =>
            (s.strongAt w (w.memAddr s f f.off20 k.2.1) k.1 f.bytes).blurred k.1 f.bytes) r.1
          s2.sendLoad w f (some sc) [] [] (vals.map (fun v => partOf v.1 (w.memAddr s f f.off20 v.1) v.2)) }

def execLda (f : FmtM) (s : State) : Host.Outcome State Fault Refusal :=
  s.issue (.lda f) f.g 1 (ldaPlan s f)

/-- R205, R208, R311: a load returns: poison that it read loses the context; else its values are placed, the horizon rises to the stores
that it saw early, and an acquire is performed. -/
def State.returnLoad (s : State) (core slot : Nat) (p : PendingLoad) : State :=
  match s.group? core slot with
  | none => s
  | some g =>
    match Table.find s.teams g.tid with
    | none => s
    | some t =>
      match p.parts.flatMap (·.poison) with
      | q :: qs => s.consume t.ctx (q :: qs)
      | [] =>
        let s1 := s.raise core slot (p.parts.foldl (fun m q => max m q.tv) 0)
        let tag := placeTag p.size p.signed
        let s2 := match operandOf p.data with
          | .v d => s1.updGroup core slot (fun g => g.writeLines d tag
              (p.parts.map (fun q => (q.lane, placeSlots p.size p.signed q.value.toNat))) (sizeLines p.size))
          | _ =>
            let w : Who := ⟨core, slot, 0, g, ⟨slot, 0, 0, false, 0, 0, .ready, false, 0, 0, 0, 0, 0, false, 0, 0, [], 0, 0, none⟩, t⟩
            s1.writeDst w p.data tag (p.size == 3) (p.parts.map (fun q => (q.lane, q.value.toNat)))
        match p.acq with
        | some sc => s2.acquire core sc
        | none => s2

/-- R171, R173, R365: what a load lacks is fetched, and its bytes that were still to be read are read; none while a home holds a request of
the fetch. -/
def State.fetchLoad (s : State) (core slot : Nat) (p : PendingLoad) : Option (State × PendingLoad) :=
  if p.parts.all (fun q => q.miss.isEmpty) then some (s, p)
  else
    let s1 := s.waitUncached core p.ctx p.accs
    if (s1.fetchAsks core p.ctx p.accs p.spans).any s1.stalled then none
    else
      let s2 := s1.fetch core slot p.ctx p.accs p.spans
      some (s2, { p with parts := p.parts.map (LanePart.read s2 core slot (fun _ => true)) })

/-- The oldest outstanding load of a group returns; or its requests stand among the held ones of their frames (R365). -/
def State.returnOne (s : State) (core slot : Nat) : State :=
  match s.group? core slot with
  | none => s
  | some g =>
    match g.loads with
    | [] => s
    | p :: _ =>
      match s.fetchLoad core slot p with
      | some r => (r.1.updGroup core slot (fun g => { g with loads := g.loads.drop 1 })).returnLoad core slot r.2
      | none => (s.fetchAsks core p.ctx p.accs p.spans).foldl (fun s a => s.queueAsk (slotKey core slot) a) s

/-- R173, R205, R208, R300, R311: the oldest load of a slot whose group has ended returns: what it read raises the horizon that its node waits
for, or is consumed. -/
def State.returnOrphan (s : State) (key : Nat) : State :=
  match s.orphans.find? (fun o => o.key == key) with
  | none => s
  | some o =>
    let parts := o.load.parts.map (LanePart.read s (key / 16) (key % 16) (fun _ => true))
    let s1 : State := { s with orphans := s.orphans.erase o }
    match parts.flatMap (·.poison) with
    | q :: qs => s1.consume o.load.ctx (q :: qs)
    | [] => { s1 with nodes := Table.upd s1.nodes o.node (fun n => { n with horizon := parts.foldl (fun m q => max m q.tv) n.horizon }) }

/-- Every outstanding load of a group returns, oldest first. -/
def State.returnAll (s : State) (core slot : Nat) : State :=
  match s.group? core slot with
  | none => s
  | some g => g.loads.foldl (fun s _ => s.returnOne core slot) s

-- Handles.

/-- R176: the fields of a handle. -/
def Hd.holder (h : Nat) : Nat := bits h 14 7
def Hd.level (h : Nat) : Nat := bits h 12 2
def Hd.gen (h : Nat) : Nat := bits h 8 4
def Hd.index (h : Nat) : Nat := bits h 0 8

/-- R179: the tile-table entry that a handle names for the issuer, rows, columns and size left aside. A level-2 handle whose holder is
saved names none (log entry 69). -/
def State.handleOf (s : State) (core tid : Nat) (t : Team) (h : Nat) : Option (Nat × Handle) :=
  if bits h 21 11 ≠ 0 || Hd.index h = 255 then none
  else s.handles.find? (fun e =>
    e.1 % 256 == Hd.index h && Table.getD s.hgens 0 e.1 == Hd.gen h && e.2.level == Hd.level h &&
      (if Hd.level h = 1 then Hd.holder h == 0 && e.1 / 256 == core && e.2.owner == tid
       else e.2.owner == t.cluster && e.2.holder == Hd.holder h))

/-- R179: the key in scratchpad storage of element (i, j) for an access of `n` bytes, if the handle is good for it. -/
def State.element (s : State) (core tid : Nat) (t : Team) (h : Nat) (i j : Int) (n : Nat) : Option Nat :=
  match s.handleOf core tid t h with
  | none => none
  | some e =>
    if e.2.es = n && decide (0 ≤ i) && decide (i < e.2.rows) && decide (0 ≤ j) && decide (j < e.2.cols) then
      some (e.1 / 256 * 2 ^ 19 + e.2.base + (i.toNat * e.2.cols + j.toNat) * e.2.es)
    else none

/-- R181: bytes of scratchpad storage are written by no group's access, or by one that every group of the level sees at once: the stores in
flight to them are older. -/
def State.writeScratch (s : State) (k : Nat) (bs : List Byte) : State :=
  { s with scratch := s.scratch.writes k bs,
           flight := s.flight.filter (fun f => !(decide (2 ^ 60 + k ≤ f.key) && decide (f.key < 2 ^ 60 + k + bs.length))) }

/-- R181, R205: a lane's store to a handle at scratchpad byte `k`: the group's earlier loads of the bytes take effect, and the groups of its
own core see it at once. Another core of the cluster, which only a level-2 handle reaches, sees it from its Tv on, within the bound of
R204 (log entry 62). -/
def State.storeHandle (s : State) (w : Who) (lane level k : Nat) (bs : List Byte) : State :=
  let s := s.readNow w.core w.slot (fun x => decide (2 ^ 60 + k ≤ x) && decide (x < 2 ^ 60 + k + bs.length))
  if level = 1 then s.writeScratch k bs
  else
    let tv := max (s.floorOf ⟨w.core, w.slot, lane⟩) (s.time + s.freeVal % 257)
    let fl := (List.range bs.length).map (fun i =>
      (⟨s.free, 2 ^ 60 + k + i, w.core, w.slot, lane, tv, s.scratch.read (k + i), bs.getD i 0, false, [], w.ctx⟩ : Flight))
    ({ s.useFree with scratch := s.scratch.writes k bs, flight := s.flight ++ fl } : State).raise w.core w.slot tv

/-- R181, R208: bytes of scratchpad storage as a group reads them now, and the largest future Tv of another group's store among them. -/
def State.readHandle (s : State) (core slot k n : Nat) : List Byte × Nat :=
  let rs := (List.range n).map (fun i => s.homeByte core slot (2 ^ 60 + k + i))
  (rs.map (·.val), rs.foldl (fun m b => max m b.tv) 0)

/-- R181: the part of a load that reads scratchpad bytes from `k` on. -/
def handlePart (l k n : Nat) : LanePart := ⟨l, 2 ^ 64, 0, (List.range n).map (fun i => (i, 2 ^ 60 + k + i)), [], 0⟩

/-- The element that a lane of LDT or STT names (R185). -/
def Who.tileElement (s : State) (w : Who) (f : FmtM) (l : Nat) : Option Nat :=
  s.element w.core w.g.tid w.t (w.word s f.base l) (signed 32 (w.word s (f.off.extractLsb' 10 10) l))
    (signed 32 (w.word s (f.off.extractLsb' 0 10) l)) f.bytes

/-- The checks of LDT and STT on their handle, row and column lines. -/
def handleCheck (f : FmtM) (w : Who) : Except Nat Unit := do
  let act := w.act f.g
  w.checkSrc act f.base 1 Tg.word
  w.checkSrc act (f.off.extractLsb' 10 10) 1 Tg.word
  w.checkSrc act (f.off.extractLsb' 0 10) 1 Tg.word

/-- R185: the lanes whose handle is not good. -/
def Who.handleFails (s : State) (w : Who) (f : FmtM) (act : Mask) : List (Nat × LaneFail) :=
  ((Mask.lanes act).filter (fun l => (w.tileElement s f l).isNone)).map (fun l => (l, { cause := Cause.handle }))

/-- R185: LDT. -/
def ldtPlan (s : State) (f : FmtM) (w : Who) : Except Nat Plan :=
  let act := w.act f.g
  match (do
      failIf (w.dataPortBad act f.data true f.bytes) Cause.illegalField
      handleCheck f w
      w.dataPortTag act f.data (placeTag f.size.toNat (f.mod.getLsbD 3)) : Except Nat Unit) with
  | .error c => .error c
  | .ok _ => .ok {
      oob := f.handleBeyond w,
      fails := s.failsTo w act (w.handleFails s f act) f.data,
      leaves := Fld.isPort f.data,
      stores := Fld.isPort f.data,
      asks := s.portAsks w act (s.failsTo w act (w.handleFails s f act) f.data) f.data true,
      commit := fun cm s' => s'.sendLoad w f none [] []
        ((Mask.lanes cm).map (fun l => handlePart l ((w.tileElement s f l).getD 0) f.bytes)) }

def execLdt (f : FmtM) (s : State) : Host.Outcome State Fault Refusal :=
  s.issue (.ldt f) f.g 1 (ldtPlan s f)

-- Stores.

/-- The data operand of a store in a lane as a number of `n` bytes (R187): `pv` is what a port supplied. -/
def Who.storeValue (s : State) (w : Who) (x : BitVec 10) (size : Nat) (pv : Table Nat) (l : Nat) : Nat :=
  match operandOf x with
  | .v n => (List.range (sizeLines size)).foldl (fun v k => v + ((w.g.line (n + k)).slot l).toNat * 2 ^ (32 * k)) 0
  | .port k => Table.getD pv 0 (k * 32 + l)
  | .sr r => w.sreg s l r
  | .reserved => 0

/-- The checks of the data operand of a store (R83, R89, R187): every tag is accepted, the same on all its lines. -/
def Who.checkData (w : Who) (act : Mask) (x : BitVec 10) (size : Nat) : Except Nat Unit :=
  match operandOf x with
  | .v n => w.checkLines n (sizeLines size) (fun _ => true)
  | .port k => if w.portMixed act k then .error Cause.tagMixed else .ok ()
  | _ => .ok ()

/-- The checks of ST and STL. -/
def storeCheck (f : FmtM) (w : Who) : Except Nat Unit := do
  let act := w.act f.g
  failIf (w.dataPortBad act f.data false f.bytes) Cause.illegalField
  w.checkData act f.data f.size.toNat
  w.checkSrc act f.base 2 Tg.dword

/-- The committing lanes' stores of one instruction, in ascending lane order (R168, R187). -/
def State.storeLanes (s : State) (kind : StoreKind) (w : Who) (hint : Nat) (vs : List (Nat × Nat × List Byte)) : State :=
  vs.foldl (fun s v => s.storeVaAs kind w v.1 v.2.1 hint v.2.2) s

/-- R187: ST. -/
def stPlan (s : State) (f : FmtM) (w : Who) : Except Nat Plan :=
  let act := w.act f.g
  match storeCheck f w with
  | .error c => .error c
  | .ok _ =>
    let accs := (Mask.lanes act).map (fun l => (l, w.memAddr s f f.off20 l, f.bytes))
    let port := s.portFails w act f.data false
    let fails := firstFails (port ++ s.probeStores w .store false (port.map Prod.fst) accs)
    .ok {
      oob := f.beyond w (sizeLines f.size.toNat),
      fails := fails,
      leaves := true,
      addr := w.memAddr s f f.off20 ((Mask.leader act).getD 0),
      stores := true,
      asks := s.portAsks w act fails f.data false ++ s.asksFor (some .plain) w fails accs,
      commit := fun cm s' =>
        let r := s'.loadPorts w cm (portsOf [f.data])
        match r.2.2 with
        | p :: ps => r.1.consume w.ctx (p :: ps)
        | [] => r.1.storeLanes .plain w f.mod.toNat ((Mask.lanes cm).map (fun l =>
            (l, w.memAddr s f f.off20 l, leBytes (w.storeValue s f.data f.size.toNat r.2.1 l) f.bytes))) }

def execSt (f : FmtM) (s : State) : Host.Outcome State Fault Refusal :=
  s.issue (.st f) f.g 1 (stPlan s f)

/-- R215: STL: a release at its scope, and then the stores. -/
def stlPlan (s : State) (f : FmtM) (w : Who) : Except Nat Plan :=
  let act := w.act f.g
  match storeCheck f w with
  | .error c => .error c
  | .ok _ =>
    let accs := (Mask.lanes act).map (fun l => (l, w.memAddr s f f.off20 l, f.bytes))
    let fails := s.probeStores w .store true [] accs
    .ok {
      oob := f.beyond w (sizeLines f.size.toNat),
      fails := fails,
      stores := true,
      asks := s.asksFor (some .plain) w fails accs,
      rel := some (s.narrow w f.mod.toNat).1,
      leaves := true,
      addr := w.memAddr s f f.off20 ((Mask.leader act).getD 0),
      commit := fun cm s' =>
        let s1 := if act = 0 then s' else s'.noteNarrow w f.mod.toNat
        (Mask.lanes cm).foldl (fun s l =>
          let va := w.memAddr s f f.off20 l
          (s.strongAt w va (s.keyAt w.core w.ctx va true) f.bytes).storeVa w l va 0
            (leBytes (w.storeValue s f.data f.size.toNat [] l) f.bytes)) s1 }

def execStl (f : FmtM) (s : State) : Host.Outcome State Fault Refusal :=
  s.issue (.stl f) f.g 1 (stlPlan s f)

/-- R185: STT. -/
def sttPlan (s : State) (f : FmtM) (w : Who) : Except Nat Plan :=
  let act := w.act f.g
  match (do
      failIf (w.dataPortBad act f.data false f.bytes) Cause.illegalField
      w.checkData act f.data f.size.toNat
      handleCheck f w : Except Nat Unit) with
  | .error c => .error c
  | .ok _ => .ok {
      oob := f.handleBeyond w,
      fails := firstFails (s.portFails w act f.data false ++ w.handleFails s f act),
      leaves := Fld.isPort f.data,
      stores := true,
      asks := s.portAsks w act (s.portFails w act f.data false ++ w.handleFails s f act) f.data false,
      commit := fun cm s' =>
        let r := s'.loadPorts w cm (portsOf [f.data])
        match r.2.2 with
        | p :: ps => r.1.consume w.ctx (p :: ps)
        | [] => (Mask.lanes cm).foldl (fun s' l =>
            s'.storeHandle w l (Hd.level (w.word s f.base l)) ((w.tileElement s f l).getD 0)
              (leBytes (w.storeValue s f.data f.size.toNat r.2.1 l) f.bytes)) r.1 }

def execStt (f : FmtM) (s : State) : Host.Outcome State Fault Refusal :=
  s.issue (.stt f) f.g 1 (sttPlan s f)

-- Atomics.

/-- R188: the location of a lane's atomic is read at its home: the newest store in coherence order, with the latest Tv that another
group's store there has (R208). -/
def State.atomRead (s : State) (w : Who) (key n : Nat) : List Byte × Nat :=
  (s.mem.reads key n,
    (s.flight.filter (fun f => decide (key ≤ f.key) && decide (f.key < key + n) && !(f.core == w.core && f.slot == w.slot))).foldl
      (fun m f => max m f.tv) 0)

/-- R196, R331: bytes of a read copy of a core's L1 that has read them at their home: the copy holds what was read. -/
def State.copyRead (s : State) (core key : Nat) (bs : List Byte) : State :=
  { s with bolts := s.bolts.map (fun b => if b.cache == core && b.frame == key / 256 && !b.owned then b.patch key bs else b) }

/-- R166, R188, R189, R196: one lane's atomic: the group's earlier loads of the bytes take effect; the newest store there is read, and seen by
the core from then on; `op` gives the new value, or none where nothing is stored. A failing CAS counts as a write in a write-once range.
Answers the old value. -/
def State.atomLane (s : State) (w : Who) (l va n : Nat) (op : Nat → Option Nat) : State × Nat :=
  let s := s.touch w.core w.ctx va true
  let key := s.keyAt w.core w.ctx va true
  let s := s.readNow w.core w.slot (inParts [(key, n)])
  let r := s.atomRead w key n
  let old := s.blur key r.1
  let s := (((s.strongAt w va key n).blurred key n).raise w.core w.slot (if s.time < r.2 then r.2 else 0)).see w.core key n
  match op (leNat old) with
  | some x => (s.storeVaAs .atomic w l va 0 (leBytes x n), leNat old)
  | none =>
    let s := s.storeEvent .atomic w.core w.ctx key n
    (({ s with marks := s.kindMarks .atomic w.ctx key n } : State).copyRead w.core key old, leNat old)

/-- The committing lanes' atomics in ascending order (R168): state and old values. -/
def State.atomLanes (s : State) (w : Who) (n : Nat) (va : Nat → Nat) (op : Nat → Nat → Option Nat) : List Nat → State × List (Nat × Nat)
  | [] => (s, [])
  | l :: t =>
    let r := s.atomLane w l (va l) n (op l)
    let q := r.1.atomLanes w n va op t
    (q.1, (l, r.2) :: q.2)

/-- R170: the home slices of the committing lanes' locations come to hold them. -/
def State.holdAll (s : State) (w : Who) (n : Nat) (va : Nat → Nat) (ls : List Nat) : State :=
  ls.foldl (fun s l =>
    let key := s.keyAt w.core w.ctx (va l) true
    let sp := spanFor 6 (key % 256) n none
    s.homeHold (key / 256) sp.1 sp.2) s

/-- R203: no later store of a group has an earlier Tv than its atomics at `.team` or wider. -/
def State.setFloor (s : State) (core slot scope : Nat) : State :=
  if scope < 1 then s else s.updGroup core slot (fun g => { g with floor := max g.floor g.horizon })

/-- The poison that the committing lanes' atomics consume (R311). -/
def State.atomPoison (s : State) (w : Who) (n : Nat) (va : Nat → Nat) (ls : List Nat) : List (Nat × Nat) :=
  ls.flatMap (fun l => ((s.poisonIn (s.keyAt w.core w.ctx (va l) true) n).map (fun c => (c, va l))).toList)

/-- R188, R189, R195: an atomic instruction: a release and an acquire at its scope; `dataOk` are the tags of DATA, `lines` the lines of
the operand checked and written, `result` writes the old values. -/
def atomPlan (s : State) (f : FmtM) (off : Int) (check : Except Nat Unit) (lines span : Nat) (w : Who)
    (op : Nat → Nat → Option Nat) : Except Nat Plan :=
  let act := w.act f.g
  let n := f.bytes
  let va := w.memAddr s f off
  match (do check; w.checkSrc act f.base 2 Tg.dword : Except Nat Unit) with
  | .error c => .error c
  | .ok _ =>
    let accs := (Mask.lanes act).map (fun l => (l, va l, n))
    let fails := s.probeStores w .atomic true [] accs
    .ok {
      oob := f.beyond w span,
      fails := fails,
      stores := true,
      asks := s.asksFor (some .atomic) w fails accs,
      rel := some (s.narrow w f.mod.toNat).1,
      leaves := true,
      addr := va ((Mask.leader act).getD 0),
      commit := fun cm s' =>
        let s1 := (if act = 0 then s' else s'.noteNarrow w f.mod.toNat).holdAll w n va (Mask.lanes cm)
        match s1.atomPoison w n va (Mask.lanes cm) with
        | p :: ps => s1.consume w.ctx (p :: ps)
        | [] =>
          let r := s1.atomLanes w n va op (Mask.lanes cm)
          let s2 := r.1.updGroup w.core w.slot (fun g => g.writeLines f.data.toNat (w.g.tag f.data.toNat)
            (r.2.map (fun v => (v.1, placeSlots f.size.toNat false v.2))) lines)
          if act = 0 then s2
          else (s2.setFloor w.core w.slot (s1.narrow w f.mod.toNat).1).acquire w.core (s1.narrow w f.mod.toNat).1 }

/-- R188: the new value of ATOM. -/
def atomNew (op w old x : Nat) : Nat :=
  match op with
  | 0 => (old + x) % 2 ^ w
  | 1 => if signed w old ≤ signed w x then old else x
  | 2 => if signed w old ≤ signed w x then x else old
  | 3 => min old x
  | 4 => max old x
  | 5 => old &&& x
  | 6 => old ||| x
  | 7 => old ^^^ x
  | _ => x

/-- R188: the new value of ATOMF. -/
def atomfNew (op : Nat) (fm : FloatFmt) (old x : Nat) : Nat :=
  match op with
  | 0 => (fm.roundFV 1 ((fm.value old).add (fm.value x)).1).1
  | k => (fm.roundFV 1 (FV.pick (k == 2) (fm.value old) (fm.value x))).1

/-- R188: ATOM. -/
def atomOpPlan (s : State) (f : FmtM) (w : Who) : Except Nat Plan :=
  let lines := sizeLines f.size.toNat
  atomPlan s f f.off16 (w.checkSrc (w.act f.g) f.data lines (if f.size = 3 then Tg.dword else Tg.word)) lines lines w
    (fun l old => some (atomNew f.op (8 * f.bytes) old (w.storeValue s f.data f.size.toNat [] l)))

def execAtom (f : FmtM) (s : State) : Host.Outcome State Fault Refusal :=
  s.issue (.atom f) f.g 1 (atomOpPlan s f)

/-- R188: ATOMF. -/
def atomfPlan (s : State) (f : FmtM) (w : Who) : Except Nat Plan :=
  let lines := sizeLines f.size.toNat
  let t := if f.size = 3 then Tg.f64 else Tg.f32
  atomPlan s f f.off16 (w.checkSrc (w.act f.g) f.data lines (· == t)) lines lines w
    (fun l old => some (atomfNew f.op (fmtOf t) old (w.storeValue s f.data f.size.toNat [] l)))

def execAtomf (f : FmtM) (s : State) : Host.Outcome State Fault Refusal :=
  s.issue (.atomf f) f.g 1 (atomfPlan s f)

/-- R189: CAS: the new value stands in the lines after the compare value; both operands carry one tag each. -/
def casPlan (s : State) (f : FmtM) (w : Who) : Except Nat Plan :=
  let lines := sizeLines f.size.toNat
  let d := f.data.toNat
  let new : Nat → Nat := fun l =>
    (List.range lines).foldl (fun v k => v + ((w.g.line (d + lines + k)).slot l).toNat * 2 ^ (32 * k)) 0
  atomPlan s f f.off20 (do w.checkLines d lines (fun _ => true); w.checkLines (d + lines) lines (fun _ => true)) lines (2 * lines) w
    (fun l old => if old = w.storeValue s f.data f.size.toNat [] l then some (new l) else none)

def execCas (f : FmtM) (s : State) : Host.Outcome State Fault Refusal :=
  s.issue (.cas f) f.g 1 (casPlan s f)

-- PREF, FLUSH, INV, ZERO.

/-- R186: PREF in one lane: dropped for an address that fails a check, and at will (a free choice, log entry 4), so where a home would hold its request; a flash page that misses
starts its read (R337). -/
def State.prefLane (s : State) (w : Who) (f : FmtM) (va : Nat) : State :=
  let s1 := s.useFree
  if s.freeVal % 2 = 1 then s1
  else
    match s.probe w.core w.ctx va f.bytes .load false true with
    | some e => if e.cause = Cause.flashWait then { s1 with reading := e.blocks.flatten.foldl insertNat s1.reading } else s1
    | none =>
      let s2 := s1.touchAll w.core w.ctx va f.bytes false
      let parts := s2.partsAt w.core w.ctx va f.bytes
      if (s2.fetchAsks w.core w.ctx parts (spansBy parts (f.mod.toNat % 8) (s2.guess w.core))).any s2.stalled then s2
      else s2.fillFor w.core w.slot w.ctx parts (f.mod.toNat % 8)

/-- R186: PREF. -/
def prefPlan (s : State) (f : FmtM) (w : Who) : Except Nat Plan :=
  match w.checkSrc (w.act f.g) f.base 2 Tg.dword with
  | .error c => .error c
  | .ok _ => .ok {
      oob := w.beyondField f.base 2,
      commit := fun cm s' => (Mask.lanes cm).foldl (fun s' l => s'.prefLane w f (w.memAddr s f f.off20 l)) s' }

def execPref (f : FmtM) (s : State) : Host.Outcome State Fault Refusal :=
  s.issue (.pref f) f.g 1 (prefPlan s f)

/-- The checks of FLUSH, INV and ZERO (R183). -/
def rangeCheck (f : FmtM) (w : Who) : Except Nat Unit := do
  let act := w.act f.g
  w.checkSrc act f.data (if f.size = 3 then 2 else 1) (if f.size = 3 then Tg.dword else Tg.word)
  w.checkSrc act f.base 2 Tg.dword

/-- R190, R191: the leader's range: where it starts and how long it is. -/
def Who.rangeOf (s : State) (w : Who) (f : FmtM) : Nat × Nat :=
  let l := (Mask.leader (w.act f.g)).getD 0
  (w.memAddr s f f.off20 l, if f.size = 3 then w.dword s f.data l else w.word s f.data l)

/-- R190: FLUSH and INV start over the leader's range, cut at the end of the space. -/
def flushPlan (inv : Bool) (s : State) (f : FmtM) (w : Who) : Except Nat Plan :=
  match rangeCheck f w with
  | .error c => .error c
  | .ok _ => .ok {
      oob := f.beyond w (if f.size = 3 then 2 else 1),
      leaves := true,
      addr := (w.rangeOf s f).1,
      commit := fun cm s' =>
        let r := w.rangeOf s f
        if cm = 0 || r.2 = 0 then s'
        else s'.updGroup w.core w.slot (fun g => { g with
          rangeOp := some ⟨inv, f.mod.toNat % 8, r.1, min r.2 (2 ^ 57 - r.1)⟩ }) }

def execFlush (f : FmtM) (s : State) : Host.Outcome State Fault Refusal :=
  s.issue (.flush f) f.g 1 (flushPlan false s f)

def execInv (f : FmtM) (s : State) : Host.Outcome State Fault Refusal :=
  s.issue (.inv f) f.g 1 (flushPlan true s f)

/-- The physical spans of a range of a context's addresses, rounded outward to granules: (key, size). Unmapped pages are passed over. -/
def State.spans (s : State) (ctx start len : Nat) : List (Nat × Nat) :=
  let lo := start / 16 * 16
  let hi := (start + len + 15) / 16 * 16
  (s.leavesOf ctx lo hi).filterMap (fun e =>
    let a := max lo e.va
    let b := min hi (e.va + e.size)
    if a < b then some (leafKey e.base e.val a, b - a) else none)

/-- R190: the granules of a bolt that lie in a physical span of granules: first, and one past the last. -/
def Bolt.meets (b : Bolt) (key len : Nat) : Option (Nat × Nat) :=
  let fk := b.frame * 256
  let lo := max b.lo ((key - fk) / 16)
  let hi := min b.hi ((min (key + len - fk) 256 + 15) / 16)
  if decide (key < fk + 256) && decide (fk < key + len) && decide (lo < hi) then some (lo, hi) else none

/-- R190: a bolt is split at the edges of a span of granules; the part inside is what `act` makes of it. -/
def Bolt.within (b : Bolt) (key len : Nat) (act : Bolt → List Bolt) : List Bolt :=
  match b.meets key len with
  | some h => Bolt.trim { b with lo := h.1, hi := h.2 } b ++ act (b.cut h.1 h.2)
  | none => [b]

/-- R190: whether FLUSH or INV of a level on a core reaches a cache: its L1; the L1 caches and home slices of its die; those of every die.
Proxy slices are acted on under the patterns of their frames (R362). -/
def levelReaches (level core cache : Nat) : Bool :=
  let d := dieOf core
  match level with
  | 0 => cache == core
  | 1 => (decide (cache < 720) && dieOf cache == d) || (decide (2048 + 48 * d ≤ cache) && decide (cache < 2096 + 48 * d))
  | _ => decide (cache < 720) || decide (2048 ≤ cache)

/-- R190: what FLUSH or INV leaves in a cache of the part of a bolt inside its range: FLUSH keeps an L1's owned words, which memory already
holds, as a read copy, filled at the flush and with a lease from then (DESIGN CHOICE, log entry 86); a home slice's are written back; INV
discards. -/
def State.flushed (s : State) (ctx : Nat) (inv : Bool) (x : Bolt) : List Bolt :=
  if inv then []
  else if x.owned && decide (x.cache < 720) then
    let d := s.snapshot x.cache 0 x.frame x.lo x.hi
    [{ x with owned := false, data := d.1, poison := d.2, fill := s.time, lease := some (s.time + (s.ctx ctx).lease) }]
  else [{ x with dirty := 0 }]

/-- R190: FLUSH or INV on the bolts of one physical span: home slices write back what lies inside it, and each cache keeps what it may. -/
def State.flushSpan (s : State) (core ctx : Nat) (op : RangeOp) (sp : Nat × Nat) : State :=
  let mine := s.bolts.filter (fun b => decide (2048 ≤ b.cache) && levelReaches op.level core b.cache)
  let s1 := (mine.filterMap (fun b => (b.meets sp.1 sp.2).map (fun h => b.cut h.1 h.2))).foldl State.writeBack s
  { s1 with bolts := s1.bolts.flatMap (fun b =>
      if levelReaches op.level core b.cache then b.within sp.1 sp.2 (s1.flushed ctx op.inv) else [b]) }

/-- R190: the remote frames of a span of which a die's caches hold bolts. -/
def State.farFrames (s : State) (d : Nat) (sp : Nat × Nat) : List Nat :=
  ((s.bolts.filter (fun b => b.ofReq d && decide (sp.1 < b.frame * 256 + 256)
    && decide (b.frame * 256 < sp.1 + sp.2) && s.remote d (b.frame * 256))).map (·.frame)).foldl insertNat []

/-- R190: the dies whose proxies FLUSH or INV reaches. -/
def levelDies (level core : Nat) : List Nat := if level = 0 then [] else if level = 1 then [dieOf core] else [0, 1, 2, 3]

/-- R190, R362, R372: the events that FLUSH or INV of a context raises at the homes of a span's frames, for each die that it reaches and that
holds bolts of a frame through its proxies, where the frame's pattern governs the context (R356). -/
def State.flushAsks (s : State) (core ctx : Nat) (op : RangeOp) (sp : Nat × Nat) : List (Nat × HomeReq) :=
  (levelDies op.level core).flatMap (fun d =>
    ((s.farFrames d sp).filter (fun fr => s.patFor (fr * 256) (s.tenOf ctx) != 16)).map (fun fr =>
      (if op.inv then EV.iv else EV.fl, (⟨fr, d, byteMask (max sp.1 (fr * 256))
        (min (sp.1 + sp.2) (fr * 256 + 256) - max sp.1 (fr * 256))⟩ : HomeReq))))

/-- R356: the frames of a span in ranges of another tenancy are recalled. -/
def State.flushRecalls (s : State) (core ctx : Nat) (op : RangeOp) (sp : Nat × Nat) : State :=
  (((levelDies op.level core).flatMap (fun d => s.farFrames d sp)).filter (fun fr => s.patFor (fr * 256) (s.tenOf ctx) == 16)).foldl
    State.recallFrame s

/-- R190: a FLUSH or INV in progress completes, unless a home holds one of its requests (R365). -/
def State.finishRange (s : State) (core slot : Nat) : State :=
  match s.group? core slot with
  | none => s
  | some g =>
    match g.rangeOp, Table.find s.teams g.tid with
    | some op, some t =>
      let sps := s.spans t.ctx op.start op.len
      let asks := sps.flatMap (s.flushAsks core t.ctx op)
      if s.asksStall asks then asks.foldl (fun s a => s.queueAsk (slotKey core slot) a) s
      else
        (sps.foldl (fun s sp => s.flushRecalls core t.ctx op sp) (asks.foldl State.ask (sps.foldl (fun s sp => s.flushSpan core t.ctx op sp) s))).updGroup
          core slot (fun g => { g with rangeOp := none })
    | some _, none => s.updGroup core slot (fun g => { g with rangeOp := none })
    | none, _ => s

/-- R191: the failure of ZERO's range, if any. -/
def State.zeroFail (s : State) (w : Who) (a len : Nat) : Option LaneFail :=
  if len = 0 then none
  else if a % 256 ≠ 0 || len % 256 ≠ 0 then some { cause := Cause.misaligned, addr := a }
  else s.probe w.core w.ctx a len .zero false true

/-- R191: ZERO. -/
def zeroPlan (s : State) (f : FmtM) (w : Who) : Except Nat Plan :=
  let act := w.act f.g
  let r := w.rangeOf s f
  match rangeCheck f w with
  | .error c => .error c
  | .ok _ =>
    let fails := match s.zeroFail w r.1 r.2 with
      | some e => (Mask.lanes act).map (fun l => (l, e))
      | none => []
    .ok {
      oob := f.beyond w (if f.size = 3 then 2 else 1),
      fails := fails,
      leaves := true,
      addr := r.1,
      stores := true,
      asks := s.asksFor (some .zero) w fails ((Mask.leader act).toList.map (fun l => (l, r.1, r.2))),
      commit := fun cm s' =>
        if cm = 0 then s'
        else s'.storeLanes .zero w 0 ((List.range (r.2 / 256)).map (fun i =>
          ((Mask.leader act).getD 0, r.1 + 256 * i, List.replicate 256 0))) }

def execZero (f : FmtM) (s : State) : Host.Outcome State Fault Refusal :=
  s.issue (.zero f) f.g 1 (zeroPlan s f)

-- TALLOC and TFREE.

/-- R178: scratchpad bytes of a core. -/
def scratchSize : Nat := 393216

/-- The core or the twin cores of a team that stands on `core` (R373). -/
def Team.cores (t : Team) (core : Nat) : List Nat := if t.twin.isSome then [core, core + 1] else [core]

/-- A tile-table entry stands on a core: its own, or the twin of its own (R374). -/
def standsOn (core : Nat) (e : Nat × Handle) : Bool := e.1 / 256 == core || (e.2.twin && e.1 / 256 + 1 == core)

/-- R178: the bytes of an entry's storage. -/
def Handle.bytes (h : Handle) : Nat := (h.rows * h.cols * h.es + 127) / 128 * 128

/-- R178, R192, R374: the lowest run of `n` bytes that is free in the scratchpads of some cores. -/
def State.freeRun (s : State) (cores : List Nat) (n : Nat) : Option Nat :=
  let used := (s.handles.filter (fun e => cores.any (fun c => standsOn c e))).map (fun e => (e.2.base, e.2.base + e.2.bytes))
  let fits : Nat → Bool := fun b => decide (b + n ≤ scratchSize) && used.all (fun u => decide (b + n ≤ u.1) || decide (u.2 ≤ b))
  ((0 :: used.map Prod.snd).filter fits).foldl (fun m b => match m with | none => some b | some x => some (min x b)) none

/-- R192: the team of the cluster that a level-2 TALLOC names, where it stands on a core. -/
def State.holderTeam (s : State) (t : Team) (num : Nat) : Option (Nat × Team) :=
  s.teams.find? (fun e => e.2.cluster == t.cluster && e.2.num == num)

/-- R192, R282: the cluster of a team has a team of a number: CWID × CH of its node, or it stands on a core or is saved. -/
def State.hasTeam (s : State) (t : Team) (num : Nat) : Bool :=
  (s.holderTeam t num).isSome || s.saved.any (fun e => e.2.team.cluster == t.cluster && e.2.team.num == num)
    || (match Table.find s.nodes t.node with
        | some n => decide (num < leField n.desc 16 2 * leField n.desc 18 1)
        | none => false)

/-- R192: what TALLOC allocates: the state and the handle, or none. -/
def State.allocate (s : State) (level : Nat) (tid : Nat) (t : Team) (owner rows cols es : Nat) : Option (State × Nat) :=
  let n := (rows * cols * es + 127) / 128 * 128
  if rows = 0 || cols = 0 || n > scratchSize then none
  else
    match t.handles.find? (fun i => (Table.find s.handles (handleKey t.core i)).isNone), s.freeRun (t.cores t.core) n with
    | some i, some b =>
      let holder := if level = 2 then t.num else 0
      some ({ s with
          handles := Table.put s.handles (handleKey t.core i) ⟨level, if level = 1 then tid else owner, holder, rows, cols, es, b, t.twin.isSome⟩,
          scratch := s.scratch.writes (t.core * 2 ^ 19 + b) (List.replicate n 0),
          flight := s.flight.filter (fun f => !(decide (2 ^ 60 + t.core * 2 ^ 19 + b ≤ f.key)
            && decide (f.key < 2 ^ 60 + t.core * 2 ^ 19 + b + n))) },
        i + 256 * Table.getD s.hgens 0 (handleKey t.core i) + 4096 * level + 16384 * holder)
    | _, _ => none

/-- R192: TALLOC. -/
def tallocPlan (s : State) (f : FmtE) (w : Who) : Except Nat Plan :=
  let act := w.act f.g
  let level := f.n.toNat
  let l := (Mask.leader act).getD 0
  let holder := if level = 1 then some (w.g.tid, w.t) else s.holderTeam w.t (w.word s f.c l)
  let absent := level == 2 && !s.hasTeam w.t (w.word s f.c l)
  match (do
      w.checkSrc act f.b 1 Tg.word
      if level = 2 then w.checkSrc act f.c 1 Tg.word else .ok () : Except Nat Unit) with
  | .error c => .error c
  | .ok _ => .ok {
      oob := w.beyondField f.a 1 || w.beyondField f.b 1 || (level == 2 && w.beyondField f.c 1),
      fails := if absent then (Mask.lanes act).map (fun l => (l, { cause := Cause.handle })) else [],
      commit := fun cm s' =>
        if cm = 0 then s'
        else
          let shape := w.word s f.b l
          let r := holder.bind (fun h =>
            s'.allocate level h.1 h.2 w.t.cluster (bits shape 16 16) (bits shape 0 16) (2 ^ (f.mod.toNat % 4)))
          let s1 := match r with | some x => x.1 | none => s'
          let v := match r with | some x => x.2 | none => 0xFF
          s1.updGroup w.core w.slot (fun g =>
            (g.writeSlots f.a.toNat Tg.n32 ((Mask.lanes cm).map (fun l => (l, BitVec.ofNat 32 v)))).setPred
              (f.mod.toNat / 4) cm (if r.isSome then BitVec.allOnes 32 else 0)) }

def execTalloc (f : FmtE) (s : State) : Host.Outcome State Fault Refusal :=
  s.issue (.talloc f) f.g 1 (tallocPlan s f)

/-- R192: before an entry's storage returns, the accesses of every group that issued earlier take effect on it. -/
def State.settleHandle (s : State) (core : Nat) (h : Handle) : State :=
  let lo := 2 ^ 60 + core * 2 ^ 19 + h.base
  let hi := lo + h.rows * h.cols * h.es
  let sel : Nat → Bool := fun x => decide (lo ≤ x) && decide (x < hi)
  let settle : Nat → PendingLoad → PendingLoad := fun k p => { p with parts := p.parts.map (LanePart.read s (k / 16) (k % 16) sel) }
  { s with
    groups := Table.mapV s.groups (fun k g => { g with loads := g.loads.map (settle k) }),
    orphans := s.orphans.map (fun o => { o with load := settle o.key o.load }) }

/-- What names a tile-table entry wherever its holder stands. -/
def Handle.name (h : Handle) (idx : Nat) : Nat × Nat × Nat × Nat := (h.level, h.owner, h.holder, idx)

/-- R277: the started entries that name a tile-table entry which TFREE has freed fail with LF_HANDLE. -/
def State.failNamed (s : State) (name : Nat × Nat × Nat × Nat) : State :=
  let fail : List Started → List Started :=
    List.map (fun e => if e.handle = some name then { e with await := .fail { cause := Cause.handle }, handle := none } else e)
  { s with chains := Table.mapV s.chains (fun _ c => { c with started := fail c.started }),
           saved := Table.mapV s.saved (fun _ k => { k with chains := Table.mapV k.chains (fun _ c => { c with started := fail c.started }) }) }

/-- R192: TFREE. -/
def tfreePlan (s : State) (f : FmtE) (w : Who) : Except Nat Plan :=
  let act := w.act f.g
  let h := s.handleOf w.core w.g.tid w.t (w.word s f.a ((Mask.leader act).getD 0))
  match w.checkSrc act f.a 1 Tg.word with
  | .error c => .error c
  | .ok _ => .ok {
      oob := w.beyondField f.a 1,
      fails := if h.isNone then (Mask.lanes act).map (fun l => (l, { cause := Cause.handle })) else [],
      commit := fun cm s' =>
        match h with
        | some e => if cm = 0 then s'
          else ((s'.settleHandle (e.1 / 256) e.2).freeHandle (e.1 / 256) (e.1 % 256)).failNamed (e.2.name (e.1 % 256))
        | none => s' }

def execTfree (f : FmtE) (s : State) : Host.Outcome State Fault Refusal :=
  s.issue (.tfree f) f.g 1 (tfreePlan s f)

end Sys2Proof.Machine
end

