-- ==== Sys2Proof/Machine/Matrix.lean ====
section
/-! DEFINITION. Machine/Matrix.lean: tiles, accumulators, the matrix engine and gauges, class 0x6 (R243 to R268). -/

namespace Sys2Proof.Machine

-- Tiles and accumulators.

/-- A BPp tag, and its p (R81). -/
def Tg.bp (t : Nat) : Bool := decide (15 ≤ t) && decide (t ≤ 21)
def Tg.planes (t : Nat) : Nat := t - 13

/-- R244: the tags of tiles. -/
def Tg.tile (t : Nat) : Bool := [1, 5, 2, 6, 9, 10, 3, 7, 11, 13, 14].contains t || Tg.bp t

/-- R244: the bytes of an element of a tile that is not BPp. -/
def Tg.bytes (t : Nat) : Nat := Tg.width t / 8

/-- R244: the elements of a row. -/
def TileDesc.k (d : TileDesc) : Nat :=
  if Tg.bp d.tag then 8 * d.rowBytes / Tg.planes d.tag else d.rowBytes / Tg.bytes d.tag

/-- R109: the scale bytes of a row. -/
def TileDesc.stride (d : TileDesc) : Nat := 16 * ((d.k + 511) / 512)

/-- R109: the scale lines. -/
def TileDesc.scaleLines (d : TileDesc) : Nat := (d.stride * d.rows + 127) / 128

/-- The first line that the rows touch, and how many they touch (R74). -/
def TileDesc.firstLine (d : TileDesc) : Nat := d.off / 128
def TileDesc.lineCount (d : TileDesc) : Nat :=
  if d.rows = 0 then 0 else (d.off + d.rows * d.rowBytes + 127) / 128 - d.off / 128

/-- The bytes of a row: where they start. -/
def TileDesc.rowAt (d : TileDesc) (i : Nat) : Nat := d.off + i * d.rowBytes

/-- A tile of a group. -/
def Group.tile (g : Group) (n : Nat) : TileDesc := Table.getD g.tiles TileDesc.zero n

/-- The offset of an accumulator (R245). -/
def Group.acc (g : Group) (n : Nat) : Nat := Table.getD g.accs 0 n

/-- R243, R244, R246: a tile descriptor that four words make, if they keep the rules. -/
def parseTile (w0 w1 w2 w3 : Nat) : Option TileDesc :=
  let d : TileDesc := ⟨bits w0 0 17, bits w1 26 6, bits w1 21 5, bits w1 17 4, bits w1 0 9, bits w2 17 1 == 1, bits w2 0 17, bits w3 0 6⟩
  let p := Tg.planes d.tag
  if bits w0 17 15 == 0 && d.off % 16 == 0 && decide (1 ≤ d.rows) && decide (d.rows ≤ 32) && Tg.tile d.tag
      && (if Tg.bp d.tag then d.planes == 0 || (decide (2 ≤ d.planes) && decide (d.planes ≤ p)) else d.planes == 0)
      && bits w1 9 8 == 0 && decide (16 ≤ d.rowBytes) && decide (d.rowBytes ≤ 384) && d.rowBytes % 16 == 0
      && (!Tg.bp d.tag || (d.rowBytes % p == 0 && d.k % 32 == 0))
      && bits w2 18 14 == 0 && (!d.se || d.tag == 1 || d.tag == 13 || d.tag == 14 || Tg.bp d.tag) && d.sclOff % 128 == 0
      && bits w3 6 26 == 0 && (d.gauge == 0 || !Tg.bp d.tag)
      && decide (d.off + d.rows * d.rowBytes ≤ 122880) && (!d.se || decide (d.sclOff + 128 * d.scaleLines ≤ 122880))
  then some d else none

/-- R245, R246: an accumulator's offset, if the word keeps the rules. -/
def parseAcc (w0 : Nat) : Option Nat :=
  if bits w0 17 15 == 0 && bits w0 0 17 % 128 == 0 && decide (bits w0 0 17 + 8192 ≤ 122880) then some (bits w0 0 17) else none

/-- R247, step 1: the lines of a tile operand that is read: the rows' lines and the scale lines carry one tag each, and then the tags are
TAG and I8. -/
def Who.checkTile (w : Who) (d : TileDesc) : Except Nat Unit := do
  let scaled := d.se && d.rows != 0
  w.checkLines d.firstLine d.lineCount (fun _ => true)
  if scaled then w.checkLines (d.sclOff / 128) d.scaleLines (fun _ => true) else .ok ()
  w.checkLines d.firstLine d.lineCount (· == d.tag)
  if scaled then w.checkLines (d.sclOff / 128) d.scaleLines (· == Tg.i8) else .ok ()

/-- R247, step 2: the lines of an accumulator that is read. -/
def Who.checkAcc (w : Who) (off : Nat) : Except Nat Unit :=
  w.checkLines (off / 128) 64 (fun t => t == Tg.a56i || t == Tg.a56f)

/-- R50: a byte of a tile or its scale lines lies past the requested lines. -/
def Who.tileBeyond (w : Who) (d : TileDesc) : Bool :=
  decide (w.g.lines * 128 < d.off + d.rows * d.rowBytes) || (d.se && w.beyond (d.sclOff / 128) d.scaleLines)

/-- R50 for an accumulator. -/
def Who.accBeyond (w : Who) (off : Nat) : Bool := w.beyond (off / 128) 64

/-- Lanes of a mask that own a row of a tile (R34). -/
def rowLanes (m : Mask) (rows : Nat) : List Nat := (Mask.lanes m).filter (· < rows)

/-- Bytes as elements of a tile's tag. -/
def elemsOfBytes (t : Nat) (bs : List Byte) : List Nat :=
  (List.range (bs.length / Tg.bytes t)).map (fun i => leField bs (i * Tg.bytes t) (Tg.bytes t))

/-- Elements of a tile's tag as bytes. -/
def bytesOfElems (t : Nat) (es : List Nat) : List Byte := es.flatMap (fun e => leBytes e (Tg.bytes t))

/-- R254: the bytes of a row through a tile's gauge: bytes, hits, flags. A BPp tile has none. -/
def gaugeRow (g : Option Gauge) (t : Nat) (bs : List Byte) : List Byte × Nat × BitVec 9 :=
  match g with
  | none => (bs, 0, 0)
  | some g =>
    if Tg.bp t then (bs, 0, 0)
    else
      let ys := (elemsOfBytes t bs).map (g.check t)
      (bytesOfElems t (ys.map Prod.fst), ys.foldl (fun n y => n + y.2.1) 0, ys.foldl (fun f y => f ||| y.2.2) 0)

/-- R253, R254: the gauge of a tile as read at issue. -/
def State.tileGauge (s : State) (core : Nat) (d : TileDesc) : Option Gauge :=
  if d.gauge = 0 then none else some (s.gauge core d.gauge)

/-- Writes rows of a tile through its gauge and tags its lines (R82, R254): nothing where no row is given. -/
def State.writeRows (s : State) (core slot : Nat) (d : TileDesc) (g : Option Gauge) (rows : List (Nat × List Byte)) : State :=
  if rows.isEmpty then s
  else
    let ys := rows.map (fun r => (r.1, gaugeRow g d.tag r.2))
    let s1 := s.addHits core slot d.gauge (ys.foldl (fun n y => n + y.2.2.1) 0)
    s1.updGroup core slot (fun gr =>
      ((ys.foldl (fun gr y => gr.setBytes (d.rowAt y.1) y.2.1) gr).setTags d.firstLine d.lineCount d.tag).orFlags
        (ys.foldl (fun f y => f ||| y.2.2.2) 0))

-- TDESC.

/-- R256: TDESC. -/
def tdescPlan (f : FmtT) (w : Who) : Except Nat Plan :=
  let x := w.g.line f.y.toNat
  let isAcc := f.mod == 1
  let shown := decide (f.y.toNat < w.g.lines)
  let tile := parseTile (descWord x 0) (descWord x 1) (descWord x 2) (descWord x 3)
  let acc := parseAcc (descWord x 0)
  match (do
      w.checkLines f.y.toNat 1 Tg.word
      failIf (shown && (if isAcc then acc.isNone else tile.isNone)) Cause.tileShape : Except Nat Unit) with
  | .error c => .error c
  | .ok _ => .ok {
      oob := w.beyond f.y.toNat 1,
      commit := fun cm s =>
        if cm = 0 then s
        else s.updGroup w.core w.slot (fun g =>
          if isAcc then { g with accs := Table.setD g.accs 0 f.x.toNat (acc.getD 0) }
          else { g with tiles := Table.setD g.tiles TileDesc.zero f.x.toNat (tile.getD TileDesc.zero) }) }

def execTdesc (f : FmtT) (s : State) : Host.Outcome State Fault Refusal :=
  s.issue (.tdesc f) f.g 1 (tdescPlan f)

-- Rows to and from memory.

/-- R257: the accesses of a lane: its row, and with SC its scale bytes. -/
def rowAccs (s : State) (w : Who) (f : FmtT) (d : TileDesc) (l : Nat) : List (Nat × Nat × Nat) :=
  (l, w.dword s f.y l, d.rowBytes)
    :: (if f.mod.getLsbD 3 then [(l, w.dword s f.z l, (d.k + 31) / 32)] else [])

/-- The checks that TLOAD and TSTORE share (R246, R257). -/
def rowCheck (store : Bool) (f : FmtT) (w : Who) : Except Nat Unit := do
  let d := w.g.tile f.x.toNat
  if store then w.checkTile d else .ok ()
  w.checkLines f.y.toNat 2 Tg.dword
  if f.mod.getLsbD 3 then w.checkLines f.z.toNat 2 Tg.dword else .ok ()
  failIf (d.rows == 0 || (f.mod.getLsbD 3 && !d.se)) Cause.tileShape

/-- R50 for TLOAD and TSTORE. -/
def rowBeyond (f : FmtT) (w : Who) : Bool :=
  w.tileBeyond (w.g.tile f.x.toNat) || w.beyond f.y.toNat 2 || (f.mod.getLsbD 3 && w.beyond f.z.toNat 2)

/-- R257: TLOAD. -/
def tloadPlan (s : State) (f : FmtT) (w : Who) : Except Nat Plan :=
  let d := w.g.tile f.x.toNat
  match rowCheck false f w with
  | .error c => .error c
  | .ok _ =>
    let accs := (rowLanes (w.act f.g) d.rows).flatMap (rowAccs s w f d)
    let fails := firstFails (s.probeLoads w false accs)
    .ok {
      oob := rowBeyond f w,
      fails := fails,
      leaves := true,
      asks := s.asksFor none w fails accs,
      commit := fun cm s' =>
        let ls := rowLanes cm d.rows
        let r := s'.loadLanes w (ls.flatMap (rowAccs s w f d)) (f.mod.toNat % 8)
        match r.2.flatMap (fun v => v.2.2.2) with
        | p :: ps => r.1.consume w.ctx (p :: ps)
        | [] =>
          let s1 := r.1.raise w.core w.slot (r.2.foldl (fun m v => max m v.2.2.1) 0)
          let rowOf : Nat → List Byte := fun l => ((r.2.find? (fun v => v.1 == l && v.2.1.length == d.rowBytes)).map (fun v => v.2.1)).getD []
          let scales : Nat → List Byte := fun l => ((r.2.filter (fun v => v.1 == l)).getLast?.map (fun v => v.2.1)).getD []
          if f.mod.getLsbD 3 then
            ls.foldl (fun s' l =>
              (s'.writeRows w.core w.slot d (s.tileGauge w.core d) [(l, rowOf l)]).updGroup w.core w.slot (fun g =>
                (g.setBytes (d.sclOff + d.stride * l) (scales l)).setTags (d.sclOff / 128) d.scaleLines Tg.i8)) s1
          else s1.writeRows w.core w.slot d (s.tileGauge w.core d) (ls.map (fun l => (l, rowOf l))) }

def execTload (f : FmtT) (s : State) : Host.Outcome State Fault Refusal :=
  s.issue (.tload f) f.g 1 (tloadPlan s f)

/-- R257: TSTORE. -/
def tstorePlan (s : State) (f : FmtT) (w : Who) : Except Nat Plan :=
  let d := w.g.tile f.x.toNat
  match rowCheck true f w with
  | .error c => .error c
  | .ok _ =>
    let accs := (rowLanes (w.act f.g) d.rows).flatMap (rowAccs s w f d)
    let fails := firstFails (s.probeStores w .store false [] accs)
    .ok {
      oob := rowBeyond f w,
      fails := fails,
      leaves := true,
      stores := true,
      asks := s.asksFor (some .plain) w fails accs,
      commit := fun cm s' => s'.storeLanes .plain w (f.mod.toNat % 8) ((rowLanes cm d.rows).flatMap (fun l =>
        (l, w.dword s f.y l, w.g.bytes (d.rowAt l) d.rowBytes)
          :: (if f.mod.getLsbD 3 then
                [(l, w.dword s f.z l, w.g.bytes (d.sclOff + d.stride * l) ((d.k + 31) / 32))] else []))) }

def execTstore (f : FmtT) (s : State) : Host.Outcome State Fault Refusal :=
  s.issue (.tstore f) f.g 1 (tstorePlan s f)

-- Rows to and from handles.

/-- R258: where a lane's row stands in a handle's storage, if the handle is good for it. -/
def Who.handleRow (s : State) (w : Who) (f : FmtT) (d : TileDesc) (l : Nat) : Option Nat :=
  match s.handleOf w.core w.g.tid w.t (w.word s f.y l) with
  | none => none
  | some e =>
    let r := signed 32 (w.word s f.z l)
    let c := signed 32 (w.word s f.q l)
    let m := d.rowBytes / e.2.es
    if d.rowBytes % e.2.es = 0 && decide (0 ≤ r) && decide (r < e.2.rows) && decide (0 ≤ c) && decide (c + m ≤ e.2.cols) then
      some (e.1 / 256 * 2 ^ 19 + e.2.base + (r.toNat * e.2.cols + c.toNat) * e.2.es)
    else none

/-- The plan that TFROMH and TTOH share. -/
def handleRowPlan (store : Bool) (s : State) (f : FmtT) (w : Who) (commit : TileDesc → List Nat → State → State) : Except Nat Plan :=
  let d := w.g.tile f.x.toNat
  match (do
      if store then w.checkTile d else .ok ()
      w.checkLines f.y.toNat 1 Tg.word
      w.checkLines f.z.toNat 1 Tg.word
      w.checkLines f.q.toNat 1 Tg.word
      failIf (d.rows == 0) Cause.tileShape : Except Nat Unit) with
  | .error c => .error c
  | .ok _ => .ok {
      oob := w.tileBeyond d || w.beyond f.y.toNat 1 || w.beyond f.z.toNat 1 || w.beyond f.q.toNat 1,
      fails := ((rowLanes (w.act f.g) d.rows).filter (fun l => (w.handleRow s f d l).isNone)).map (fun l => (l, { cause := Cause.handle })),
      stores := store,
      commit := fun cm s' => commit d (rowLanes cm d.rows) s' }

/-- R181, R208, R258: TFROMH. -/
def tfromhPlan (s : State) (f : FmtT) (w : Who) : Except Nat Plan :=
  handleRowPlan false s f w (fun d ls s' =>
    let rows := ls.map (fun l => (l, s'.readHandle w.core w.slot ((w.handleRow s f d l).getD 0) d.rowBytes))
    (s'.raise w.core w.slot (rows.foldl (fun m r => max m r.2.2) 0)).writeRows w.core w.slot d (s.tileGauge w.core d)
      (rows.map (fun r => (r.1, r.2.1))))

def execTfromh (f : FmtT) (s : State) : Host.Outcome State Fault Refusal :=
  s.issue (.tfromh f) f.g 1 (tfromhPlan s f)

/-- R258: TTOH. -/
def ttohPlan (s : State) (f : FmtT) (w : Who) : Except Nat Plan :=
  handleRowPlan true s f w (fun d ls s' => ls.foldl (fun s' l =>
    s'.storeHandle w l (Hd.level (w.word s f.y l)) ((w.handleRow s f d l).getD 0) (w.g.bytes (d.rowAt l) d.rowBytes)) s')

def execTtoh (f : FmtT) (s : State) : Host.Outcome State Fault Refusal :=
  s.issue (.ttoh f) f.g 1 (ttohPlan s f)

/-- R259: TZERO. -/
def tzeroPlan (s : State) (f : FmtT) (w : Who) : Except Nat Plan :=
  let d := w.g.tile f.x.toNat
  if d.rows = 0 || (f.mod == 1 && !d.se) then .error Cause.tileShape
  else .ok {
    oob := w.tileBeyond d,
    commit := fun cm s' =>
      let ls := rowLanes cm d.rows
      let s1 := s'.writeRows w.core w.slot d (s.tileGauge w.core d) (ls.map (fun l => (l, List.replicate d.rowBytes 0)))
      if f.mod == 1 && !ls.isEmpty then
        s1.updGroup w.core w.slot (fun g =>
          (ls.foldl (fun g l => g.setBytes (d.sclOff + d.stride * l) (List.replicate d.stride 0)) g).setTags
            (d.sclOff / 128) d.scaleLines Tg.i8)
      else s1 }

def execTzero (f : FmtT) (s : State) : Host.Outcome State Fault Refusal :=
  s.issue (.tzero f) f.g 1 (tzeroPlan s f)

-- The engine's queue.

/-- R252: a matrix instruction joins the queue of its core. -/
def State.enqueueMatrix (s : State) (w : Who) (i : Instr) (rows : Mask) (g : Option Gauge) : State :=
  { s with mq := Table.put s.mq w.core (Table.getD s.mq [] w.core ++ [⟨w.slot, i, rows, g, w.f.iaddr, s.fragId w.core w.fi⟩]) }

/-- R248: the pairings of MMA: the accumulator's tag and the chunk. -/
def mmaPairing (a b : TileDesc) : Option (Nat × Nat) :=
  if (a.tag == 1 || Tg.bp a.tag) && !a.se && b.tag == 1 && !b.se then some (Tg.a56i, 32)
  else if Tg.bp a.tag && a.se && b.tag == 1 && b.se then some (Tg.a56f, 32)
  else if (a.tag == 13 || a.tag == 14) && a.se && (b.tag == 13 || b.tag == 14) && b.se then some (Tg.a56f, 32)
  else if a.tag == 9 && b.tag == 9 && !a.se && !b.se then some (Tg.a56f, 32)
  else if a.tag == 10 && b.tag == 10 && !a.se && !b.se then some (Tg.a56f, 32)
  else if a.tag == 11 && b.tag == 11 && !a.se && !b.se then some (Tg.a56f, 8)
  else none

/-- R260: MMA issues. -/
def mmaPlan (f : FmtT) (w : Who) : Except Nat Plan :=
  let a := w.g.tile f.y.toNat
  let b := w.g.tile f.z.toNat
  let off := w.g.acc f.x.toNat
  let accTag := if off / 128 < w.g.lines then some (w.g.tag (off / 128)) else none
  match (do
      w.checkTile a
      w.checkTile b
      w.checkAcc off
      failIf (a.rows == 0 || b.rows == 0 || a.k != b.k || (match mmaPairing a b with
        | none => true
        | some p => accTag.isSome && accTag != some p.1)) Cause.tileShape : Except Nat Unit) with
  | .error c => .error c
  | .ok _ => .ok {
      oob := w.tileBeyond a || w.tileBeyond b || w.accBeyond off,
      commit := fun cm s => s.enqueueMatrix w (.mma f) cm none }

def execMma (f : FmtT) (s : State) : Host.Outcome State Fault Refusal :=
  s.issue (.mma f) f.g 1 (mmaPlan f)

/-- R262: word `i` of DRAIN's parameters. -/
def drainWord (g : Group) (f : FmtT) (i : Nat) : Nat := descWord (g.line f.q.toNat) i

/-- R263: DRAIN issues. -/
def drainPlan (s : State) (f : FmtT) (w : Who) : Except Nat Plan :=
  let d := w.g.tile f.y.toNat
  let r := w.g.tile f.z.toNat
  let off := w.g.acc f.x.toNat
  let res := f.mod.getLsbD 0
  let shown := decide (f.q.toNat < w.g.lines)
  match (do
      failIf (shown && f.mod.getLsbD 1 && bits (drainWord w.g f 8) 24 8 != 0) Cause.illegalField
      if res then w.checkTile r else .ok ()
      w.checkAcc off
      w.checkLines f.q.toNat 1 (fun t => Tg.word t || t == Tg.f32)
      failIf (d.rows == 0 || Tg.bp d.tag || d.se || decide (32 < d.k)
        || (res && (r.rows != d.rows || r.k != d.k || !(r.tag == 9 || r.tag == 10 || r.tag == 11)))) Cause.tileShape
      : Except Nat Unit) with
  | .error c => .error c
  | .ok _ => .ok {
      oob := w.tileBeyond d || (res && w.tileBeyond r) || w.accBeyond off || w.beyond f.q.toNat 1,
      commit := fun cm s' => s'.enqueueMatrix w (.drain f) cm (s.tileGauge w.core d) }

def execDrain (f : FmtT) (s : State) : Host.Outcome State Fault Refusal :=
  s.issue (.drain f) f.g 1 (drainPlan s f)

/-- R265: TTRANS issues. -/
def ttransPlan (s : State) (f : FmtT) (w : Who) : Except Nat Plan :=
  let d := w.g.tile f.x.toNat
  let a := w.g.tile f.y.toNat
  match (do
      w.checkTile a
      failIf (d.rows == 0 || a.rows == 0 || d.tag != a.tag || Tg.bp d.tag || decide (a.k < d.rows) || decide (a.rows < d.k))
        Cause.tileShape : Except Nat Unit) with
  | .error c => .error c
  | .ok _ => .ok {
      oob := w.tileBeyond d || w.tileBeyond a,
      commit := fun cm s' => s'.enqueueMatrix w (.ttrans f) cm (s.tileGauge w.core d) }

def execTtrans (f : FmtT) (s : State) : Host.Outcome State Fault Refusal :=
  s.issue (.ttrans f) f.g 1 (ttransPlan s f)

-- What the engine does.

/-- R249: element `e` of row `i` of a tile by its tag. -/
def Group.tileVal (g : Group) (d : TileDesc) (i e : Nat) : FV :=
  if Tg.bp d.tag then
    let p := Tg.planes d.tag
    let c := if d.planes = 0 then p else d.planes
    let q := (List.range c).foldl (fun y t =>
      y + bits (g.byte (d.rowAt i + t * (d.k / 8) + e / 8)).toNat (e % 8) 1 * 2 ^ (7 - t)) 0
    FV.ofInt (planeValue c q)
  else valueOf d.tag (Tg.width d.tag) (leNat (g.bytes (d.rowAt i + e * Tg.bytes d.tag) (Tg.bytes d.tag)))

/-- R249: the scale of block `b` of row `i`. -/
def Group.tileScale (g : Group) (d : TileDesc) (i b : Nat) : Int :=
  if d.se then signed 8 (g.byte (d.sclOff + d.stride * i + b)).toNat else 0

/-- The bits [55:0] of an accumulator's slot (R105). -/
def Group.accSlot (g : Group) (off i j : Nat) : Nat := leNat (g.bytes (off + 256 * i + 8 * j) 8) % 2 ^ 56

/-- R105: the value of an accumulator's slot by its tag. -/
def accValue (t x : Nat) : FV := if t = 22 then FV.ofInt (signed 56 x) else A56F.value x

/-- R249, R250: the chunk sum of elements `e0` to `e1` - 1 of row `i` of A and row `j` of B, with its flags. -/
def chunkSum (g : Group) (a b : TileDesc) (i j e0 e1 : Nat) : FV × BitVec 9 :=
  let ps := (List.range (e1 - e0)).map (fun k =>
    let x := g.tileVal a i (e0 + k)
    let y := g.tileVal b j (e0 + k)
    let p := x.mul y
    (p.1, p.2 ||| (if x.isSnan || y.isSnan then AF.invalid else 0)))
  let s := FV.sum (ps.map Prod.fst)
  (s.v.scale (g.tileScale a i (e0 / 32) + g.tileScale b j (e0 / 32)), ps.foldl (fun f p => f ||| p.2) s.flags)

/-- R105: an integer accumulated under saturation. -/
def sat56 (x : Int) : Int × BitVec 9 :=
  if 2 ^ 55 - 1 < x then (2 ^ 55 - 1, AF.accSat) else if x < -(2 ^ 55) then (-(2 ^ 55), AF.accSat) else (x, 0)

/-- A value as an integer. -/
def FV.toInt : FV → Int
  | .fin n m e => let x : Int := (m * 2 ^ e.toNat : Nat); if n then -x else x
  | _ => 0

/-- R249: a chunk sum is added to a slot: the new slot and the flags. -/
def accumulate (t slot : Nat) (s : FV) : Nat × BitVec 9 :=
  if t = 22 then
    let r := sat56 (signed 56 slot + s.toInt)
    (wrap 56 r.1, r.2)
  else
    let v := A56F.value slot
    let r := v.add s
    let y := A56F.roundFV 1 r.1
    (y.1, y.2 ||| r.2 ||| (if v.isSnan then AF.invalid else 0))

/-- R249: a slot after every chunk of a row, and the flags. -/
def mmaSlot (g : Group) (a b : TileDesc) (t chunk i j : Nat) : Nat → Nat → Nat × BitVec 9 → Nat × BitVec 9
  | 0, _, acc => acc
  | n + 1, e0, acc =>
    let s := chunkSum g a b i j e0 (min a.k (e0 + chunk))
    let r := accumulate t acc.1 s.1
    mmaSlot g a b t chunk i j n (e0 + chunk) (r.1, acc.2 ||| s.2 ||| r.2)

/-- R251: the chunks whose two residues differ: a fault of the hardware, and so a free choice for each chunk (log entry 14). -/
def State.residueFaults (s : State) (rows : List Nat) (cols chunks : Nat) : List (Nat × Nat × Nat) :=
  (rows.flatMap (fun i => (List.range cols).flatMap (fun j => (List.range chunks).map (fun c => (i, j, c))))).filter (fun e =>
    (Config.free (s.free + ((e.1 * 32 + e.2.1) * 48 + e.2.2))).toNat % 2 == 1)

/-- R251: one mismatch: the flag, the record, and the report to the service cores. -/
def State.residueRecord (s : State) (core ctx : Nat) (m : MatrixOp) (acc : Nat) (e : Nat × Nat × Nat) : State :=
  let r := { s.blank ctx Cause.residue with
    core := core, slot := m.slot, frag := m.frag, mask := Mask.one e.1, fpc := m.fpc,
    detail := BitVec.ofNat 128 (acc + 256 * e.1 + 65536 * e.2.1 + 2 ^ 24 * e.2.2) }
  ((s.updGroup core m.slot (fun g => g.orFlags AF.residue)).report r).log r

/-- R249 to R251, R260: an MMA that the engine performs. -/
def State.performMma (s : State) (core ctx : Nat) (m : MatrixOp) (f : FmtT) (g : Group) : State :=
  let a := g.tile f.y.toNat
  let b := g.tile f.z.toNat
  let off := g.acc f.x.toNat
  let t := g.tag (off / 128)
  let chunk := match mmaPairing a b with
    | some p => p.2
    | none => 32
  let rows := rowLanes m.rows a.rows
  let n := (a.k + chunk - 1) / chunk
  let out := rows.flatMap (fun i => (List.range b.rows).map (fun j => (i, j, mmaSlot g a b t chunk i j n 0 (g.accSlot off i j, 0))))
  let s1 := s.updGroup core m.slot (fun g =>
    (out.foldl (fun g o => g.setBytes (off + 256 * o.1 + 8 * o.2.1) (leBytes o.2.2.1 8)) g).orFlags
      (out.foldl (fun fl o => fl ||| o.2.2.2) 0))
  let bad := s.residueFaults rows b.rows n
  let s2 := { s1 with free := s1.free + 32 * 32 * 48 }
  bad.foldl (fun s e => s.residueRecord core ctx m f.x.toNat e) s2

/-- R263: the dropout hash of a global row and column. -/
def drainHash (key step row col : Nat) : Nat :=
  let m : Nat → Nat := (· % 2 ^ 64)
  let z := m (key + step * 0x9E3779B97F4A7C15 + (row * 2 ^ 32 ||| col))
  let z := m ((z ^^^ (z / 2 ^ 30)) * 0xBF58476D1CE4E5B9)
  let z := m ((z ^^^ (z / 2 ^ 27)) * 0x94D049BB133111EB)
  z ^^^ (z / 2 ^ 31)

/-- Rounds an exact result of values to F32 under RNE, with the flags of R100 and R106 (R263). -/
def toF32 (r : FV × BitVec 9) (ins : List FV) : Nat × BitVec 9 :=
  let y := F32.roundFV 1 r.1
  (y.1, y.2 ||| r.2 ||| (if ins.any FV.isSnan then AF.invalid else 0))

/-- R263: one element of DRAIN: its encoding in the destination's tag, hits and flags. -/
def drainElem (g : Group) (f : FmtT) (gauge : Option Gauge) (i j : Nat) : Nat × Nat × BitVec 9 :=
  let d := g.tile f.y.toNat
  let off := g.acc f.x.toNat
  let p := drainWord g f
  let a := accValue (g.tag (off / 128)) (g.accSlot off i j)
  let scale := F32.value (p 0)
  let y1 := toF32 (a.mul scale) [a, scale]
  let row := (p 6 + i) % 2 ^ 32
  let col := (p 7 + j) % 2 ^ 32
  let y2 :=
    if f.mod.getLsbD 1 then
      if bits (p 8) 0 24 ≤ drainHash (p 2 + 2 ^ 32 * p 3) (p 4 + 2 ^ 32 * p 5) row col / 2 ^ 40 then
        let keep := F32.value (p 1)
        let r := toF32 ((F32.value y1.1).mul keep) [keep]
        (r.1, r.2 ||| y1.2)
      else (0, y1.2)
    else y1
  let y3 :=
    if f.mod.getLsbD 0 then
      let res := g.tileVal (g.tile f.z.toNat) i j
      let r := toF32 ((F32.value y2.1).add res) [res]
      (r.1, r.2 ||| y2.2)
    else y2
  let y4 := match gauge with
    | none => (y3.1, 0, 0)
    | some gg => gg.check Tg.f32 y3.1
  let y5 := convert Tg.f32 d.tag (g.rm (bits f.mod.toNat 2 2)) (g.ftz && Tg.flt d.tag) y4.1
  (y5.1, y4.2.1, y3.2 ||| y4.2.2 ||| y5.2)

/-- R263: a DRAIN that the engine performs. -/
def State.performDrain (s : State) (core : Nat) (m : MatrixOp) (f : FmtT) (g : Group) : State :=
  let d := g.tile f.y.toNat
  let rows := (rowLanes m.rows d.rows).map (fun i => (i, (List.range d.k).map (drainElem g f m.gauge i)))
  let s1 := s.addHits core m.slot d.gauge (rows.foldl (fun n r => r.2.foldl (fun n e => n + e.2.1) n) 0)
  let s2 := s1.writeRows core m.slot d none (rows.map (fun r => (r.1, bytesOfElems d.tag (r.2.map Prod.fst))))
  s2.updGroup core m.slot (fun g => g.orFlags (rows.foldl (fun fl r => r.2.foldl (fun fl e => fl ||| e.2.2) fl) 0))

/-- R265: a TTRANS that the engine performs. -/
def State.performTtrans (s : State) (core : Nat) (m : MatrixOp) (f : FmtT) (g : Group) : State :=
  let d := g.tile f.x.toNat
  let a := g.tile f.y.toNat
  let n := Tg.bytes d.tag
  s.writeRows core m.slot d m.gauge ((rowLanes m.rows d.rows).map (fun i =>
    (i, (List.range d.k).flatMap (fun j => g.bytes (a.rowAt j + i * n) n))))

/-- R252: the engine of a core performs a queued instruction; one whose group is gone does nothing. -/
def State.performMatrix (s : State) (core : Nat) (m : MatrixOp) : State :=
  match s.group? core m.slot with
  | none => s
  | some g =>
    match Table.find s.teams g.tid with
    | none => s
    | some t =>
      match m.instr with
      | .mma f => s.performMma core t.ctx m f g
      | .drain f => s.performDrain core m f g
      | .ttrans f => s.performTtrans core m f g
      | _ => s

/-- R252: the engine of a core takes its next instruction and performs it. -/
def State.engineStep (s : State) (core : Nat) : State :=
  match Table.getD s.mq [] core with
  | [] => s
  | m :: t => ({ s with mq := Table.setD s.mq [] core t } : State).performMatrix core m

def execMatrixEngineIssue (core : Nat) (s : State) : Host.Outcome State Fault Refusal := .next (s.engineStep core)

-- Accumulator rows.

/-- R261: ACCZ. -/
def acczPlan (f : FmtT) (w : Who) : Except Nat Plan :=
  let off := w.g.acc f.x.toNat
  .ok {
    oob := w.accBeyond off,
    commit := fun cm s =>
      if cm = 0 then s
      else s.updGroup w.core w.slot (fun g =>
        ((Mask.lanes cm).foldl (fun g i => g.setBytes (off + 256 * i) (List.replicate 256 0)) g).setTags (off / 128) 64
          (if f.mod == 1 then Tg.a56f else Tg.a56i)) }

def execAccz (f : FmtT) (s : State) : Host.Outcome State Fault Refusal :=
  s.issue (.accz f) f.g 1 (acczPlan f)

/-- R264: what ACCGET's kinds write for a slot: the slots and the flags. -/
def accgetSlot (kind t rm : Nat) (ftz : Bool) (x : Nat) : List Slot × BitVec 9 :=
  match kind with
  | 0 => ([BitVec.ofNat 32 x, BitVec.ofNat 32 (x / 2 ^ 32)], 0)
  | 1 =>
    let v := accValue t x
    let r := flush F32 ftz (F32.roundFV rm v)
    ([BitVec.ofNat 32 r.1], r.2 ||| (if v.isSnan then AF.invalid else 0))
  | _ =>
    if t = 22 then let r := storeInt Tg.i32 true (signed 56 x); ([BitVec.ofNat 32 r.1], r.2)
    else
      let v := accValue t x
      let r := toInt Tg.i32 rm v
      ([BitVec.ofNat 32 r.1], r.2)

/-- R264: ACCGET. -/
def accgetPlan (f : FmtT) (w : Who) : Except Nat Plan :=
  let off := w.g.acc f.y.toNat
  let kind := f.mod.toNat % 4
  let cnt := if kind = 0 then 64 else 32
  let t := w.g.tag (off / 128)
  match w.checkAcc off with
  | .error c => .error c
  | .ok _ => .ok {
      oob := w.beyond f.x.toNat cnt || w.accBeyond off,
      commit := fun cm s =>
        let out := (Mask.lanes cm).map (fun i =>
          (i, (List.range 32).map (fun j => accgetSlot kind t (w.g.rm (bits f.mod.toNat 2 2)) w.g.ftz (w.g.accSlot off i j))))
        s.updGroup w.core w.slot (fun g =>
          (g.writeLines f.x.toNat (match kind with | 0 => t | 1 => Tg.f32 | _ => Tg.i32)
            (out.map (fun o => (o.1, o.2.flatMap Prod.fst))) cnt).orFlags
            (out.foldl (fun fl o => o.2.foldl (fun fl r => fl ||| r.2) fl) 0)) }

def execAccget (f : FmtT) (s : State) : Host.Outcome State Fault Refusal :=
  s.issue (.accget f) f.g 1 (accgetPlan f)

/-- R264: the tags that ACCPUT's kinds take. -/
def accputOk (kind t : Nat) : Bool :=
  match kind with
  | 0 => t == Tg.a56i || t == Tg.a56f
  | 1 => t == Tg.f32
  | _ => t == Tg.i32 || t == Tg.n32

/-- R264: the slot that ACCPUT makes of its source's value. -/
def accputSlot (kind t x : Nat) : Nat × BitVec 9 :=
  match kind with
  | 0 => (x % 2 ^ 56, 0)
  | 1 => let v := F32.value x; ((A56F.roundFV 1 v).1, if v.isSnan then AF.invalid else 0)
  | _ => (wrap 56 (ival t 32 x), 0)

/-- R264: ACCPUT. -/
def accputPlan (f : FmtT) (w : Who) : Except Nat Plan :=
  let off := w.g.acc f.x.toNat
  let kind := f.mod.toNat
  let cnt := if kind = 0 then 64 else 32
  let n := f.y.toNat
  let t := w.g.tag n
  let src : Nat → Nat → Nat := fun i j =>
    if kind = 0 then ((w.g.line (n + 2 * j)).slot i).toNat + 2 ^ 32 * ((w.g.line (n + 2 * j + 1)).slot i).toNat
    else ((w.g.line (n + j)).slot i).toNat
  match w.checkLines n cnt (accputOk kind) with
  | .error c => .error c
  | .ok _ => .ok {
      oob := w.beyond n cnt || w.accBeyond off,
      commit := fun cm s =>
        if cm = 0 then s
        else
          let out := (Mask.lanes cm).flatMap (fun i => (List.range 32).map (fun j => (i, j, accputSlot kind t (src i j))))
          s.updGroup w.core w.slot (fun g =>
            ((out.foldl (fun g o => g.setBytes (off + 256 * o.1 + 8 * o.2.1) (leBytes o.2.2.1 8)) g).setTags (off / 128) 64
              (match kind with | 0 => t | 1 => Tg.a56f | _ => Tg.a56i)).orFlags (out.foldl (fun fl o => fl ||| o.2.2.2) 0)) }

def execAccput (f : FmtT) (s : State) : Host.Outcome State Fault Refusal :=
  s.issue (.accput f) f.g 1 (accputPlan f)

-- Gauges.

/-- R266: GSET. -/
def gsetPlan (f : FmtT) (w : Who) : Except Nat Plan :=
  let n := f.y.toNat
  let int := f.mod.getLsbD 2
  let lo := (w.g.line n).slot 0
  let hi := (w.g.line n).slot 1
  let shown := decide (n < w.g.lines)
  match (do
      failIf (shown && !int && ((F32.value lo.toNat).isNan || (F32.value hi.toNat).isNan)) Cause.illegalField
      w.checkLines n 1 (fun t => t == 0 || t == (if int then Tg.i32 else Tg.f32)) : Except Nat Unit) with
  | .error c => .error c
  | .ok _ => .ok {
      oob := w.beyond n 1,
      commit := fun cm s => if cm = 0 then s else s.setGauges w.core w.slot f.x.toNat ⟨lo, hi, int, f.mod.extractLsb' 0 2, 0⟩ }

def execGset (f : FmtT) (s : State) : Host.Outcome State Fault Refusal :=
  s.issue (.gset f) f.g 1 (gsetPlan f)

/-- R266: GGET's word for a lane. -/
def ggetWord (g : Gauge) (l : Nat) : Slot :=
  match l with
  | 0 => g.lo
  | 1 => g.hi
  | 2 => BitVec.ofNat 32 g.hits
  | 3 => BitVec.ofNat 32 (g.act.toNat + 4 * g.int.toNat)
  | _ => 0

/-- R266: GGET. -/
def ggetPlan (s : State) (f : FmtT) (w : Who) : Except Nat Plan :=
  .ok {
    oob := w.beyond f.x.toNat 1,
    commit := fun cm s' => s'.updGroup w.core w.slot (fun g =>
      g.writeSlots f.x.toNat 0 ((Mask.lanes cm).map (fun l => (l, ggetWord (s.gauge w.core f.y.toNat) l)))) }

def execGget (f : FmtT) (s : State) : Host.Outcome State Fault Refusal :=
  s.issue (.gget f) f.g 1 (ggetPlan s f)

end Sys2Proof.Machine
end

