-- ==== Sys2Proof/Machine/Control.lean ====
section
/-! DEFINITION. Machine/Control.lean: branches, barriers, mending and the class 0x7 instructions (R219 to R233, R320, R321). -/

namespace Sys2Proof.Machine

/-- The address of an iword that an offset in iwords from the instruction names (R222). -/
def Who.target (w : Who) (off : Int) : Nat := wrap 64 ((w.f.iaddr : Int) + 8 * off)

/-- OFF27 (R59). -/
def offC (x : BitVec 27) : Int := x.toInt

/-- R219: the lanes whose target fails. -/
def State.targetFails (s : State) (w : Who) (ts : List (Nat × Nat)) : List (Nat × LaneFail) :=
  ts.filterMap (fun e => (s.checkTarget w.core w.ctx e.2).map (fun f => (e.1, f)))

/-- The translations that the checks of targets and table entries used (R160). -/
def State.touchTargets (s : State) (w : Who) (as : List Nat) : State := as.foldl (fun s a => s.touch w.core w.ctx a false) s

/-- R220: the plan of a control instruction that sends each active lane to a target. -/
def jumpPlan (s : State) (w : Who) (ts : List (Nat × Nat)) : Plan where
  fails := s.targetFails w ts
  commit := fun cm s' => s'.touchTargets w ((ts.filter (fun e => cm.getLsbD e.1)).map Prod.snd)
  flow := .jump ts

/-- R222: BR. -/
def brPlan (s : State) (f : FmtC) (w : Who) : Except Nat Plan :=
  .ok (jumpPlan s w ((Mask.lanes (w.act f.g)).map (fun l => (l, w.target (offC f.off)))))

def execBr (f : FmtC) (s : State) : Host.Outcome State Fault Refusal :=
  s.issue (.br f) f.g 1 (brPlan s f)

/-- R59, R223: a pair of BRM selects a lane. -/
def brmSelects (g : Group) (p : BitVec 32) (l : Nat) : Bool := (g.guard ⟨p.getLsbD 31, p.extractLsb' 27 4⟩).getLsbD l

/-- R223: the offset that a lane of BRM takes. -/
def brmOffset (g : Group) (dflt : Int) (l : Nat) : List (BitVec 32) → Int
  | [] => dflt
  | p :: t => if brmSelects g p l then offC (p.extractLsb' 0 27) else brmOffset g dflt l t

/-- R223: BRM. -/
def brmPlan (s : State) (f : FmtC) (e0 e1 : Iword) (w : Who) : Except Nat Plan :=
  let ps := [e0.extractLsb' 0 32, e0.extractLsb' 32 32, e1.extractLsb' 0 32, e1.extractLsb' 32 32]
  .ok (jumpPlan s w ((Mask.lanes (w.act f.g)).map (fun l => (l, w.target (brmOffset w.g (offC f.off) l ps)))))

def execBrm (f : FmtC) (e0 e1 : Iword) (s : State) : Host.Outcome State Fault Refusal :=
  s.issue (.brm f e0 e1) f.g 3 (brmPlan s f e0 e1)

/-- R224: the index of a lane of JTAB: signed where the line carries I32. -/
def jtabIndex (s : State) (f : FmtC) (w : Who) (l : Nat) : Int :=
  let x := w.word s f.reg l
  if w.srcTag 0 f.reg = some Tg.i32 then signed 32 x else x

/-- R224: what a lane of JTAB finds: a failure, or the addresses of its table entry and of its target. -/
def jtabLane (s : State) (f : FmtC) (w : Who) (l : Nat) : Except LaneFail (Nat × Nat) :=
  let k := jtabIndex s f w l
  let a := wrap 64 ((w.target (offC f.off) : Int) + 8 * k)
  if k < 0 || (f.aux.toNat : Int) ≤ k then .error { cause := Cause.tableRange }
  else
    match s.fetchFail w.core w.ctx a with
    | some e => .error { e with fetch := false }
    | none =>
      let t := (s.fetchWord w.core w.ctx a).toNat
      match s.checkTarget w.core w.ctx t with
      | some e => .error e
      | none => .ok (a, t)

/-- R224: JTAB. -/
def jtabPlan (s : State) (f : FmtC) (w : Who) : Except Nat Plan :=
  match w.checkSrc (w.act f.g) f.reg 1 Tg.word with
  | .error c => .error c
  | .ok _ =>
    let rs := (Mask.lanes (w.act f.g)).map (fun l => (l, jtabLane s f w l))
    let good := rs.filterMap (fun r => match r.2 with | .ok x => some (r.1, x) | .error _ => none)
    .ok {
      oob := w.beyondField f.reg 1,
      fails := rs.filterMap (fun r => match r.2 with | .ok _ => none | .error e => some (r.1, e)),
      commit := fun cm s' => s'.touchTargets w ((good.filter (fun e => cm.getLsbD e.1)).flatMap (fun e => [e.2.1, e.2.2])),
      flow := .jump (good.map (fun e => (e.1, e.2.2))) }

def execJtab (f : FmtC) (s : State) : Host.Outcome State Fault Refusal :=
  s.issue (.jtab f) f.g 1 (jtabPlan s f)

/-- R225: a jump to the address in a pair. -/
def jindPlan (s : State) (f : FmtC) (w : Who) : Except Nat Plan :=
  match w.checkSrc (w.act f.g) f.reg 2 Tg.dword with
  | .error c => .error c
  | .ok _ => .ok { jumpPlan s w ((Mask.lanes (w.act f.g)).map (fun l => (l, w.dword s f.reg l))) with oob := w.beyondField f.reg 2 }

def execJind (f : FmtC) (s : State) : Host.Outcome State Fault Refusal :=
  s.issue (.jind f) f.g 1 (jindPlan s f)

def execRet (f : FmtC) (s : State) : Host.Outcome State Fault Refusal :=
  s.issue (.ret f) f.g 1 (jindPlan s f)

/-- R226: CALL. -/
def callPlan (s : State) (f : FmtC) (w : Who) : Except Nat Plan :=
  let p := jumpPlan s w ((Mask.lanes (w.act f.g)).map (fun l => (l, w.target (offC f.off))))
  .ok { p with
    oob := w.beyondField f.reg 2,
    commit := fun cm s' => (p.commit cm s').writeDst w f.reg Tg.n64 true ((Mask.lanes cm).map (fun l => (l, w.f.fallThrough))) }

def execCall (f : FmtC) (s : State) : Host.Outcome State Fault Refusal :=
  s.issue (.call f) f.g 1 (callPlan s f)

/-- R227: EXIT. -/
def exitPlan (_ : Who) : Except Nat Plan := .ok { flow := .gone }

def execExit (f : FmtC) (s : State) : Host.Outcome State Fault Refusal :=
  s.issue (.exit f) f.g 1 exitPlan

/-- R25, R229, R230: a barrier instruction: a release at the barrier's scope, the lanes arrive and sleep, and the barrier completes when
all have. A mending fragment may not run it. -/
def barPlan (key scope : Nat) (z : Sleep) (w : Who) : Except Nat Plan :=
  if w.f.mend then .error Cause.illegalOpcode
  else .ok {
    rel := some scope,
    commit := fun cm s => if cm = 0 then s
      else s.updGroup w.core w.slot (fun g => { g with arr := Table.setD g.arr 0 key (Table.getD g.arr 0 key ||| cm) }),
    flow := .sleep z,
    post := fun s => s.barriers w.g.tid }

def execBar (f : FmtC) (s : State) : Host.Outcome State Fault Refusal :=
  s.issue (.bar f) f.g 1 (barPlan f.aux.toNat 1 (.bar f.aux.toNat))

def execBarc (f : FmtC) (s : State) : Host.Outcome State Fault Refusal :=
  s.issue (.barc f) f.g 1 (barPlan 8 2 .barc)

/-- R22, R231: YIELD: the pass is over the other eligible fragments of the group. -/
def yieldPlan (s : State) (f : FmtC) (w : Who) : Except Nat Plan :=
  let others := ((s.fragsOf w.core w.slot).filter (fun e => e.1 != w.fi && e.2.eligible w.g)).map Prod.fst
  .ok {
    commit := fun cm s' => if cm = 0 || others.isEmpty then s'
      else s'.updGroup w.core w.slot (fun g => { g with passes := Table.put g.passes w.fi others }),
    post := fun s' =>
      if w.act f.g = 0 || ((s'.group? w.core w.slot).bind (·.run)) != some w.fi then s' else s'.select w.core w.slot }

def execYield (f : FmtC) (s : State) : Host.Outcome State Fault Refusal :=
  s.issue (.yield f) f.g 1 (yieldPlan s f)

/-- R232: REJOIN's target: its own, or what the remnant's RECONV copy names; none where that is zero. -/
def Who.rejoinTarget (w : Who) (f : FmtC) : Option Nat :=
  if f.off ≠ 0 then some (w.target (offC f.off))
  else if w.f.reconv = 0 then none
  else some (wrap 64 ((w.f.oblk : Int) + 8 * w.f.reconv.toInt))

/-- R232: REJOIN. -/
def rejoinPlan (s : State) (f : FmtC) (w : Who) : Except Nat Plan :=
  if !w.f.mend then .error Cause.illegalOpcode
  else
    match w.rejoinTarget f with
    | none => .ok { fails := (Mask.lanes (w.act f.g)).map (fun l => (l, { cause := Cause.badTarget })), flow := .rejoin 0 }
    | some t => .ok {
        fails := s.targetFails w ((Mask.lanes (w.act f.g)).map (fun l => (l, t))),
        commit := fun cm s' => if cm = 0 then s' else s'.touchTargets w [t],
        flow := .rejoin t }

def execRejoin (f : FmtC) (s : State) : Host.Outcome State Fault Refusal :=
  s.issue (.rejoin f) f.g 1 (rejoinPlan s f)

/-- MASK, N32, I32 or RAW (R228, R239). -/
def Tg.maskLine (t : Nat) : Bool := Tg.word t || t == Tg.mask

/-- R228: KILL. -/
def killPlan (s : State) (f : FmtC) (w : Who) : Except Nat Plan :=
  match w.checkSrc (w.act f.g) f.reg 1 Tg.maskLine with
  | .error c => .error c
  | .ok _ =>
    let m : Mask := match Mask.leader (w.act f.g) with
      | some l => BitVec.ofNat 32 (w.word s f.reg l)
      | none => 0
    let beyond := w.beyondField f.reg 1
    .ok {
      oob := beyond,
      post := fun s' => if beyond || m = 0 then s' else s'.exitLanes w.core w.slot m }

def execKill (f : FmtC) (s : State) : Host.Outcome State Fault Refusal :=
  s.issue (.kill f) f.g 1 (killPlan s f)

/-- R320: TFENCE: the flags that the group raises park its active lanes. -/
def tfencePlan (f : FmtC) (w : Who) : Except Nat Plan :=
  let p := w.g.raised
  if p = 0 then .ok {}
  else .ok {
    fails := (Mask.lanes (w.act f.g)).map (fun l => (l, { cause := Cause.arithBase + lowestFlag p })),
    aux := p.toNat }

def execTfence (f : FmtC) (s : State) : Host.Outcome State Fault Refusal :=
  s.issue (.tfence f) f.g 1 (tfencePlan f)

/-- R321: TRAP. -/
def trapPlan (s : State) (f : FmtC) (w : Who) : Except Nat Plan :=
  let l := (Mask.leader (w.act f.g)).getD 0
  .ok {
    oob := w.beyondField f.reg 1,
    fails := (Mask.lanes (w.act f.g)).map (fun l => (l, { cause := Cause.userBase + f.aux.toNat % 32 })),
    aux := w.word s f.reg l,
    leaves := true }

def execTrap (f : FmtC) (s : State) : Host.Outcome State Fault Refusal :=
  s.issue (.trap f) f.g 1 (trapPlan s f)

/-- R231: NOP. -/
def nopPlan (_ : Who) : Except Nat Plan := .ok {}

def execNop (f : FmtC) (s : State) : Host.Outcome State Fault Refusal :=
  s.issue (.nop f) f.g 1 nopPlan

/-- R233: FRAGQ's value. -/
def fragqValue (s : State) (w : Who) (sel : Nat) : Nat :=
  match sel with
  | 0 => w.f.mask.toNat
  | 1 => w.g.live.toNat
  | 2 => (((s.fragsOf w.core w.slot).filter (fun e => e.2.st == .parked || e.2.mend)).foldl
      (fun m e => m ||| e.2.mask) (0 : Mask)).toNat
  | 4 => (s.fragsOf w.core w.slot).length
  | 5 => (s.pool w.core).length
  | _ => (Table.getD w.g.arr 0 (sel - 8)).toNat

/-- R233: FRAGQ. -/
def fragqPlan (s : State) (f : FmtC) (w : Who) : Except Nat Plan :=
  let sel := f.aux.toNat
  .ok {
    oob := w.beyondField f.reg 1,
    commit := fun cm s' => s'.writeDst w f.reg (if sel = 4 || sel = 5 then Tg.n32 else Tg.mask) false
      ((Mask.lanes cm).map (fun l => (l, fragqValue s w sel))) }

def execFragq (f : FmtC) (s : State) : Host.Outcome State Fault Refusal :=
  s.issue (.fragq f) f.g 1 (fragqPlan s f)

end Sys2Proof.Machine
end

