-- ==== Sys2Proof/Machine/Predicate.lean ====
section
/-! DEFINITION. Machine/Predicate.lean: comparisons and predicate logic, class 0x8 (R234 to R239). -/

namespace Sys2Proof.Machine

/-- R234, R235: writes the condition `c`, ANDed with the combining predicate, to PD, and its complement to PE, in the committing lanes. -/
def Group.writeCond (g : Group) (f : FmtP) (cm c : Mask) : Group :=
  let cb := g.pred f.pa.toNat
  let g1 := g.setPred f.pd.toNat cm (c &&& cb)
  if f.pe = 15 then g1 else g1.setPred f.pe.toNat cm (~~~c &&& cb)

/-- The mask of the lanes for which a condition holds. -/
def maskWhere (cm : Mask) (p : Nat → Bool) : Mask := Mask.of ((Mask.lanes cm).filter p)

/-- R235, R236: the plan of a comparison: the condition and the flags of a lane from T and its two operands. -/
def cmpPlan (f : FmtP) (accept : Nat → Bool) (k : Nat → Nat → Nat → Bool × BitVec 9) (w : Who) : Except Nat Plan :=
  let act := w.act f.g
  let uses := [Use.fmt f.a, Use.fmt f.b]
  match w.vecCheck act f.etag.toNat accept uses 0 (fun _ => 0) with
  | .error c => .error c
  | .ok fm => .ok {
      oob := uses.any (fun u => w.beyondField u.field (u.lines fm)),
      commit := fun cm s =>
        let r : Nat → Bool × BitVec 9 := fun l =>
          k fm.tag (w.srcVal s f.a fm.tag fm.wide [] l) (w.srcVal s f.b fm.tag fm.wide [] l)
        let fl := (Mask.lanes cm).foldl (fun a l => a ||| (r l).2) 0
        s.updGroup w.core w.slot (fun g => (g.writeCond f cm (maskWhere cm (fun l => (r l).1))).orFlags fl) }

/-- R235: the tags of ICMP. -/
def Tg.icmp (t : Nat) : Bool := t == 3 || t == 7 || t == 4 || t == 8 || t == 0

/-- R235: ICMP's condition. -/
def icmpCond (cond t a b : Nat) : Bool :=
  let x := ival t (Tg.width t) a
  let y := ival t (Tg.width t) b
  match cond with
  | 0 => x == y
  | 1 => x != y
  | 2 => decide (x < y)
  | 3 => decide (x ≤ y)
  | 4 => decide (y < x)
  | 5 => decide (y ≤ x)
  | 6 => a &&& b != 0
  | _ => a &&& b == 0

def execIcmp (f : FmtP) (s : State) : Host.Outcome State Fault Refusal :=
  s.issue (.icmp f) f.g 1 (cmpPlan f Tg.icmp (fun t a b => (icmpCond f.cond.toNat t a b, 0)))

/-- R236: FCMP's condition from the order of its operands, none for unordered. -/
def fcmpCond (cond : Nat) (o : Option Ordering) : Bool :=
  match cond, o with
  | 0, some x => x == .eq
  | 1, some x => x != .eq
  | 1, none => true
  | 2, some x => x == .lt
  | 3, some x => x != .gt
  | 4, some x => x == .gt
  | 5, some x => x != .lt
  | 6, none => true
  | 7, some _ => true
  | _, _ => false

/-- R236: one lane of FCMP: `lt`, `le`, `gt` and `ge` of a quiet NaN set AF_INVALID. -/
def fcmpLane (cond : Nat) (ftz : Bool) (t a b : Nat) : Bool × BitVec 9 :=
  let x := fin (fmtOf t) ftz a
  let y := fin (fmtOf t) ftz b
  let o := x.1.cmp y.1
  (fcmpCond cond o, x.2 ||| y.2 ||| (if o.isNone && decide (2 ≤ cond) && decide (cond ≤ 5) then AF.invalid else 0))

/-- R236: FCMP, which reads the issuer's flush-to-zero. -/
def fcmpPlan (f : FmtP) (w : Who) : Except Nat Plan :=
  cmpPlan f (fun t => t == Tg.f32 || t == Tg.f64) (fcmpLane f.cond.toNat w.g.ftz) w

def execFcmp (f : FmtP) (s : State) : Host.Outcome State Fault Refusal :=
  s.issue (.fcmp f) f.g 1 (fcmpPlan f)

/-- R237: PD receives a value in the committing lanes. -/
def predPlan (f : FmtP) (v : Group → Mask → Mask) (w : Who) : Except Nat Plan :=
  .ok { commit := fun cm s => s.updGroup w.core w.slot (fun g => g.setPred f.pd.toNat cm (v w.g cm)) }

/-- R237: PA and PB after the inversions of COND. -/
def predA (f : FmtP) (g : Group) : Mask := if f.cond.getLsbD 0 then ~~~(g.pred f.pa.toNat) else g.pred f.pa.toNat
def predB (f : FmtP) (g : Group) : Mask := if f.cond.getLsbD 1 then ~~~(g.pred f.pb.toNat) else g.pred f.pb.toNat

def execPand (f : FmtP) (s : State) : Host.Outcome State Fault Refusal :=
  s.issue (.pand f) f.g 1 (predPlan f (fun g _ => predA f g &&& predB f g))

def execPor (f : FmtP) (s : State) : Host.Outcome State Fault Refusal :=
  s.issue (.por f) f.g 1 (predPlan f (fun g _ => predA f g ||| predB f g))

def execPxor (f : FmtP) (s : State) : Host.Outcome State Fault Refusal :=
  s.issue (.pxor f) f.g 1 (predPlan f (fun g _ => predA f g ^^^ predB f g))

def execPnot (f : FmtP) (s : State) : Host.Outcome State Fault Refusal :=
  s.issue (.pnot f) f.g 1 (predPlan f (fun g _ => ~~~(g.pred f.pa.toNat)))

def execPmov (f : FmtP) (s : State) : Host.Outcome State Fault Refusal :=
  s.issue (.pmov f) f.g 1 (predPlan f (fun g _ => g.pred f.pa.toNat))

/-- R238: PANY's result over the participating lanes. -/
def panyValue (cond : Nat) (p cm : Mask) : Bool :=
  match cond with
  | 0 => p &&& cm != 0
  | 1 => p &&& cm == cm
  | _ => p &&& cm == 0

def execPany (f : FmtP) (s : State) : Host.Outcome State Fault Refusal :=
  s.issue (.pany f) f.g 1 (predPlan f (fun g cm =>
    if panyValue f.cond.toNat (g.pred f.pa.toNat) cm then BitVec.allOnes 32 else 0))

/-- R239: PSET. -/
def psetPlan (s : State) (f : FmtP) (w : Who) : Except Nat Plan :=
  let act := w.act f.g
  if f.cond = 2 then
    match w.checkSrc act f.a 1 (fun t => Tg.maskLine t && (f.etag == 31 || t == f.etag.toNat)) with
    | .error c => .error c
    | .ok _ =>
      let m : Mask := BitVec.ofNat 32 (w.word s f.a ((Mask.leader act).getD 0))
      (predPlan f (fun _ _ => m) w).map (fun p => { p with oob := w.beyondField f.a 1 })
  else predPlan f (fun _ _ => if f.cond = 1 then BitVec.allOnes 32 else 0) w

def execPset (f : FmtP) (s : State) : Host.Outcome State Fault Refusal :=
  s.issue (.pset f) f.g 1 (psetPlan s f)

end Sys2Proof.Machine
end

