-- ==== Sys2Proof/Machine/Csr.lean ====
section
/-! DEFINITION. Machine/Csr.lean: control registers, the clock and the error ring, class 0xA (R218, R316 to R322). -/

namespace Sys2Proof.Machine

/-- R316, R317: the value of a control register. -/
def Who.csr (w : Who) (n : Nat) : Nat :=
  match n with
  | 0 => w.g.mode.toNat
  | 1 => w.g.flags.toNat
  | 2 => w.g.status.toNat
  | 3 => w.g.mendReg.toNat
  | 4 => w.g.uft.toNat
  | _ => w.t.arg.toNat

/-- R316: a 64-bit control register. -/
def csrWide (n : Nat) : Bool := n == 3 || n == 0x10

/-- R317: a control register takes a value; reserved fields stay zero. `gs.status` takes only a clearing of SN and RST. -/
def State.csrSet (s : State) (w : Who) (n v : Nat) : State :=
  s.updGroup w.core w.slot (fun g =>
    match n with
    | 0 => { g with mode := modeWrite s g.mode (BitVec.ofNat 32 v) }
    | 1 => { g with flags := BitVec.ofNat 32 (v % 2 ^ 9) }
    | 2 => { g with status := (g.status &&& 0x4) ||| (g.status &&& BitVec.ofNat 32 v &&& 0x3) }
    | 3 => { g with mendReg := BitVec.ofNat 64 (v % 2 ^ 57) }
    | 4 => { g with uft := BitVec.ofNat 32 (v % 16) }
    | _ => g)

/-- R319: CSRR. -/
def csrrPlan (f : FmtS) (w : Who) : Except Nat Plan :=
  let n := f.csr.toNat
  if 0x800 ≤ n then .error Cause.privilege
  else .ok {
    oob := w.beyondField f.d (if csrWide n then 2 else 1),
    commit := fun cm s => s.writeDst w f.d (if csrWide n then Tg.n64 else Tg.n32) (csrWide n)
      ((Mask.lanes cm).map (fun l => (l, w.csr n))) }

def execCsrr (f : FmtS) (s : State) : Host.Outcome State Fault Refusal :=
  s.issue (.csrr f) f.g 1 (csrrPlan f)

/-- R319: the source of a service register may be of either width. -/
def Who.checkEither (w : Who) (x : BitVec 10) : Except Nat Unit :=
  match operandOf x with
  | .v n =>
    if n < w.g.lines && Tg.wide (w.g.tag n) then
      (if n % 2 = 1 then .error Cause.illegalField else w.checkLines n 2 Tg.dword)
    else w.checkLines n 1 Tg.word
  | .sr .zero | .sr .one => .ok ()
  | .sr r => if Tg.word (SReg.tag r) || Tg.dword (SReg.tag r) then .ok () else .error Cause.tagMismatch
  | _ => .ok ()

/-- R319: CSRW, CSRS and CSRC: `v` is the new value from the old one and the leader's source; `clears` marks CSRC. -/
def csrPlan (s : State) (f : FmtS) (clears : Bool) (v : Nat → Nat → Nat) (w : Who) : Except Nat Plan :=
  let n := f.csr.toNat
  let act := w.act f.g
  match (do
      if 0x800 ≤ n then w.checkEither f.a
      else w.checkSrc act f.a (if csrWide n then 2 else 1) (if csrWide n then Tg.dword else Tg.word)
      failIf (0x800 ≤ n || n == 0x10 || (n == 2 && !clears)) Cause.privilege : Except Nat Unit) with
  | .error c => .error c
  | .ok _ => .ok {
      oob := w.beyondField f.a (if csrWide n then 2 else 1),
      commit := fun cm s' =>
        match Mask.leader cm with
        | none => s'
        | some l => s'.csrSet w n (v (w.csr n) (if csrWide n then w.dword s f.a l else w.word s f.a l)) }

def execCsrw (f : FmtS) (s : State) : Host.Outcome State Fault Refusal :=
  s.issue (.csrw f) f.g 1 (csrPlan s f false (fun _ a => a))

def execCsrs (f : FmtS) (s : State) : Host.Outcome State Fault Refusal :=
  s.issue (.csrs f) f.g 1 (csrPlan s f false (fun old a => old ||| a))

def execCsrc (f : FmtS) (s : State) : Host.Outcome State Fault Refusal :=
  s.issue (.csrc f) f.g 1 (csrPlan s f true (fun old a => old - (old &&& a)))

/-- R218: CLOCK. -/
def clockPlan (s : State) (f : FmtS) (w : Who) : Except Nat Plan :=
  .ok {
    oob := w.beyondField f.d 2,
    stores := true,
    commit := fun cm s' => s'.writeDst w f.d Tg.n64 true
      ((Mask.lanes cm).map (fun l => (l, (if f.mod = 1 then w.g.horizon else s.time) % 2 ^ 64))) }

def execClock (f : FmtS) (s : State) : Host.Outcome State Fault Refusal :=
  s.issue (.clock f) f.g 1 (clockPlan s f)

/-- R322: what a reading kind of ERRQ reads of a context's ring; a context without one reads zeros (log entry 15). -/
def errqValue (r : Option Ring) (kind : Nat) : Nat :=
  match r with
  | none => 0
  | some r =>
    match kind with
    | 0 => r.prod
    | 1 => r.cons
    | 2 => r.base.toNat
    | 3 => r.n
    | _ => r.drop

/-- R322: `ack` moves the consumer count on. -/
def Ring.ack (r : Ring) (v : Nat) : Ring := if r.cons < v && v ≤ r.prod then { r with cons := v } else r

/-- R322: ERRQ: `head` is an acquire and `ack` a release at `.dev`. -/
def errqPlan (s : State) (f : FmtS) (w : Who) : Except Nat Plan :=
  let kind := f.mod.toNat % 8
  let act := w.act f.g
  if kind = 5 then
    match w.checkSrc act f.a 2 Tg.dword with
    | .error c => .error c
    | .ok _ => .ok {
        oob := w.beyondField f.a 2,
        rel := some 3,
        leaves := true,
        commit := fun cm s' =>
          match Mask.leader cm with
          | none => s'
          | some l => s'.updCtx w.ctx (fun c => { c with ring := c.ring.map (fun r => r.ack (w.dword s f.a l)) }) }
  else
    let wide := decide (kind ≤ 2)
    .ok {
      oob := w.beyondField f.d (if wide then 2 else 1),
      commit := fun cm s' =>
        let s1 := if kind = 0 && act != 0 then s'.acquire w.core 3 else s'
        s1.writeDst w f.d (if wide then Tg.n64 else Tg.n32) wide
          ((Mask.lanes cm).map (fun l => (l, errqValue (s.ctx w.ctx).ring kind))) }

def execErrq (f : FmtS) (s : State) : Host.Outcome State Fault Refusal :=
  s.issue (.errq f) f.g 1 (errqPlan s f)

end Sys2Proof.Machine
end

