-- ==== Sys2Proof/Machine/Engines.lean ====
section
/-! DEFINITION. Machine/Engines.lean: chains, semaphores, nodes and the class 0x9 instructions (R161, R212, R216, R217, R269 to R274,
R280, R281, R285, R291 to R299, R385). -/

namespace Sys2Proof.Machine

/-- The lanes that a failure found on the leader's values takes: every guard-true lane (R292). -/
def leaderFails (act : Mask) (e : Option LaneFail) : List (Nat × LaneFail) :=
  match e with
  | some e => (Mask.lanes act).map (fun l => (l, e))
  | none => []

/-- The one access of an instruction that its leader makes for the fragment. -/
def leaderAcc (act : Mask) (l va n : Nat) : List (Nat × Nat × Nat) := if act = 0 then [] else [(l, va, n)]

/-- The bytes that the leader's one load returns at once, with the state after it and the poison consumed. -/
def State.leaderRead (s : State) (w : Who) (l va n : Nat) : State × List Byte × List (Nat × Nat) :=
  let r := s.loadLanes w [(l, va, n)] 0
  match r.2 with
  | v :: _ => (r.1.raise w.core w.slot v.2.2.1, v.2.1, v.2.2.2)
  | [] => (r.1, [], [])

/-- The lane that an engine instruction reads its registers from (R183, R291). -/
def Who.lead (w : Who) (g : Guard) : Nat := (Mask.leader (w.act g)).getD 0

-- CPUT.

/-- R293: CPUT's 64 bytes. -/
def cputBytes (s : State) (w : Who) (x : BitVec 10) : List Byte := (List.range 16).flatMap (fun l => leBytes (w.word s x l) 4)

/-- R293: CPUT. -/
def cputPlan (s : State) (f : FmtE) (w : Who) : Except Nat Plan :=
  let act := w.act f.g
  let l := w.lead f.g
  let va := w.dword s f.a l
  match (do
      w.checkSrc act f.a 2 Tg.dword
      w.checkSrc act f.b 1 Tg.any : Except Nat Unit) with
  | .error c => .error c
  | .ok _ => .ok {
      oob := w.beyondField f.a 2 || w.beyondField f.b 1,
      fails := leaderFails act (s.probe w.core w.ctx va 64 .store true true),
      leaves := true,
      addr := va,
      stores := true,
      asks := s.asksFor (some .plain) w (leaderFails act (s.probe w.core w.ctx va 64 .store true true)) (leaderAcc act l va 64),
      commit := fun cm s' => if cm = 0 then s' else s'.storeVa w l va 0 (cputBytes s w f.b) }

def execCput (f : FmtE) (s : State) : Host.Outcome State Fault Refusal :=
  s.issue (.cput f) f.g 1 (cputPlan s f)

-- CTAIL.

/-- R269, R291: the chain that CTAIL names. -/
def chainOf (w : Who) (f : FmtE) : ChainRef :=
  let n := f.n.toNat
  match f.mod.toNat % 4 with
  | 0 => .copy w.core n
  | 1 => .coll (dieOf w.core) n
  | 2 => .press n
  | _ => .svc w.ctx n

/-- R269: the holder that CTAIL's issuer is of a chain: its team for a copy chain, its context for the others. -/
def Who.holds (w : Who) (c : ChainRef) : Nat :=
  match c with
  | .copy _ _ => w.g.tid
  | _ => w.ctx

/-- R270: a chain control block that keeps its layout. -/
def ccbGood (b : List Byte) : Bool :=
  leField b 0 8 % 64 == 0 && decide (1 ≤ leField b 8 1) && decide (leField b 8 1 ≤ 16) && leField b 9 7 == 0
    && leField b 16 8 % 8 == 0 && decide (leField b 24 8 < 2 ^ 48) && leField b 32 32 == 0

/-- R269, R294: CTAIL may not open a chain: another holds it, its stream is not bound to the context, it is busy, or a field of its
block breaks R270. A stopped chain may be opened again. -/
def State.openBad (s : State) (w : Who) (c : ChainRef) (b : List Byte) : Bool :=
  let x := s.chain c
  (x.isOpen && x.holder != w.holds c)
    || (match c with | .press st => ((Table.find s.streams st).bind (·.ctx)) != some w.ctx | _ => false)
    || (x.isOpen && !x.stopped && x.tail != x.done) || (!x.isOpen && !x.started.isEmpty) || !ccbGood b

/-- R270: the chain that a control block configures. -/
def Chain.ofBlock (holder ctx : Nat) (b : List Byte) : Chain :=
  let p := leField b 24 8
  ⟨true, holder, ctx, leField b 0 8, leField b 8 1, p, p, p, p, leField b 16 8, false, false, [], [], 0⟩

/-- R294: CTAIL in its open form. -/
def ctailOpenPlan (s : State) (f : FmtE) (w : Who) : Except Nat Plan :=
  let act := w.act f.g
  let l := w.lead f.g
  let va := w.dword s f.a l
  let fail := s.probe w.core w.ctx va 64 .load true true
  let blk := (s.leaderRead w l va 64).2
  let c := chainOf w f
  let oob := w.beyondField f.a 2
  match w.checkSrc act f.a 2 Tg.dword with
  | .error e => .error e
  | .ok _ => .ok {
      oob := oob,
      fails := leaderFails act fail,
      rel := some 1,
      leaves := true,
      addr := va,
      asks := s.asksFor none w (leaderFails act fail) (leaderAcc act l va 64),
      late := if act = 0 || oob || fail.isSome || !blk.2.isEmpty || !s.openBad w c blk.1 then none else some Cause.chain,
      commit := fun cm s' =>
        if cm = 0 then s'
        else
          let r := s'.leaderRead w l va 64
          match r.2.2 with
          | p :: ps => r.1.consume w.ctx (p :: ps)
          | [] => r.1.setChain c (Chain.ofBlock (w.holds c) w.ctx r.2.1) }

def execCtailOpen (f : FmtE) (s : State) : Host.Outcome State Fault Refusal :=
  s.issue (.ctailOpen f) f.g 1 (ctailOpenPlan s f)

/-- R294: what the tests of the tail form say of a new tail: GF_CHAIN, nothing changes, or the tail moves. -/
def Chain.tailTest (x : Chain) (holder v : Nat) : Except Nat Bool :=
  if !x.isOpen || x.holder != holder || x.closing then .error Cause.chain
  else if v ≤ x.tail then .ok false
  else if v - x.done > 2 ^ x.logn then .error Cause.chain
  else .ok true

/-- R271, R274: the tail moves, and the entries that it passes take the context's generation and the team. -/
def Chain.moveTail (x : Chain) (v gen tid : Nat) : Chain := { x with tail := v, stamps := x.stamps ++ [(v, gen, tid)] }

/-- R294: CTAIL in its tail form: a release at `.team` only where the tail moves. -/
def ctailPlan (s : State) (f : FmtE) (w : Who) : Except Nat Plan :=
  let act := w.act f.g
  let v := w.dword s f.a (w.lead f.g)
  let c := chainOf w f
  let oob := w.beyondField f.a 2
  let r := (s.chain c).tailTest (w.holds c) v
  let moves := match r with | .ok b => b | .error _ => false
  match w.checkSrc act f.a 2 Tg.dword with
  | .error e => .error e
  | .ok _ => .ok {
      oob := oob,
      rel := if moves then some 1 else none,
      leaves := true,
      late := if act = 0 || oob then none else (match r with | .error e => some e | .ok _ => none),
      commit := fun cm s' =>
        if cm = 0 || !moves then s'
        else s'.setChain c ((s'.chain c).moveTail v (s'.ctx w.ctx).gen w.g.tid) }

def execCtail (f : FmtE) (s : State) : Host.Outcome State Fault Refusal :=
  s.issue (.ctail f) f.g 1 (ctailPlan s f)

-- Semaphores.

/-- R280: a semaphore of a team, if the index is below the team's count. -/
def Team.semAt (t : Team) (idx : Nat) : Option SemAt :=
  if idx < t.semCnt then some (.live (semKey t.core (t.semBase + idx))) else none

/-- R280, R290: the semaphore that a reference of team `tid` names: its own, or one of team `num` of its cluster, wherever that stands. -/
def State.semRef (s : State) (tid : Nat) (remote : Bool) (num idx : Nat) : Option SemAt :=
  let home : Option Team := match Table.find s.teams tid with
    | some t => some t
    | none => (Table.find s.saved tid).map (·.team)
  match home with
  | none => none
  | some t =>
    let mine : Nat × Team → Bool := fun e => if remote then e.2.cluster == t.cluster && e.2.num == num else e.1 == tid
    match s.teams.find? mine with
    | some e => e.2.semAt idx
    | none =>
      match (s.saved.map (fun e => (e.1, e.2.team))).find? mine with
      | some e => if idx < e.2.semCnt then some (.saved e.1 idx) else none
      | none => none

/-- R301: a team that has ended: no group of it is left, on a core or saved. -/
def State.teamEnded (s : State) (tid : Nat) : Bool := (s.groupsOf tid).isEmpty && (Table.find s.saved tid).isNone

/-- R282: the teams of a cluster of a node. -/
def State.clusterSize (s : State) (nid : Nat) : Nat :=
  ((Table.find s.nodes nid).map (fun n => leField n.desc 16 2 * leField n.desc 18 1)).getD 0

/-- R284, R301: team `num` of a cluster has ended: it was one of its teams, and neither stands on a core with a group left nor is saved. -/
def State.peerEnded (s : State) (nid cluster num : Nat) : Bool :=
  decide (num < s.clusterSize nid)
    && !s.teams.any (fun e => e.2.cluster == cluster && e.2.num == num && !s.teamEnded e.1)
    && !s.saved.any (fun e => e.2.team.cluster == cluster && e.2.team.num == num)

/-- R280, R301: a reference of team `tid` names a semaphore of a team that has ended. -/
def State.semEnded (s : State) (tid : Nat) (remote : Bool) (num : Nat) : Bool :=
  if remote then
    match (Table.find s.teams tid).or ((Table.find s.saved tid).map (·.team)) with
    | some t => s.peerEnded t.node t.cluster num
    | none => true
  else s.teamEnded tid

/-- A counter. -/
def State.semVal (s : State) (p : SemAt) : Nat :=
  match p with
  | .live k => Table.getD s.sems 0 k
  | .saved t i => match Table.find s.saved t with
    | some x => x.sems.getD i 0
    | none => 0

/-- Sets a counter. -/
def State.semPut (s : State) (p : SemAt) (v : Nat) : State :=
  match p with
  | .live k => { s with sems := Table.setD s.sems 0 k v }
  | .saved t i => { s with saved := Table.upd s.saved t (fun x => { x with sems := x.sems.set i v }) }

/-- R281: an add of a signed amount saturates. -/
def semSum (old : Nat) (amt : Int) : Nat := (max 0 (min (2 ^ 32 - 1) ((old : Int) + amt))).toNat

/-- R281, R348: one change of a counter; `dev` says that it is a release at `.dev`. -/
def State.semAdd (s : State) (p : SemAt) (amt : Int) (dev : Bool) : State :=
  let s1 := s.semPut p (semSum (s.semVal p) amt)
  match p with
  | .live k => if dev then { s1 with devSems := insertNat s1.devSems k } else s1
  | .saved _ _ => s1

/-- The semaphore that SEMADD, SEMWAIT or SEMREAD names. -/
def Who.sem (s : State) (w : Who) (f : FmtE) : Option SemAt :=
  s.semRef w.g.tid (f.mod.getLsbD 0) (w.word s f.b (w.lead f.g)) (f.n.toNat % 64)

/-- The checks of the holder line of a remote semaphore, and of another line. -/
def semCheck (f : FmtE) (w : Who) (src : Bool) : Except Nat Unit := do
  let act := w.act f.g
  if src then w.checkSrc act f.a 1 Tg.word else .ok ()
  if f.mod.getLsbD 0 then w.checkSrc act f.b 1 Tg.word else .ok ()

/-- R50 for the semaphore instructions. -/
def semBeyond (f : FmtE) (w : Who) : Bool := w.beyondField f.a 1 || (f.mod.getLsbD 0 && w.beyondField f.b 1)

/-- The scope of a semaphore operation (R211, R295). -/
def semScope (f : FmtE) : Nat := if f.mod.getLsbD 0 then 2 else 1

/-- R280, R292: the failure of a semaphore that is not there. -/
def semFail (p : Option SemAt) : Option LaneFail := if p.isNone then some { cause := Cause.handle } else none

/-- R281: waiters whose wake is due at the semaphore that the instruction names are served before the instruction changes the counter or
joins them. -/
def State.arriveAt (s : State) (f : FmtE) : State :=
  match s.who? with
  | none => s
  | some w =>
    match w.sem s f with
    | some (.live k) => if (serveWaiters k (Table.getD s.sems 0 k) s.semq).2.1.isEmpty || w.act f.g = 0 then s else s.serveSem k
    | _ => s

/-- The issuing fragment stands at its instruction still: no woken fragment has merged with it (R20). -/
def State.stillAt (s t : State) : Bool :=
  match s.who?, t.who? with
  | some a, some b => b.f.blk == a.f.blk && b.f.idx == a.f.idx && b.f.entered == a.f.entered && b.f.st == a.f.st
  | none, _ => true
  | some _, none => false

/-- R281: the wakes that are due come first; a fragment that merged on the way issues the instruction at a later turn. -/
def State.afterWakes (s : State) (f : FmtE) (go : State → Host.Outcome State Fault Refusal) : Host.Outcome State Fault Refusal :=
  if s.stillAt (s.arriveAt f) then go (s.arriveAt f) else .next (s.arriveAt f)

/-- R295: SEMADD. -/
def semaddPlan (s : State) (f : FmtE) (w : Who) : Except Nat Plan :=
  let act := w.act f.g
  let p := w.sem s f
  match semCheck f w true with
  | .error c => .error c
  | .ok _ => .ok {
      oob := semBeyond f w,
      fails := leaderFails act (semFail p),
      rel := some (semScope f),
      leaves := true,
      commit := fun cm s' =>
        match p with
        | none => s'
        | some p => if cm = 0 then s' else s'.semAdd p (signed 32 (w.word s f.a (w.lead f.g))) false }

def execSemadd (f : FmtE) (s : State) : Host.Outcome State Fault Refusal :=
  s.afterWakes f (fun s1 => s1.issue (.semadd f) f.g 1 (semaddPlan s1 f))

/-- R295: SEMWAIT. A saved semaphore of another team is waited for where it stands: the waiter is tested again at restore (R290). -/
def semwaitPlan (s : State) (f : FmtE) (w : Who) : Except Nat Plan :=
  let act := w.act f.g
  let p := w.sem s f
  let thr := w.word s f.a (w.lead f.g)
  let dec := f.mod.getLsbD 1
  let met := match p with | some p => decide (thr ≤ s.semVal p) | none => true
  let key := match p with | some (.live k) => k | some (.saved t i) => 2 ^ 32 + t * 64 + i | none => 0
  match semCheck f w true with
  | .error c => .error c
  | .ok _ => .ok {
      oob := semBeyond f w,
      fails := leaderFails act (semFail p),
      commit := fun cm s' =>
        match p with
        | none => s'
        | some p =>
          if cm = 0 then s'
          else if met then (if dec then s'.semPut p (s'.semVal p - thr) else s').acquire w.core (s'.semAcq p (semScope f))
          else { s' with semq := s'.semq ++ [⟨.frag w.core w.fi, key, thr, dec, f.mod.getLsbD 0, s'.order⟩], order := s'.order + 1 },
      flow := if met then .seq else .sleep (.sem key thr dec) }

def execSemwait (f : FmtE) (s : State) : Host.Outcome State Fault Refusal :=
  s.afterWakes f (fun s1 => s1.issue (.semwait f) f.g 1 (semwaitPlan s1 f))

/-- R295: SEMREAD. -/
def semreadPlan (s : State) (f : FmtE) (w : Who) : Except Nat Plan :=
  let act := w.act f.g
  let p := w.sem s f
  match semCheck f w false with
  | .error c => .error c
  | .ok _ => .ok {
      oob := semBeyond f w,
      fails := leaderFails act (semFail p),
      commit := fun cm s' => s'.writeDst w f.a Tg.n32 false
        ((Mask.lanes cm).map (fun l => (l, match p with | some p => s.semVal p | none => 0))) }

def execSemread (f : FmtE) (s : State) : Host.Outcome State Fault Refusal :=
  s.issue (.semread f) f.g 1 (semreadPlan s f)

-- PUBLISH.

/-- R161: the shadow entry of the leaf entry with key `pte`. -/
def shadowPte (pte : Nat) : Nat := pte + 4096

/-- R161: the key of the shadow copy of an address, where its page has one. -/
def State.shadowKey (s : State) (ctx va : Nat) : Option Nat :=
  match s.walk ctx va with
  | .leaf pte base _ val =>
    if Pte.sv val then some (leafKey base (BitVec.ofNat 64 (s.mem.readNat (shadowPte pte) 8)) va) else none
  | _ => none

/-- The bits of an entry that PUBLISH exchanges: TIER and PA (R161). -/
def exchBits : Nat := 3 * 2 ^ 6 + (2 ^ 40 - 1) * 2 ^ 12

/-- R161, R212: a leaf entry and its shadow entry exchange TIER and PA. -/
def State.exchange (s : State) (pte : Nat) : State :=
  let x := s.mem.readNat pte 8
  let y := s.mem.readNat (shadowPte pte) 8
  let keep : Nat → Nat := fun v => v - (v &&& exchBits)
  { s with mem := (s.mem.writeNat pte 8 (keep x + (y &&& exchBits))).writeNat (shadowPte pte) 8 (keep y + (x &&& exchBits)) }

/-- R311: the cause by which a shadow entry that is read is poisoned. -/
def State.shadowPoison (s : State) (pte : Nat) : Option Nat :=
  if s.poisoned (shadowPte pte) then some (tierCause (tierOf (shadowPte pte))) else none

/-- The leaf entries with a shadow that map pages of a range, once each. -/
def State.shadowed (s : State) (ctx start len : Nat) : List Nat :=
  ((List.range (len / 4096)).filterMap (fun i =>
    match s.walk ctx (start + 4096 * i) with
    | .leaf pte _ _ val => if Pte.sv val then some pte else none
    | _ => none)).foldl insertNat []

/-- R311: the poisoned entries that an exchange of a range meets: of its walks, and shadow entries. -/
def State.exchangePoison (s : State) (ctx start len : Nat) : List Nat :=
  (List.range (len / 4096)).filterMap (fun i =>
    match s.walk ctx (start + 4096 * i) with
    | .poisoned c => some c
    | .leaf pte _ _ val => if Pte.sv val then s.shadowPoison pte else none
    | .unmapped _ _ => none)

/-- R296: the failure of PUBLISH's range. -/
def State.publishFail (s : State) (w : Who) (a len : Nat) : Option LaneFail :=
  if len = 0 then none
  else if a % 4096 ≠ 0 || len % 4096 ≠ 0 || len > 2 ^ 29 then some { cause := Cause.misaligned, addr := a }
  else
    match s.probe w.core w.ctx a len .load false true with
    | some e => some e
    | none => (pageParts a len).findSome? (fun p =>
      match s.xlat w.core w.ctx p.1 false with
      | .leaf _ _ _ val => if Pte.sv val then none else some { cause := Cause.protect, addr := p.1 }
      | _ => none)

/-- R165: the translations of a range leave every TLB. -/
def State.shootdown (s : State) (ctx start len : Nat) : State :=
  { s with tlb := s.tlb.filter (fun t => !(t.ctx == ctx && decide (t.base < start + len) && decide (start < t.base + t.size))) }

/-- R212: an invalidation ends: a PUBLISH's exchanges its range's entries, at one instant. One that meets a poisoned entry loses its
context, and exchanges nothing (R311, R313). -/
def State.endInval (s : State) (i : Inval) : State :=
  let s1 := { s with invals := s.invals.filter (· != i) }
  if i.publish.isNone then s1.shootdown i.ctx i.start i.len
  else
    match s1.exchangePoison i.ctx i.start i.len with
    | [] => ((s1.shadowed i.ctx i.start i.len).foldl State.exchange s1).shootdown i.ctx i.start i.len
    | c :: cs => (s1.shootdown i.ctx i.start i.len).loseContext i.ctx (lowestCause (c :: cs)) []

/-- R212, R296: PUBLISH: a release at its scope, and then the exchange begins; the group's later accesses wait until it ends. -/
def publishPlan (s : State) (f : FmtE) (w : Who) : Except Nat Plan :=
  let act := w.act f.g
  let l := w.lead f.g
  let a := w.dword s f.a l
  let len := w.word s f.b l
  match (do
      w.checkSrc act f.a 2 Tg.dword
      w.checkSrc act f.b 1 Tg.word : Except Nat Unit) with
  | .error c => .error c
  | .ok _ => .ok {
      oob := w.beyondField f.a 2 || w.beyondField f.b 1,
      fails := leaderFails act (s.publishFail w a len),
      rel := if len = 0 then none else some (s.narrow w f.mod.toNat).1,
      leaves := true,
      addr := a,
      commit := fun cm s' =>
        if cm = 0 || len = 0 then s'
        else
          let s1 := s'.noteNarrow w f.mod.toNat
          { s1 with invals := s1.invals ++ [⟨w.ctx, a, len, some (slotKey w.core w.slot)⟩] } }

def execPublish (f : FmtE) (s : State) : Host.Outcome State Fault Refusal :=
  s.issue (.publish f) f.g 1 (publishPlan s f)

-- Nodes.

/-- R285: the key of a context's descriptor address among the credits. -/
def creditKey (ctx addr : Nat) : Nat := ctx * 2 ^ 64 + addr

/-- R285: the nodes and credits that the pool holds. -/
def State.poolUsed (s : State) : Nat := s.nodes.length + s.credits.foldl (fun n e => n + e.2) 0

/-- R285: the pool accepts another node. -/
def State.poolAccepts (s : State) : Bool := decide (s.poolUsed < 16384)

/-- R284, R285, R297: a node enters the pool: it consumes the credits held on its address, and is ready when no predecessor is left.
`origin` is its enqueuer's core, 1,023 for a host submission. -/
def State.submit (s : State) (ctx addr : Nat) (desc : List Byte) (origin : Nat) (team : Option Nat) : State :=
  let k := creditKey ctx addr
  let pred := leField desc 12 2 - Table.getD s.credits 0 k
  let n : Node := ⟨ctx, addr, desc, if pred = 0 then .ready else .waiting, pred, origin, team,
    ((team.bind (Table.find s.teams)).map Team.cluster).getD 0, s.order, 0, 0, 0, 0, 0, false, false, 0, 0, []⟩
  { s with nodes := Table.put s.nodes s.order n, order := s.order + 1, credits := Table.del s.credits k }

/-- R297: ENQ. -/
def enqPlan (s : State) (f : FmtE) (w : Who) : Except Nat Plan :=
  let act := w.act f.g
  let l := w.lead f.g
  let va := w.dword s f.a l
  let fail := s.probe w.core w.ctx va 128 .load true true
  match w.checkSrc act f.a 2 Tg.dword with
  | .error e => .error e
  | .ok _ => .ok {
      oob := w.beyondField f.a 2,
      fails := leaderFails act fail,
      rel := some 3,
      leaves := true,
      addr := va,
      asks := s.asksFor none w (leaderFails act fail) (leaderAcc act l va 128),
      commit := fun cm s' =>
        if cm = 0 then s'
        else
          let d := s'.leaderRead w l va 128
          match d.2.2 with
          | p :: ps => d.1.consume w.ctx (p :: ps)
          | [] =>
            let took := s'.poolAccepts
            let s2 := if took then d.1.submit w.ctx va d.2.1 w.core (some w.g.tid) else d.1
            if f.mod = 15 then s2
            else s2.updGroup w.core w.slot (fun g => g.setPred f.mod.toNat cm (if took then BitVec.allOnes 32 else 0)) }

def execEnq (f : FmtE) (s : State) : Host.Outcome State Fault Refusal :=
  s.issue (.enq f) f.g 1 (enqPlan s f)

-- SVC, COLLABORT, FENCE, MWAIT.

/-- R298: SVC. -/
def svcPlan (s : State) (f : FmtE) (w : Who) : Except Nat Plan :=
  let act := w.act f.g
  let l := w.lead f.g
  let arg := w.dword s f.a l
  let reply := w.dword s f.c l
  let bad := reply % 8 != 0
  match (do
      w.checkSrc act f.a 2 Tg.dword
      w.checkSrc act f.b 1 Tg.word
      w.checkSrc act f.c 2 Tg.dword : Except Nat Unit) with
  | .error e => .error e
  | .ok _ => .ok {
      oob := w.beyondField f.a 2 || w.beyondField f.b 1 || w.beyondField f.c 2,
      fails := leaderFails act (if bad then some { cause := Cause.misaligned, addr := reply } else none),
      rel := some 3,
      wait := !bad && decide ((s.ctx w.ctx).svcCap ≤ (s.ctx w.ctx).svcq.length),
      leaves := true,
      addr := reply,
      commit := fun cm s' =>
        if cm = 0 then s'
        else s'.updCtx w.ctx (fun c => { c with
          svcq := c.svcq ++ [⟨BitVec.ofNat 32 (w.word s f.b l), BitVec.ofNat 64 arg, BitVec.ofNat 64 reply, false⟩] }) }

def execSvc (f : FmtE) (s : State) : Host.Outcome State Fault Refusal :=
  s.issue (.svc f) f.g 1 (svcPlan s f)

/-- The key of a context's collective group. -/
def collKey (ctx group : Nat) : Nat := ctx * 65536 + group

/-- R273: the stop word of a chain. -/
def stopWord (cause m : Nat) : Nat := 2 ^ 63 + cause * 2 ^ 48 + m % 2 ^ 48

/-- The number by which a chain's engine goes among the cores: it has no TLB and no L1 (R204, R274). -/
def engineOf (c : ChainRef) : Nat :=
  match c with
  | .copy core _ => 2000 + dieOf core
  | .coll die _ => 2000 + die
  | .press _ | .svc _ _ => 2004

/-- The lanes by which an engine's stores go: of data and stop words, and of completion words (R273). -/
def dataLane : Nat := 0
def cwLane : Nat := 1

/-- An engine's store of a word as its context (R204, R273, R347). -/
def State.engineStore (s : State) (c : ChainRef) (ctx lane va : Nat) (bs : List Byte) : State :=
  (pageParts va bs.length).foldl (fun s p =>
    let s := s.touch (engineOf c) ctx p.1 true
    (s.store ⟨engineOf c, chainKey c, lane⟩ ctx (s.keyAt (engineOf c) ctx p.1 true) 0 ((bs.drop (p.1 - va)).take p.2)).1) s

/-- R353, R360: the requests of an engine's read of bytes of one frame: for what the proxy of its die lacks, or for the exact bytes under a
pattern with masks. -/
def State.engineAsks (s : State) (core ctx : Nat) (p : Nat × Nat) : List (Nat × HomeReq) :=
  let sp := spanFor 6 (p.1 % 256) p.2 none
  (s.maskAsk (dieOf core) ctx (p.1 / 256) (byteMask p.1 p.2)).toList ++ (s.proxyAsk (dieOf core) ctx (p.1 / 256) sp.1 sp.2).toList

/-- R365: the requests that an engine's access of a page's bytes would make: a read's, or a store's. -/
def State.engineWaits (s : State) (core ctx : Nat) (store : Bool) (parts : List (Nat × Nat)) : List (Nat × HomeReq) :=
  (parts.flatMap (fun p => frameParts p.1 p.2)).flatMap (fun p =>
    if store then (s.storeAsk .plain core ctx p.1 p.2).toList else s.engineAsks core ctx p)

/-- R365: the requests of a chain's accesses take their places among the held ones of their frames. -/
def State.holdChain (s : State) (c : ChainRef) (asks : List (Nat × HomeReq)) : State :=
  asks.foldl (fun s a => s.queueAsk (2 ^ 20 + chainKey c) a) s

/-- R365: the request that the store of a chain's completion or stop word makes, where it can be made. -/
def State.cwAsks (s : State) (c : ChainRef) (x : Chain) : List (Nat × HomeReq) :=
  if x.cwaddr != 0 && (s.probe (engineOf c) x.ctx x.cwaddr 8 .store true false).isNone then
    s.engineWaits (engineOf c) x.ctx true (s.partsAt (engineOf c) x.ctx x.cwaddr 8)
  else []

/-- R347, R365: the store of a chain's completion or stop word waits: for an invalidation of its page, or at its home. -/
def State.cwWaits (s : State) (c : ChainRef) (x : Chain) : Bool :=
  x.cwaddr != 0 && (s.invalidating x.ctx x.cwaddr || s.asksStall (s.cwAsks c x))

/-- R307: the engine and the number of a chain, as DETAIL gives them. -/
def chainDetail (c : ChainRef) (detail : Nat) : Nat :=
  let p := match c with
    | .copy _ n => (0, n)
    | .coll _ n => (1, if n < 4 then n else 0)
    | .press st => (2, st % 256)
    | .svc _ n => (3, n)
  p.1 + 2 ^ 8 * p.2 + 2 ^ 24 * detail

/-- R273, R307: the record of a chain's stop: ADDR holds the position. CORE holds the core of a copy engine. -/
def State.chainRecord (s : State) (c : ChainRef) (x : Chain) (z : Stop) (m : Nat) : Record :=
  { s.blank x.ctx z.cause with
    malf := z.malf, psn := z.psn, addr := m, core := match c with | .copy core _ => core | _ => 0x3FF,
    detail := BitVec.ofNat 128 (chainDetail c z.detail) }

/-- The stop of a failed access. -/
def LaneFail.stop (e : LaneFail) : Stop := { cause := e.cause, malf := e.malf, psn := e.psn }

/-- R301: a chain whose team has ended and that has no started entry left lets the team go. -/
def State.letGo (s : State) (c : ChainRef) : State :=
  let x := s.chain c
  match c with
  | .copy _ _ =>
    if x.closing && x.started.isEmpty then
      match Table.find s.teams x.holder with
      | some t => s.releaseTeam x.holder { t with slots := [] }
      | none => s
    else s
  | _ => s

/-- R273: the chain stops at position `m`: the stop word where there is a completion word, and one record. The cause is the reason of a
node whose one entry this is (R282). A walk for the stop word that meets a poisoned table entry loses the context (R311). -/
def State.haltChain (s : State) (c : ChainRef) (z : Stop) (m : Nat) : State :=
  let x := s.chain c
  let s0 := match nodeOf c with
    | some nid => { s with nodes := Table.upd s.nodes nid (fun n => { n with reason := z.cause, malf := z.malf, psn := z.psn }) }
    | none => s
  let s1 := s0.setChain c { x with stopped := true, started := x.started.filter (fun e => decide (e.pos < m)) }
  let s2 :=
    if x.cwaddr = 0 then s1
    else
      match s.probe (engineOf c) x.ctx x.cwaddr 8 .store true false with
      | none => s1.engineStore c x.ctx dataLane x.cwaddr (leBytes (stopWord z.cause m) 8)
      | some e => if lossCause e.cause then s1.loseContext x.ctx e.cause [] else s1
  s2.report (s.chainRecord c x z m)

/-- R273, R301: the chain stops, and an ended team that it was the last to hold leaves. -/
def State.stopChain (s : State) (c : ChainRef) (z : Stop) (m : Nat) : State := (s.haltChain c z m).letGo c

/-- R273, R347, R365: an entry at position `m` fails: the chain stops there, in position order: at once, or when the entries before it have
completed and its stop word need wait no more. No entry after it is started. -/
def State.stopAt (s : State) (c : ChainRef) (z : Stop) (m : Nat) : State :=
  let x := s.chain c
  if x.started.any (fun e => decide (e.pos < m)) || s.cwWaits c x then
    (s.holdChain c (s.cwAsks c x)).setChain c { x with started := x.started.filter (fun e => decide (e.pos < m)) ++ [⟨m, 0, 0, 0, .fail z, [], none⟩] }
  else s.stopChain c z m

/-- R384, R385: a started collective entry of a group is of an attempt other than the group's, and its writes have not reached their Tv. -/
def Started.stale (e : Started) (now group attempt : Nat) : Bool :=
  decide (0x20 ≤ bits e.hdr.toNat 0 8) && decide (bits e.hdr.toNat 0 8 ≤ 0x24) && leField e.body 8 2 == group && leField e.body 10 2 != attempt
    && !(e.await == .ready && decide (e.tv ≤ now))

/-- R385: the attempt of a group advances: the token goes to the other ranks, and every started entry of an older attempt stops its
chain. -/
def State.abortColl (s : State) (ctx group : Nat) : State :=
  match Table.find s.colls (collKey ctx group) with
  | none => s
  | some g =>
    let g1 : Coll := { g with attempt := g.attempt + 1, inbox := [], tokens := g.tokens + (g.ranks - 1) }
    let s1 := { s with colls := Table.put s.colls (collKey ctx group) g1 }
    (s.chains.map (fun e => refOf e.1)).foldl (fun s c =>
      let x := s.chain c
      if x.isOpen && x.ctx == ctx && !x.stopped then
        match x.started.find? (fun e => e.stale s.time group g1.attempt.toNat) with
        | some e => s.stopAt c { cause := Cause.collAbort } e.pos
        | none => s
      else s) s1

/-- R299: COLLABORT. -/
def collabortPlan (s : State) (f : FmtE) (w : Who) : Except Nat Plan :=
  let act := w.act f.g
  let group := w.word s f.a (w.lead f.g) % 65536
  let oob := w.beyondField f.a 1
  match w.checkSrc act f.a 1 Tg.word with
  | .error e => .error e
  | .ok _ => .ok {
      oob := oob,
      leaves := true,
      late := if act = 0 || oob || (Table.find s.colls (collKey w.ctx group)).isSome then none else some Cause.chain,
      commit := fun cm s' => if cm = 0 then s' else s'.abortColl w.ctx group }

def execCollabort (f : FmtE) (s : State) : Host.Outcome State Fault Refusal :=
  s.issue (.collabort f) f.g 1 (collabortPlan s f)

/-- R216: a FENCE.rel at a scope holds the group's later stores, and nothing else, until R205 lets it perform. -/
def Group.fenced (g : Group) (sc : Nat) : Group := if sc = 0 then g else { g with fence := some (max sc (g.fence.getD 0)) }

/-- R216: FENCE: `acq` is held until the earlier loads have returned, and `full` until R205 lets it perform; later accesses then follow it. -/
def fencePlan (s : State) (f : FmtE) (w : Who) : Except Nat Plan :=
  let act := w.act f.g
  let sc := (s.narrow w (f.mod.toNat % 8)).1
  let kind := f.mod.toNat / 8
  .ok {
    rel := if kind = 3 then some sc else none,
    wait := kind == 1 && sc != 0 && !w.g.loads.isEmpty,
    commit := fun _ s' =>
      if act = 0 then s'
      else
        let s1 := s'.noteNarrow w (f.mod.toNat % 8)
        if kind = 2 then s1.updGroup w.core w.slot (fun g => g.fenced sc) else s1.acquire w.core sc }

def execFence (f : FmtE) (s : State) : Host.Outcome State Fault Refusal :=
  s.issue (.fence f) f.g 1 (fencePlan s f)

/-- R196, R217: the arming read is made at the watched copy: the core's own words, else what serves its L1. The L1 gives up its read copies of
the bytes, so that the read brings them in and no later load of them returns an older value. -/
def State.watched (s : State) (core : Nat) (parts : List (Nat × Nat)) : State :=
  { s with bolts := (parts.flatMap (fun p => frameParts p.1 p.2)).foldl (fun bs p =>
      dropSpan (fun b => b.cache == core && !b.owned) (p.1 / 256) (spanFor 6 (p.1 % 256) p.2 none).1 (spanFor 6 (p.1 % 256) p.2 none).2 bs) s.bolts }

/-- R217: the arming read: the state after it, the bytes, and the poison that it consumes. -/
def State.armRead (s : State) (w : Who) (l va n : Nat) : State × List Byte × List (Nat × Nat) :=
  (s.watched w.core (s.partsAt w.core w.ctx va n)).leaderRead w l va n

/-- R217: the earliest moment at which a store in flight, by an agent other than the sleeping lanes, performs on a frame. -/
def State.armed (s : State) (w : Who) (m : Mask) (frame : Nat) : Option Nat :=
  (s.flight.filter (fun f => f.key / 256 == frame && decide (s.time < f.tv)
    && !(f.core == w.core && f.slot == w.slot && m.getLsbD f.lane))).foldl
      (fun t f => match t with | none => some f.tv | some x => some (min x f.tv)) none

/-- R217: MWAIT. -/
def mwaitPlan (s : State) (f : FmtE) (w : Who) : Except Nat Plan :=
  let act := w.act f.g
  let l := w.lead f.g
  let va := w.dword s f.a l
  let n := if f.mod = 1 then 8 else 4
  let fail := s.probe w.core w.ctx va n .load true true
  let r := s.armRead w l va n
  let expected := if f.mod = 1 then w.dword s f.b l else w.word s f.b l
  let tmo := w.word s f.c l
  let frame := s.keyAt w.core w.ctx va false / 256
  match (do
      w.checkSrc act f.a 2 Tg.dword
      w.checkSrc act f.b (if f.mod = 1 then 2 else 1) (if f.mod = 1 then Tg.dword else Tg.word)
      w.checkSrc act f.c 1 Tg.word : Except Nat Unit) with
  | .error e => .error e
  | .ok _ => .ok {
      oob := w.beyondField f.a 2 || w.beyondField f.b (if f.mod = 1 then 2 else 1) || w.beyondField f.c 1,
      fails := leaderFails act fail,
      leaves := true,
      addr := va,
      asks := (s.watched w.core (s.partsAt w.core w.ctx va n)).asksFor none w (leaderFails act fail) (leaderAcc act l va n),
      commit := fun cm s' =>
        if cm = 0 then s'
        else
          let q := s'.armRead w l va n
          match q.2.2 with
          | p :: ps => q.1.consume w.ctx (p :: ps)
          | [] => q.1,
      flow :=
        if fail.isSome || leNat r.2.1 ≠ expected then .seq
        else .sleep (.mwait frame (if tmo = 0 then none else some (r.1.time + tmo)) (r.1.armed w act frame)) }

def execMwait (f : FmtE) (s : State) : Host.Outcome State Fault Refusal :=
  s.issue (.mwait f) f.g 1 (mwaitPlan s f)

end Sys2Proof.Machine
end

