-- ==== Sys2Proof/Machine/Chain.lean ====
section
/-! DEFINITION. Machine/Chain.lean: what the engines do with the entries of their chains (R103, R269 to R279, R301, R341, R344, R346 to
R349, R384, R394). -/

namespace Sys2Proof.Machine

-- Engine accesses.

/-- R353, R356, R370: what an engine's read of bytes makes of their frames and of the slices that serve it. -/
def State.engineFetch (s : State) (core ctx key n : Nat) : State :=
  (frameParts key n).foldl (fun s p =>
    let sp := spanFor 6 (p.1 % 256) p.2 none
    let frame := p.1 / 256
    if s.patFor p.1 (s.tenOf ctx) = 16 then (s.recallFrame frame).homeHold frame sp.1 sp.2
    else (s.engineAsks core ctx p).foldl State.ask (s.homeHold frame sp.1 sp.2)) s

/-- R276, R347: an engine's load-class access that has passed its checks: state, bytes, the largest Tv of the stores that it met early (R208),
and the poison. -/
def State.engineRead (s : State) (c : ChainRef) (ctx va n : Nat) : State × List Byte × Nat × List (Nat × Nat) :=
  let s1 := s.touchAll (engineOf c) ctx va n false
  let s2 := (s1.partsAt (engineOf c) ctx va n).foldl (fun s p => s.engineFetch (engineOf c) ctx p.1 p.2) s1
  let r := s2.loadVa (engineOf c) (chainKey c) ctx va n
  (s2, r.1, r.2.1, r.2.2)

/-- An entry's data movement so far: the state, the failure or the consumed poison that ended it, the largest Tv of its writes and of what it
has read early, its writes that await an acknowledgement (R394), and the requests at homes that hold one of them (R365). -/
structure Move where
  s      : State
  fail   : Option Stop
  lost   : List (Nat × Nat)
  tv     : Nat
  fabric : List Nat
  held   : List (Nat × HomeReq)

/-- Nothing moved yet. -/
def Move.start (s : State) : Move := ⟨s, none, [], 0, [], []⟩

/-- It has ended early. -/
def Move.over (m : Move) : Bool := m.fail.isSome || !m.lost.isEmpty || !m.held.isEmpty

/-- It goes on with an access, unless a home holds one of the requests of it. -/
def Move.unless (m : Move) (asks : List (Nat × HomeReq)) (go : Move) : Move :=
  if m.s.asksStall asks then { m with held := asks } else go

/-- R276, R347: an engine reads `n` bytes, once more checked. -/
def Move.read (m : Move) (c : ChainRef) (ctx va n : Nat) : Move × List Byte :=
  if m.over then (m, [])
  else
    match m.s.probe (engineOf c) ctx va n .load false false with
    | some e => ({ m with fail := some e.stop }, [])
    | none =>
      let r := m.s.engineRead c ctx va n
      (m.unless (m.s.engineWaits (engineOf c) ctx false (m.s.partsAt (engineOf c) ctx va n)) { m with s := r.1, tv := max m.tv r.2.2.1, lost := r.2.2.2 }, r.2.1)

/-- R276, R311: why a write to a page's shadow cannot be made. -/
def State.shadowFail (s : State) (ctx va : Nat) : Option Nat :=
  match s.walk ctx va with
  | .leaf pte _ _ val =>
    let x := BitVec.ofNat 64 (s.mem.readNat (shadowPte pte) 8)
    if !Pte.sv val then some Cause.protect
    else if (s.shadowPoison pte).isSome then s.shadowPoison pte
    else if !Pte.v x then some Cause.unmapped
    else if Pte.tier x = 2 then some Cause.flashStore
    else none
  | _ => some Cause.unmapped

/-- R273, R394: the stores made since number `n` was the next that await an acknowledgement: those of fabric and host-shared pages. -/
def State.toSwitch (s : State) (n : Nat) : List Nat :=
  ((s.flight.filter (fun f => decide (n ≤ f.id) && s.switched f.key)).map (·.id)).eraseDups

/-- R276, R347, R381: an engine writes bytes to memory, or to the shadow copies of their pages. A write to a peer that no port reaches fails. -/
def Move.write (m : Move) (c : ChainRef) (ctx va : Nat) (bs : List Byte) (shadow : Bool) : Move :=
  if m.over then m
  else
    let parts := pageParts va bs.length
    match m.s.probe (engineOf c) ctx va bs.length .store false false with
    | some e => { m with fail := some e.stop }
    | none =>
      match (if shadow then parts.findSome? (fun p => m.s.shadowFail ctx p.1) else none) with
      | some e => { m with fail := some { cause := e } }
      | none =>
        let keyOf_ : State → Nat → Nat := fun s va => if shadow then (s.shadowKey ctx va).getD 0 else s.keyAt (engineOf c) ctx va true
        if parts.any (fun p => m.s.peerDown (keyOf_ m.s p.1)) then { m with fail := some { cause := Cause.linkDown } }
        else m.unless (m.s.engineWaits (engineOf c) ctx true (parts.map (fun p => (keyOf_ m.s p.1, p.2)))) <| parts.foldl (fun m p =>
          let s := m.s.touch (engineOf c) ctx p.1 true
          let key := keyOf_ s p.1
          let r := s.store ⟨engineOf c, chainKey c, dataLane⟩ ctx key 0 ((bs.drop (p.1 - va)).take p.2)
          { m with s := r.1, tv := max m.tv r.2, fabric := m.fabric ++ r.1.toSwitch s.free }) m

/-- R276: the value of an overlapping copy's byte: one that the source byte held during the copy (log entry 4). -/
def pickByte (n i : Nat) (a b : Byte) : Byte := if a = b then a else if (Config.free (n + i / 64)).getLsbD (i % 64) then a else b

/-- R276: one piece of a copy of at most 256 bytes: `first` is what the source held when the copy began. -/
def Move.piece (m : Move) (c : ChainRef) (ctx src dst n : Nat) (first : List Byte) (shadow : Bool) : Move :=
  let r := m.read c ctx src n
  if first = r.2 then r.1.write c ctx dst r.2 shadow
  else
    let bs := (List.range n).map (fun i => pickByte r.1.s.free i (first.getD i 0) (r.2.getD i 0))
    ({ r.1 with s := { r.1.s with free := r.1.s.free + 4 } } : Move).write c ctx dst bs shadow

/-- R276, R347: a row of a copy, 256 bytes at a time. -/
def Move.row (m : Move) (s0 : State) (c : ChainRef) (ctx src dst n : Nat) (shadow : Bool) : Move :=
  (List.range ((n + 255) / 256)).foldl (fun m i =>
    let k := min 256 (n - 256 * i)
    if m.over then m
    else
      let a := wrap 64 (src + 256 * i : Nat)
      m.piece c ctx a (wrap 64 (dst + 256 * i : Nat)) k (s0.loadVa (engineOf c) (chainKey c) ctx a k).1 shadow) m

-- Entries.

/-- What performing an entry came to: the movement, a malformed field or another stop with its detail, and what it waits for. -/
structure EntryEnd where
  m      : Move
  stop   : Option Stop
  await  : Await
  body   : List Byte
  handle : Option (Nat × Nat × Nat × Nat) := none

/-- An entry with a reserved or out-of-range field: GF_CHAIN (R273). -/
def EntryEnd.bad (s : State) (cause detail : Nat) : EntryEnd := { m := .start s, stop := some { cause := cause, detail := detail }, await := .ready, body := [] }

/-- An entry whose movement is done. -/
def EntryEnd.moved (m : Move) : EntryEnd :=
  { m := m, stop := none, await := if m.fabric.isEmpty then .ready else .fabric m.fabric, body := [] }

/-- An entry that moves nothing. -/
def EntryEnd.still (s : State) (a : Await) (body : List Byte) : EntryEnd := { m := .start s, stop := none, await := a, body := body }

/-- Bytes `lo` to `lo + n - 1` are zero. -/
def zeros (b : List Byte) (lo n : Nat) : Bool := leField b lo n == 0

/-- R269: the entry types that a chain's engine accepts. -/
def accepts (c : ChainRef) (t : Nat) : Bool :=
  match c with
  | .copy _ _ => decide (t ≤ 6)
  | .coll _ _ => [0, 1, 2, 4, 5, 6, 0x20, 0x21, 0x22, 0x23, 0x24].contains t
  | .press _ => [0, 4, 5, 6, 0x10, 0x11, 0x12].contains t
  | .svc _ _ => [0, 4, 6, 0x30].contains t

/-- R272: a semaphore reference, as its header bits [31:16] lie, that keeps the layout. -/
def semRefGood (c : ChainRef) (r : Nat) : Bool :=
  bits r 6 2 == 0 && (bits r 15 1 == 1 || bits r 8 7 == 0) && (match c with | .copy _ _ => true | _ => bits r 15 1 == 0)

/-- R272: a header that keeps the layout. -/
def hdrGood (c : ChainRef) (h : Nat) : Bool := bits h 48 16 == 0 && bits h 11 5 == 0 && semRefGood c (bits h 16 16)

/-- R272: the team whose semaphores the entries of a chain name: its own, or the one that last moved the tail. -/
def Chain.team (x : Chain) (c : ChainRef) : Nat :=
  match c with
  | .copy _ _ => x.holder
  | _ => ((x.stamps.getLast?).map (fun e => e.2.2)).getD 0

/-- R272, R280: the semaphore that a reference of a chain names. -/
def State.entrySem (s : State) (c : ChainRef) (r : Nat) : Option SemAt :=
  s.semRef ((s.chain c).team c) (bits r 15 1 == 1) (bits r 8 7) (bits r 0 6)

/-- R276: COPY. -/
def doCopy (s : State) (c : ChainRef) (x : Chain) (b : List Byte) : EntryEnd :=
  let len := leField b 24 8
  let flags := leField b 32 4
  if len > 2 ^ 40 || flags > 1 || !zeros b 36 28 then .bad s Cause.chain 0
  else .moved ((Move.start s).row s c x.ctx (leField b 8 8) (leField b 16 8) len (flags == 1))

/-- R276: COPY3D, row by row. -/
def doCopy3d (s : State) (c : ChainRef) (x : Chain) (b : List Byte) : EntryEnd :=
  let rb := leField b 24 4
  let n1 := leField b 28 2
  let n2 := leField b 30 2
  let flags := leField b 48 4
  let at_ : Nat → Nat → Nat → Nat → Nat → Nat := fun base f1 f2 i j =>
    wrap 64 ((leField b base 8 : Int) + i * signed 32 (leField b f1 4) + j * signed 32 (leField b f2 4))
  if rb = 0 || rb > 2 ^ 24 || n1 = 0 || n2 = 0 || flags > 1 || !zeros b 52 12 then .bad s Cause.chain 0
  else .moved ((List.range (n1 * n2)).foldl (fun m k =>
    m.row s c x.ctx (at_ 8 32 36 (k % n1) (k / n1)) (at_ 16 40 44 (k % n1) (k / n1)) rb (flags == 1)) (Move.start s))

/-- The fields of COPYH (R277). -/
structure CopyH where
  mem    : Nat
  handle : Nat
  hrow   : Nat
  hcol   : Nat
  rows   : Nat
  rb     : Nat
  stride : Int
  toMem  : Bool
  shadow : Bool
  bp     : Bool
  planes : Nat
  k      : Nat
  e0     : Int

/-- R277: the fields of an entry. -/
def CopyH.of (b : List Byte) : CopyH :=
  let f := leField b 40 4
  ⟨leField b 8 8, leField b 16 4, leField b 20 4, leField b 24 4, leField b 28 4, leField b 32 4, signed 32 (leField b 36 4),
   bits f 0 1 == 1, bits f 1 1 == 1, bits f 2 1 == 1, bits f 3 4, leField b 44 4, signed 64 (leField b 48 8)⟩

/-- R277: fields within their ranges. -/
def CopyH.good (h : CopyH) (b : List Byte) : Bool :=
  leField b 40 4 < 128 && zeros b 56 8 && decide (1 ≤ h.rows) && decide (h.rows ≤ 65535) && (!h.shadow || h.toMem)
    && (if h.bp then !h.toMem && decide (2 ≤ h.planes) && decide (h.planes ≤ 8) && h.rb == 0 && h.mem % 1024 == 0 && h.k % 32 == 0
          && decide (32 ≤ h.k) && decide (h.k ≤ 3072)
        else h.planes == 0)

/-- R290: where the storage of a tile-table entry stands: on a core's scratchpad, or in a saved team. -/
inductive Store where
  | live (key : Nat) (h : Handle)
  | saved (tid key : Nat) (h : Handle)
deriving DecidableEq, Repr

/-- The entry. -/
def Store.entry : Store → Handle
  | .live _ h => h
  | .saved _ _ h => h

/-- R277: what names it. -/
def Store.name : Store → Nat × Nat × Nat × Nat
  | .live k h | .saved _ k h => h.name (k % 256)

/-- R179, R290: the tile-table entry that a handle names for a group of a chain's team: on a core, or in a team that is saved. -/
def State.storeOf (s : State) (tid h : Nat) : Option Store :=
  match Table.find s.teams tid with
  | none => none
  | some t =>
    match s.handleOf t.core tid t h with
    | some e => some (.live e.1 e.2)
    | none =>
      if bits h 21 11 ≠ 0 || Hd.index h = 255 || Hd.level h ≠ 2 then none
      else (s.saved.filter (fun k => k.2.team.cluster == t.cluster)).findSome? (fun k =>
        match Table.find k.2.handles (Hd.holder h * 256 + Hd.index h) with
        | some x => if x.1.level = 2 && x.1.holder == Hd.holder h && x.2.1 == Hd.gen h then
            some (.saved k.1 (Hd.holder h * 256 + Hd.index h) x.1) else none
        | none => none)

/-- Bytes of an entry's storage from `o` on, as an engine sees them (R181). -/
def State.readStore (s : State) (engine : Nat) (p : Store) (o n : Nat) : List Byte :=
  match p with
  | .live k h => (s.readHandle engine 0 (k / 256 * 2 ^ 19 + h.base + o) n).1
  | .saved t k _ => match (Table.find s.saved t).bind (fun x => Table.find x.handles k) with
    | some x => (x.2.2.drop o).take n
    | none => []

/-- Bytes of an entry's storage are written from `o` on (R181, R290). -/
def State.writeStore (s : State) (p : Store) (o : Nat) (bs : List Byte) : State :=
  match p with
  | .live k h => s.writeScratch (k / 256 * 2 ^ 19 + h.base + o) bs
  | .saved t k _ => { s with saved := Table.upd s.saved t (fun x => { x with
      handles := Table.upd x.handles k (fun y => (y.1, y.2.1, y.2.2.take o ++ bs ++ y.2.2.drop (o + bs.length))) }) }

/-- R179, R277: where in an entry's storage row `i` lies, for `n` bytes, if the handle is good for it. -/
def State.copyhRow (s : State) (x : Chain) (h : CopyH) (i n : Nat) : Option (Store × Nat) :=
  match s.storeOf x.holder h.handle with
  | none => none
  | some p =>
    let e := p.entry
    if n % e.es = 0 && decide (h.hrow + i < e.rows) && decide (h.hcol * e.es + n ≤ e.cols * e.es) then
      some (p, ((h.hrow + i) * e.cols + h.hcol) * e.es)
    else none

/-- R277: a plain row. -/
def Move.plainRow (m : Move) (c : ChainRef) (x : Chain) (h : CopyH) (i : Nat) : Move :=
  match m.s.copyhRow x h i h.rb with
  | none => { m with fail := some { cause := Cause.handle } }
  | some at_ =>
    (List.range ((h.rb + 255) / 256)).foldl (fun m j =>
      let n := min 256 (h.rb - 256 * j)
      let va := wrap 64 ((h.mem : Int) + i * h.stride + 256 * j)
      if m.over then m
      else if h.toMem then m.write c x.ctx va (m.s.readStore (engineOf c) at_.1 (at_.2 + 256 * j) n) h.shadow
      else
        let r := m.read c x.ctx va n
        if r.1.over then r.1
        else { r.1 with s := r.1.s.writeStore at_.1 (at_.2 + 256 * j) r.2 }) m

/-- R103, R277: bit `e` of plane `p` (0: the sign plane) of row `i`: its byte's address and its place there. -/
def CopyH.planeBit (h : CopyH) (i p e : Nat) : Nat × Nat :=
  let idx : Int := signed 64 (wrap 64 (h.e0 + i * h.stride + e))
  (wrap 64 ((h.mem : Int) + 1024 * (idx / 1024) + 128 * p + (idx % 1024) / 8), (idx % 8).toNat)

/-- R277: a row in BP mode: each byte of its planes is fetched once. -/
def Move.bpRow (m : Move) (c : ChainRef) (x : Chain) (h : CopyH) (i : Nat) : Move :=
  match m.s.copyhRow x h i (h.planes * h.k / 8) with
  | none => { m with fail := some { cause := Cause.handle } }
  | some at_ =>
    let places := (List.range h.planes).flatMap (fun p => (List.range h.k).map (h.planeBit i p))
    let addrs := places.foldl (fun acc a => if acc.head? = some a.1 then acc else a.1 :: acc) []
    let r := addrs.reverse.foldl (fun (acc : Move × Table Byte) a =>
      let q := acc.1.read c x.ctx a 1
      (q.1, if q.1.over then acc.2 else Table.put acc.2 a (q.2.getD 0 0))) (m, [])
    if r.1.over then r.1
    else
      let bit : Nat → Bool := fun j => match places[j]? with
        | some a => (Table.getD r.2 0 a.1).getLsbD a.2
        | none => false
      let bs := (List.range (h.planes * h.k / 8)).map (fun j =>
        BitVec.ofNat 8 ((List.range 8).foldl (fun v u => v + if bit (8 * j + u) then 2 ^ u else 0) 0))
      { r.1 with s := r.1.s.writeStore at_.1 at_.2 bs }

/-- R277: COPYH. -/
def doCopyh (s : State) (c : ChainRef) (x : Chain) (b : List Byte) : EntryEnd :=
  let h := CopyH.of b
  if !h.good b then .bad s Cause.chain 0
  else
    match s.storeOf x.holder h.handle with
    | none => .bad s Cause.handle 0
    | some p =>
      if !h.bp && h.rb % p.entry.es ≠ 0 then .bad s Cause.chain 0
      else { EntryEnd.moved ((List.range h.rows).foldl (fun m i =>
          if m.over then m else if h.bp then m.bpRow c x h i else m.plainRow c x h i) (Move.start s)) with
        handle := some p.name }

/-- R278: NOP and SIGNAL: no body. -/
def doEmpty (s : State) (b : List Byte) : EntryEnd := if zeros b 8 56 then .still s .ready [] else .bad s Cause.chain 0

/-- R278, R281: WAITSEM: waiters whose wake is due are served before it arrives. -/
def doWaitsem (s : State) (c : ChainRef) (b : List Byte) : EntryEnd :=
  let r := leField b 8 2
  let thr := leField b 12 4
  let dec := leField b 16 1
  if !semRefGood c r || !zeros b 10 2 || dec > 1 || !zeros b 17 47 then .bad s Cause.chain 0
  else
    match s.entrySem c r with
    | none => .bad s Cause.handle 0
    | some p =>
      let s1 := match p with | .live k => s.serveSem k | .saved _ _ => s
      if thr ≤ s1.semVal p then .still (if dec = 1 then s1.semPut p (s1.semVal p - thr) else s1) .ready []
      else
        let key := match p with | .live k => k | .saved t i => 2 ^ 32 + t * 64 + i
        let far := match p with | .live _ => bits r 15 1 == 1 | .saved _ _ => true
        .still { s1 with semq := s1.semq ++ [⟨.chain c, key, thr, dec == 1, far, s1.order⟩], order := s1.order + 1 } .sem []

/-- R278: LINK: the ring changes when the entry has completed. -/
def doLink (s : State) (b : List Byte) : EntryEnd :=
  if leField b 8 8 % 64 ≠ 0 || leField b 16 1 = 0 || leField b 16 1 > 16 || !zeros b 17 47 then .bad s Cause.chain 0
  else .still s .ready b

-- The Press.

/-- A stream that has never been bound. -/
def Stream.fresh : Stream := ⟨none, 0, 0, 0, 0, 1, 0, 0, 0, 0, []⟩

/-- A stream. -/
def State.stream (s : State) (n : Nat) : Stream := Table.getD s.streams Stream.fresh n

/-- Sets a stream. -/
def State.setStream (s : State) (n : Nat) (x : Stream) : State := { s with streams := Table.setD s.streams Stream.fresh n x }

/-- CRC-32C (R340): one bit. -/
def crcStep (c : BitVec 32) : BitVec 32 := (c >>> 1) ^^^ (if c.getLsbD 0 then 0x82F63B78 else 0)

/-- CRC-32C of bytes (log entry 17). -/
def crc32c (bs : List Byte) : BitVec 32 :=
  bs.foldl (fun c b => (List.range 8).foldl (fun c _ => crcStep c) (c ^^^ b.zeroExtend 32)) 0xFFFFFFFF ^^^ 0xFFFFFFFF

/-- R340: the header block of a record. -/
def pressHeader (stream seq time : Nat) (payload : List Byte) : List Byte :=
  let h := leBytes seq 8 ++ leBytes payload.length 4 ++ leBytes (crc32c payload).toNat 4 ++ [BitVec.ofNat 8 stream] ++ leBytes 0 7
    ++ leBytes time 8 ++ leBytes 0 28
  h ++ leBytes (crc32c h).toNat 4 ++ leBytes 0 192

/-- R341: bytes that a record takes of the log, its skip among them. -/
def PressRec.size (r : PressRec) : Nat := r.skip + r.bytes.length

/-- R340, R341: where the next record of `n` bytes would start, and the bytes that it skips. -/
def Stream.place (x : Stream) (n : Nat) : Nat × Nat := if x.nextOff + n > x.len then (0, x.len - x.nextOff) else (x.nextOff, 0)

/-- R341: the room of a stream's log. -/
def Stream.room (x : Stream) : Nat := x.len - (x.recs.filter (fun r => decide (x.trimseq ≤ r.seq))).foldl (fun n r => n + r.size) 0

/-- The key of a flash address. -/
def flashKey (pa : Nat) : Nat := keyOf 2 pa

/-- A write of the Press to a stream's region: the state and its Tv (R339, R350). -/
def State.pressStore (s : State) (x : Stream) (off : Nat) (bs : List Byte) : State × Nat :=
  let blocks := (List.range ((x.pa + off + bs.length - 1) / 4096 + 1 - (x.pa + off) / 4096)).map (· + flashKey (x.pa + off) / 4096)
  let s1 := { s with resident := blocks.foldl insertNat s.resident }
  s1.store Agent.engine (x.ctx.getD noCtx) (flashKey (x.pa + off)) 0 bs

/-- R339, R342: a store of the Press to a stream's region is followed by another only once it has performed. -/
def State.pressWrite (s : State) (x : Stream) (off : Nat) (bs : List Byte) : State :=
  let r := s.pressStore x off bs
  r.1.later r.2

/-- R343: the bytes of the log from `lo` to `hi` - 1 meet those of a record. -/
def PressRec.meets (r : PressRec) (lo hi : Nat) : Bool := decide (r.off < hi) && decide (lo < r.off + r.bytes.length)

/-- R343, R350: what is left of a trimmed record whose bytes from `lo` to `hi` - 1 of the log have been taken. -/
def PressRec.left (r : PressRec) (lo hi : Nat) : List PressRec :=
  if !r.meets lo hi then [r]
  else
    (if r.off < lo then [{ r with skip := 0, bytes := r.bytes.take (lo - r.off) }] else [])
      ++ (if hi < r.off + r.bytes.length then [{ r with off := hi, skip := 0, bytes := r.bytes.drop (hi - r.off) }] else [])

/-- R343, R350: a stream's log after the space from `lo` to `hi` - 1 has been taken for a new record: where trimmed records stood the bytes
read as 0xFF again, and what is left of those records stays. -/
def State.reuse (s : State) (st lo hi : Nat) : State :=
  let x := s.stream st
  if x.recs.any (fun r => r.meets lo hi) then
    (s.pressWrite x (4096 + lo) (List.replicate (hi - lo) 0xFF)).setStream st { x with recs := x.recs.flatMap (fun r => r.left lo hi) }
  else s

/-- R341: PRESS.APPEND. -/
def doAppend (s : State) (st : Nat) (c : ChainRef) (x : Chain) (b : List Byte) : EntryEnd :=
  let len := leField b 16 4
  let seqaddr := leField b 24 8
  if len < 256 || len > 2 ^ 20 || len % 256 ≠ 0 || seqaddr % 8 ≠ 0 || !zeros b 20 4 || !zeros b 32 32 then .bad s Cause.chain 0
  else
    let r := (List.range (len / 256)).foldl (fun (acc : Move × List Byte) i =>
      let q := acc.1.read c x.ctx (wrap 64 (leField b 8 8 + 256 * i : Nat)) 256
      (q.1, acc.2 ++ q.2)) (Move.start s, [])
    if r.1.over then .moved r.1
    else
      let y := r.1.s.stream st
      let pl := y.place (256 + len)
      if y.room < pl.2 + 256 + len then { EntryEnd.moved r.1 with stop := some { cause := Cause.chain, detail := 1 } }
      else
        let seq := y.last + 1
        let rec1 : PressRec := ⟨seq, pl.1, pl.2, pressHeader st seq s.time r.2 ++ r.2⟩
        let s0 := (r.1.s.reuse st (y.len - pl.2) y.len).reuse st pl.1 (pl.1 + 256 + len)
        let y1 := { s0.stream st with last := seq, nextOff := pl.1 + 256 + len, recs := (s0.stream st).recs ++ [rec1] }
        let s1 := (s0.setStream st y1).setChain c { s0.chain c with seq := seq }
        if seqaddr = 0 then .moved { r.1 with s := s1 }
        else .moved (({ r.1 with s := s1 } : Move).write c x.ctx seqaddr (leBytes seq 8) false)

/-- R344: PRESS.SYNC waits for the records of the appends at earlier positions of its chain. -/
def doSync (s : State) (x : Chain) (b : List Byte) : EntryEnd :=
  if zeros b 8 56 then .still s (.sync x.seq) [] else .bad s Cause.chain 0

/-- R339: HEADOFF: the offset of record TRIMSEQ once it is posted, else TAILOFF. -/
def Stream.headOff (x : Stream) : Nat :=
  match x.recs.find? (fun r => r.seq == x.trimseq && decide (r.seq ≤ x.dseq)) with
  | some r => r.off
  | none => x.tailoff

/-- R344: PRESS.TRIM: TRIMSEQ and HEADOFF move in one step. The trimmed records stay in the log until their space is taken (R343). -/
def doTrim (s : State) (st : Nat) (b : List Byte) : EntryEnd :=
  let keep := leField b 8 8
  let y := s.stream st
  if !zeros b 16 48 || keep > y.dseq + 1 then .bad s Cause.chain 0
  else if keep ≤ y.trimseq then .still s .ready []
  else
    let y1 := { y with trimseq := keep }
    let y2 := { y1 with head := y1.headOff }
    let r := (s.setStream st y2).pressStore y2 8 (leBytes keep 8 ++ leBytes y2.head 8)
    .moved { Move.start r.1 with tv := r.2 }

-- Collectives.

/-- R279: the element width in bytes of a collective's tag, none where the tag is not in the list. -/
def collWidth (tag : Nat) : Option Nat :=
  if tag = Tg.i32 || tag = Tg.n32 || tag = Tg.f32 then some 4 else if tag = Tg.f16 || tag = Tg.bf16 then some 2 else none

/-- R384: one node of the tree. -/
def collCombine (tag op : Nat) (a b : Nat) : Nat :=
  if Tg.flt tag then
    let fm := fmtOf tag
    match op with
    | 0 => (fm.roundFV 1 ((fm.value a).add (fm.value b)).1).1
    | k => (fm.roundFV 1 (FV.pick (k == 2) (fm.value a) (fm.value b))).1
  else
    match op with
    | 0 => (a + b) % 2 ^ 32
    | 1 => if ival tag 32 a ≤ ival tag 32 b then a else b
    | _ => if ival tag 32 a ≤ ival tag 32 b then b else a

/-- R150, R384: the tree over rank numbers, twelve levels. -/
def rankTree (tag op : Nat) (vs : List Nat) : Nat :=
  (((List.range 12).foldl (fun l _ => treeLevel (collCombine tag op) l) (vs.map some)).head?.getD none).getD 0

/-- The fields of a COLL entry (R279) and its group. -/
structure CollOp where
  kind  : Nat
  group : Nat
  att   : Nat
  op    : Nat
  tag   : Nat
  w     : Nat
  src   : Nat
  dst   : Nat
  count : Nat
  root  : Nat

/-- R279, R384: the entry's fields, if they keep the layout. -/
def CollOp.of (b : List Byte) (ranks : Nat) : Option CollOp :=
  match collWidth (leField b 13 1) with
  | none => none
  | some w =>
    let r : CollOp := ⟨leField b 0 1 - 0x20, leField b 8 2, leField b 10 2, leField b 12 1, leField b 13 1, w, leField b 16 8,
      leField b 24 8, leField b 32 8, leField b 40 4⟩
    if r.op > 2 || !zeros b 14 2 || !zeros b 44 20 || decide (ranks ≤ r.root) then none else some r

/-- R384: how many elements of its source this rank reads. -/
def CollOp.reads (o : CollOp) (g : Coll) : Nat :=
  match o.kind with
  | 0 | 1 => o.count
  | 2 | 3 => g.ranks * o.count
  | _ => if g.rank = o.root then o.count else 0

/-- R384: the ranks whose data this rank needs. -/
def CollOp.needs (o : CollOp) (g : Coll) : List Nat :=
  if o.kind = 4 then (if g.rank = o.root then [] else [o.root]) else (List.range g.ranks).filter (· != g.rank)

/-- R384: the data of the ranks it needs has arrived. -/
def CollOp.ready (o : CollOp) (g : Coll) : Bool := (o.needs g).all (fun r => decide (o.count * o.w ≤ (Table.getD g.inbox [] r).length))

/-- R384: the bytes of DST from this rank's source bytes and the others'. -/
def CollOp.result (o : CollOp) (g : Coll) (mine : List Byte) : List Byte :=
  let n := o.count * o.w
  let own := match o.kind with
    | 2 | 3 => (mine.drop (g.rank * n)).take n
    | _ => mine
  let from_ : Nat → List Byte := fun r => if r = g.rank then own else (Table.getD g.inbox [] r).take n
  match o.kind with
  | 0 | 2 => (List.range o.count).flatMap (fun i =>
      leBytes (rankTree o.tag o.op ((List.range g.ranks).map (fun r => leField (from_ r) (i * o.w) o.w))) o.w)
  | 1 | 3 => (List.range g.ranks).flatMap from_
  | _ => from_ o.root

/-- R347: reads of an engine, 256 bytes at a time. -/
def Move.readAll (m : Move) (c : ChainRef) (ctx va n : Nat) : Move × List Byte :=
  (List.range ((n + 255) / 256)).foldl (fun (acc : Move × List Byte) i =>
    let q := acc.1.read c ctx (wrap 64 (va + 256 * i : Nat)) (min 256 (n - 256 * i))
    (q.1, acc.2 ++ q.2)) (m, [])

/-- R347: writes of an engine, 256 bytes at a time. -/
def Move.writeAll (m : Move) (c : ChainRef) (ctx va : Nat) (bs : List Byte) : Move :=
  (List.range ((bs.length + 255) / 256)).foldl (fun m i =>
    m.write c ctx (wrap 64 (va + 256 * i : Nat)) ((bs.drop (256 * i)).take 256) false) m

/-- R384: a collective whose data is there performs: the source is read, DST is written, and the peers' data is used. -/
def performColl (s : State) (c : ChainRef) (ctx : Nat) (o : CollOp) (g : Coll) (b : List Byte) : EntryEnd :=
  let r := (Move.start s).readAll c ctx o.src (o.reads g * o.w)
  if r.1.over then .moved r.1
  else
    let m := r.1.writeAll c ctx o.dst (o.result g r.2)
    let used := { g with inbox := (o.needs g).foldl (fun t q =>
      Table.setD t [] q ((Table.getD t [] q).drop (o.count * o.w))) g.inbox }
    { EntryEnd.moved { m with s := { m.s with colls := Table.put m.s.colls (collKey ctx o.group) used } } with body := b }

/-- R279, R299, R384, R385: COLL.*. A group that the context does not hold stops the chain with GF_CHAIN. -/
def doColl (s : State) (c : ChainRef) (x : Chain) (b : List Byte) : EntryEnd :=
  match Table.find s.colls (collKey x.ctx (leField b 8 2)) with
  | none => .bad s Cause.chain 0
  | some g =>
    match CollOp.of b g.ranks with
    | none => .bad s Cause.chain 0
    | some o =>
      if o.att ≠ g.attempt.toNat then .bad s Cause.collAbort 0
      else if o.ready g && !x.started.any (fun e => match e.await with | .coll gr _ => gr == o.group | _ => false) then
        performColl s c x.ctx o g b
      else .still s (.coll o.group o.att) b

/-- R338: a write of service firmware to flash, outside the regions of the streams. Each has performed before the next. -/
def State.firmwareWrite (s : State) (pa : Nat) (bs : List Byte) : State :=
  if decide (7 * 2 ^ 40 < pa + bs.length) || s.streams.any (fun e => decide (e.2.pa < pa + bs.length)
      && decide (pa < e.2.pa + 4096 + e.2.len) && e.2.len != 0) then s
  else
    let r := s.store Agent.engine noCtx (flashKey pa) 0 bs
    r.1.later r.2

/-- R388: service firmware raises some of the vectors 5 to 63 of a context's tenancy. -/
def State.raiseVectors (s : State) (ctx : Nat) (vs : List Nat) : State :=
  (vs.filter (fun v => decide (5 ≤ v) && decide (v ≤ 63))).foldl (fun s v => s.interrupt ctx v) s

/-- R279, R298, R338, R388: SVCREQ: what its function does is service firmware's; the flash that it writes is written and the interrupts that it
raises are raised first, and then its reply word is written, as a release at `.dev`. -/
def doSvcreq (s : State) (c : ChainRef) (x : Chain) (b : List Byte) (reply : SvcReply) : EntryEnd :=
  if !zeros b 12 4 || leField b 24 8 % 8 ≠ 0 || !zeros b 32 32 then .bad s Cause.chain 0
  else
    let s1 := (reply.writes.foldl (fun s w => s.firmwareWrite w.1 w.2) s).raiseVectors x.ctx reply.vectors
    .moved ((Move.start s1).write c x.ctx (leField b 24 8) (leBytes reply.word.toNat 8) false)

-- Taking an entry.

/-- R271: the address of the entry at a position. -/
def Chain.slot (x : Chain) (m : Nat) : Nat := wrap 64 (x.base + 64 * ((m - x.start) % 2 ^ x.logn) : Nat)

/-- R274: the stamp of a position: its generation. -/
def Chain.genOf (x : Chain) (m : Nat) : Nat := ((x.stamps.find? (fun e => decide (m < e.1))).map (fun e => e.2.1)).getD 0

/-- R269, R271, R273, R375: the engine may take an entry of a chain. A WAITSEM that waits, a LINK that has not completed, and an entry
that has failed hold the entries behind them. -/
def State.mayTake (s : State) (x : Chain) : Bool :=
  x.isOpen && !x.stopped && !x.closing && decide (x.nxt < x.tail) && (s.ctx x.ctx).mode == .live
    && !s.invals.any (fun i => i.ctx == x.ctx)
    && !x.started.any (fun e => e.await == .sem || e.await.failed || bits e.hdr.toNat 0 8 == 6)

/-- R273: an entry acts as if FN were set. -/
def fnOf (h : Nat) : Bool := bits h 10 1 == 1 || [4, 5, 6, 0x11].contains (bits h 0 8)

/-- R273, R311: an access of an engine that fails stops the entry at `m`; one whose walk met a poisoned table entry loses the context. -/
def State.engineFail (s : State) (c : ChainRef) (z : Stop) (m : Nat) : State :=
  if lossCause z.cause then s.loseContext (s.chain c).ctx z.cause [] else s.stopAt c z m

/-- What an entry's performing leaves of its chain: it has started, or the chain has stopped, or the context is lost; or it waits at a home, and
none of it has been done (R365). -/
def State.afterEntry (s : State) (c : ChainRef) (m : Nat) (h : Dword) (gen : Nat) (e : EntryEnd) : State :=
  let ctx := (s.chain c).ctx
  match e.m.lost with
  | p :: ps => e.m.s.consume ctx (p :: ps)
  | [] =>
    if !e.m.held.isEmpty then s.holdChain c e.m.held
    else
      match e.m.fail, e.stop with
      | some z, _ => e.m.s.engineFail c z m
      | none, some z => e.m.s.stopAt c z m
      | none, none =>
        let x := e.m.s.chain c
        let st : Started := ⟨m, h, max s.time e.m.tv, gen, e.await, e.body, e.handle⟩
        e.m.s.setChain c { x with nxt := m + 1, started := x.started ++ [st] }

/-- R271 to R275, R346: the engine takes the next entry of a chain and performs it with `act`, if it is one of the types `ty`. A malformed
header, or a type that the engine does not accept, stops the chain. The writes of an entry whose stamp is stale are dropped. -/
def State.takeEntry (s : State) (c : ChainRef) (ty : Nat → Bool) (act : State → Chain → List Byte → EntryEnd) : State :=
  let x := s.chain c
  if !s.mayTake x || !chainGood c then s
  else
    let m := x.nxt
    let va := x.slot m
    match s.probe (engineOf c) x.ctx va 64 .load false false with
    | some e => s.engineFail c e.stop m
    | none =>
      let asks := s.engineWaits (engineOf c) x.ctx false (s.partsAt (engineOf c) x.ctx va 64)
      let r := s.engineRead c x.ctx va 64
      let h := leField r.2.1 0 8
      if s.asksStall asks then s.holdChain c asks else
      match r.2.2.2 with
      | p :: ps => r.1.consume x.ctx (p :: ps)
      | [] =>
        if !hdrGood c h || !accepts c (bits h 0 8) then r.1.stopAt c { cause := Cause.chain } m
        else if !ty (bits h 0 8) || (fnOf h && !x.started.isEmpty) then s
        else if x.genOf m ≠ (s.ctx x.ctx).gen then
          r.1.afterEntry c m (BitVec.ofNat 64 h) (x.genOf m) (.still r.1 .ready [])
        else r.1.afterEntry c m (BitVec.ofNat 64 h) (x.genOf m) (act r.1 x r.2.1)

def execNopEntry (c : ChainRef) (s : State) : Host.Outcome State Fault Refusal :=
  .next (s.takeEntry c (· == 0) (fun s _ b => doEmpty s b))

def execCopyEntry (c : ChainRef) (s : State) : Host.Outcome State Fault Refusal :=
  .next (s.takeEntry c (· == 1) (fun s x b => doCopy s c x b))

def execCopy3d (c : ChainRef) (s : State) : Host.Outcome State Fault Refusal :=
  .next (s.takeEntry c (· == 2) (fun s x b => doCopy3d s c x b))

def execCopyh (c : ChainRef) (s : State) : Host.Outcome State Fault Refusal :=
  .next (s.takeEntry c (· == 3) (fun s x b => doCopyh s c x b))

def execSignal (c : ChainRef) (s : State) : Host.Outcome State Fault Refusal :=
  .next (s.takeEntry c (· == 4) (fun s _ b => doEmpty s b))

def execWaitsem (c : ChainRef) (s : State) : Host.Outcome State Fault Refusal :=
  .next (s.takeEntry c (· == 5) (fun s _ b => doWaitsem s c b))

def execLink (c : ChainRef) (s : State) : Host.Outcome State Fault Refusal :=
  .next (s.takeEntry c (· == 6) (fun s _ b => doLink s b))

/-- The stream of a Press chain. -/
def streamOf (c : ChainRef) : Nat :=
  match c with
  | .press st => st % 256
  | _ => 0

def execPressAppend (c : ChainRef) (s : State) : Host.Outcome State Fault Refusal :=
  .next (s.takeEntry c (· == 0x10) (fun s x b => doAppend s (streamOf c) c x b))

def execPressSync (c : ChainRef) (s : State) : Host.Outcome State Fault Refusal :=
  .next (s.takeEntry c (· == 0x11) (fun s x b => doSync s x b))

def execPressTrim (c : ChainRef) (s : State) : Host.Outcome State Fault Refusal :=
  .next (s.takeEntry c (· == 0x12) (fun s _ b => doTrim s (streamOf c) b))

def execCollAllreduce (c : ChainRef) (s : State) : Host.Outcome State Fault Refusal :=
  .next (s.takeEntry c (· == 0x20) (fun s x b => doColl s c x b))

def execCollAllgather (c : ChainRef) (s : State) : Host.Outcome State Fault Refusal :=
  .next (s.takeEntry c (· == 0x21) (fun s x b => doColl s c x b))

def execCollRedscat (c : ChainRef) (s : State) : Host.Outcome State Fault Refusal :=
  .next (s.takeEntry c (· == 0x22) (fun s x b => doColl s c x b))

def execCollAlltoall (c : ChainRef) (s : State) : Host.Outcome State Fault Refusal :=
  .next (s.takeEntry c (· == 0x23) (fun s x b => doColl s c x b))

def execCollBcast (c : ChainRef) (s : State) : Host.Outcome State Fault Refusal :=
  .next (s.takeEntry c (· == 0x24) (fun s x b => doColl s c x b))

/-- While a switch of firmware waits, a queued call waits for the new version (R393). -/
def execSvcreq (c : ChainRef) (reply : SvcReply) (s : State) : Host.Outcome State Fault Refusal :=
  .next (if s.fw.pending then s else s.takeEntry c (· == 0x30) (fun s x b => doSvcreq s c x b reply))

-- Completions.

/-- R394: the stores of some numbers have been acknowledged. -/
def State.acked (s : State) (ids : List Nat) : Bool := !s.flight.any (fun f => ids.contains f.id && s.waiting f)

/-- R273, R344, R394: a started entry may complete. -/
def State.mayComplete (s : State) (c : ChainRef) (e : Started) : Bool :=
  match e.await with
  | .ready => true
  | .fabric ids => s.acked ids
  | .sync n => decide (n ≤ (s.stream (streamOf c)).dseq)
  | _ => false

/-- R273: CW: the completed count is written to CWADDR: the state, and why it failed. -/
def State.cwStore (s : State) (c : ChainRef) (x : Chain) (v : Nat) : State × Option Stop :=
  if x.cwaddr = 0 then (s, none)
  else
    match s.probe (engineOf c) x.ctx x.cwaddr 8 .store true false with
    | some e => (s, some e.stop)
    | none =>
      if s.peerDown (s.keyAt (engineOf c) x.ctx x.cwaddr true) then (s, some { cause := Cause.linkDown })
      else (s.engineStore c x.ctx cwLane x.cwaddr (leBytes v 8), none)

/-- R211, R348: the completion words that a chain has written and that have not performed. -/
def State.cwFlights (s : State) (c : ChainRef) (x : Chain) : List Flight :=
  s.flight.filter (fun f => f.core == engineOf c && f.slot == chainKey c && f.lane == cwLane && f.ctx == x.ctx && s.waiting f)

/-- R273, R280, R301, R348: SG: the amount is added; one to a team that has ended is dropped. A reference to no semaphore stops the chain. -/
def State.sgAdd (s : State) (c : ChainRef) (x : Chain) (h m : Nat) : State :=
  let r := bits h 16 16
  let ty := bits h 0 8
  let dev := decide (0x10 ≤ ty) || (ty == 4 && (match c with | .copy _ _ => false | _ => true))
  if s.semEnded (x.team c) (bits r 15 1 == 1) (bits r 8 7) then s
  else
    match s.entrySem c r with
    | none => s.stopAt c { cause := Cause.handle } m
    | some p => s.semAdd p (bits h 32 16 : Nat) dev

/-- R278: the chain after an entry has completed: Cc, and the new ring of a LINK. -/
def Chain.complete (x : Chain) (e : Started) (rest : List Started) : Chain :=
  let x1 := { x with done := e.pos + 1, started := rest }
  if bits e.hdr.toNat 0 8 = 6 then { x1 with start := e.pos + 1, base := leField e.body 8 8, logn := leField e.body 16 1 } else x1

/-- R347, R384: a started collective entry of a chain performs, if the data that it waits for is there and no invalidation is in progress. -/
def State.tryColl (s : State) (ctx group : Nat) (c : ChainRef) : State :=
  let x := s.chain c
  match x.started.find? (fun e => match e.await with | .coll gr _ => gr == group | _ => false), Table.find s.colls (collKey ctx group) with
  | some e, some g =>
    match CollOp.of e.body g.ranks with
    | none => s
    | some o =>
      if !o.ready g || s.invals.any (fun i => i.ctx == ctx) then s
      else
        let r := performColl s c ctx o g e.body
        match r.m.lost, r.m.fail with
        | p :: ps, _ => r.m.s.consume ctx (p :: ps)
        | [], some z => r.m.s.engineFail c z e.pos
        | [], none =>
          if !r.m.held.isEmpty then s.holdChain c r.m.held
          else
            let y := r.m.s.chain c
            r.m.s.setChain c { y with started := y.started.map (fun q =>
              if q.pos = e.pos then { q with await := r.await, tv := max r.m.s.time r.m.tv } else q) }
  | _, _ => s

/-- R211, R273, R348, R394: SG follows the completion words that the chain has written: device time reaches their Tv, and where one of them
awaits an acknowledgement the entry, whose CW is done, waits for it. -/
def State.signal (s : State) (c : ChainRef) (x x1 : Chain) (e : Started) (rest : List Started) : State :=
  let ws := s.cwFlights c x1
  match ws.filter (fun f => s.switched f.key) with
  | [] => (s.later (ws.foldl (fun m f => max m f.tv) 0)).sgAdd c x1 e.hdr.toNat e.pos
  | f :: fs => s.setChain c { x with started := { e with hdr := e.hdr &&& ~~~(BitVec.ofNat 64 (2 ^ 8)), await := .fabric ((f :: fs).map (·.id)) } :: rest }

/-- R211, R273, R346, R348: the oldest started entry of a chain stops its chain where it has failed; a collective one performs once it may; another
completes, once device time has reached the Tv of its writes: Cc, CW, and once CW has performed SG. A stale one's completions are discarded and
counted. -/
def State.completeEntry (s : State) (c : ChainRef) : State :=
  let x := s.chain c
  match x.started with
  | [] => s.letGo c
  | e :: rest =>
    match e.await with
    | .fail z =>
      if (s.ctx x.ctx).mode != .live then s else if s.cwWaits c x then s.holdChain c (s.cwAsks c x) else s.stopChain c z e.pos
    | .coll group _ => if (s.ctx x.ctx).mode = .live then s.tryColl x.ctx group c else s
    | _ =>
      if !s.mayComplete c e || (s.ctx x.ctx).mode != .live then s
      else if bits e.hdr.toNat 8 1 == 1 && s.cwWaits c x then s.holdChain c (s.cwAsks c x)
      else
        let s1 := s.later e.tv
        let x1 := x.complete e rest
        let s2 := s1.setChain c x1
        let h := e.hdr.toNat
        if e.gen ≠ (s.ctx x.ctx).gen then
          (s2.updTen (s.ctx x.ctx).ten (fun t => { t with discard := t.discard + 1 })).letGo c
        else
          let r := if bits h 8 1 = 1 then s2.cwStore c x1 (e.pos + 1) else (s2, none)
          match r.2 with
          | some z =>
            if lossCause z.cause then r.1.loseContext x.ctx z.cause [] else (s1.setChain c { x with started := rest }).stopChain c z e.pos
          | none => (if bits h 9 1 = 1 then r.1.signal c x x1 e rest else r.1).letGo c

def execEntryComplete (c : ChainRef) (s : State) : Host.Outcome State Fault Refusal := .next (s.completeEntry c)

end Sys2Proof.Machine
end

