-- ==== Sys2Proof/Machine/Wake.lean ====
section
/-! DEFINITION. Machine/Wake.lean: completions and wakes inside a core (R163, R173, R190, R205, R206, R217, R252, R281, R304). -/

namespace Sys2Proof.Machine

/-- R205, R298, R403: an instruction that makes a release or that waits for a queue, held at issue, is tried again; of another there is
nothing to perform, and its fragment fetches it again. -/
def performHeld (i : Instr) (s : State) : Host.Outcome State Fault Refusal :=
  match i with
  | .stl f => execStl f s
  | .atom f => execAtom f s
  | .atomf f => execAtomf f s
  | .cas f => execCas f s
  | .bar f => execBar f s
  | .barc f => execBarc f s
  | .errq f => execErrq f s
  | .ctail f => execCtail f s
  | .ctailOpen f => execCtailOpen f s
  | .semadd f => execSemadd f s
  | .publish f => execPublish f s
  | .enq f => execEnq f s
  | .svc f => execSvc f s
  | .fence f => execFence f s
  | _ => .next s

/-- The state of an outcome, or the state before. -/
def orElse (s : State) (o : Host.Outcome State Fault Refusal) : State :=
  match o with
  | .next t => t
  | _ => s

/-- R205: a group's wait ends: device time reaches its horizon, and its loads return. -/
def State.awaitGroup (s : State) (core slot : Nat) : State :=
  match s.group? core slot with
  | none => s
  | some g => (s.later g.horizon).returnAll core slot

/-- R205: the wait ends once for the group's horizon and once for what its returning loads added to it (R208). -/
def State.awaitAll (s : State) (core slot : Nat) : State := (s.awaitGroup core slot).awaitGroup core slot

/-- R205, R369, R372, R394: the stores of a group to fabric and host-shared pages perform and are acknowledged, unless no port reaches the
peer of one now. -/
def State.awaitAcks (s : State) (core slot : Nat) : State :=
  let mine := s.flight.filter (fun f => f.core == core && f.slot == slot && s.switched f.key)
  if mine.any (fun f => !s.reaches f.key) then s
  else (s.later (mine.foldl (fun m f => max m f.tv) 0)).updGroup core slot (fun g => { g with unacked := 0 })

/-- R205: a group's horizon has come and no load of it is outstanding. -/
def State.settled (s : State) (core slot : Nat) : Bool :=
  match s.group? core slot with
  | none => true
  | some g => decide (g.horizon ≤ s.time) && g.loads.isEmpty

/-- R205: what a release waits for comes about: the group's horizon and its loads; where that has been, its acknowledgements. -/
def State.await (s : State) (core slot : Nat) : State :=
  if s.settled core slot then s.awaitAcks core slot else s.awaitAll core slot

/-- R216: a FENCE.rel of a group performs, if it may. -/
def State.endFence (s : State) (core slot : Nat) : State :=
  s.updGroup core slot (fun g => if s.fenceReady g then { g with fence := none } else g)

/-- R205, R216, R403: a wait at issue comes to its end: a FENCE.rel performs, and the fragment that holds an instruction tries it again,
whichever the group has selected meanwhile (R323). -/
def State.release (s : State) (core slot : Nat) : State :=
  match s.group? core slot with
  | none => s
  | some g =>
    if g.held.isNone && g.fence.isNone then s
    else
      let s1 := (s.await core slot).endFence core slot
      match s1.group? core slot with
      | none => s1
      | some g1 =>
        match g1.held with
        | none => s1
        | some (fi, i) =>
          let s2 := { s1.putGroup core slot { g1 with held := none } with cur := some ⟨core, slot, fi⟩ }
          orElse s2 (performHeld i s2)

def execReleasePerform (core slot : Nat) (s : State) : Host.Outcome State Fault Refusal := .next (s.release core slot)

/-- R173, R300: a slot has an outstanding load of the group that stands there. -/
def State.loading (s : State) (core slot : Nat) : Bool := ((s.group? core slot).map (fun g => !g.loads.isEmpty)).getD false

/-- R173, R300: the oldest load of a slot's group returns; where that has none, one of a group that ended there. -/
def State.loadReturns (s : State) (core slot : Nat) : State :=
  if s.loading core slot then s.returnOne core slot else s.returnOrphan (slotKey core slot)

def execLoadReturn (core slot : Nat) (s : State) : Host.Outcome State Fault Refusal := .next (s.loadReturns core slot)

def execSemaphoreWake (core sem : Nat) (s : State) : Host.Outcome State Fault Refusal := .next (s.serveSem (semKey core sem))

/-- What a fragment asleep in MWAIT waits for (R217). -/
def State.watching (s : State) (core fi : Nat) : Option (Option Nat × Option Nat) :=
  match s.frag? core fi with
  | none => none
  | some f =>
    match f.st with
    | .asleep (.mwait _ dl fire) => some (dl, fire)
    | _ => none

/-- R217: a store that performs on the watched frame wakes the fragment. -/
def State.mwaitWake (s : State) (core fi : Nat) : State :=
  match s.watching core fi with
  | some (_, some t) => (s.later t).wake core fi none
  | _ => s

def execMwaitWake (core frag : Nat) (s : State) : Host.Outcome State Fault Refusal := .next (s.mwaitWake core frag)

/-- R217: the deadline wakes the fragment. -/
def State.mwaitTimeout (s : State) (core fi : Nat) : State :=
  match s.watching core fi with
  | some (some d, _) => (s.later d).wake core fi none
  | _ => s

def execMwaitTimeout (core frag : Nat) (s : State) : Host.Outcome State Fault Refusal := .next (s.mwaitTimeout core frag)

/-- R217: a fragment asleep in MWAIT wakes spuriously. -/
def State.spurious (s : State) (core fi : Nat) : State := if (s.watching core fi).isSome then s.wake core fi none else s

def execSpuriousWake (core frag : Nat) (s : State) : Host.Outcome State Fault Refusal := .next (s.spurious core frag)

/-- R160, R163, R311: a walk for a core ends: the core had no translation of the address, or has given it up to make room; the walk sets A
and installs the one that it found. One that meets a poisoned table entry loses the context. -/
def State.walkDone (s : State) (core ctx va : Nat) : State :=
  match s.walk ctx va with
  | .poisoned c => s.loseContext ctx c []
  | _ =>
    ({ s with tlb := s.tlb.filter (fun t => !(t.core == core && t.ctx == ctx && decide (t.base ≤ va) && decide (va < t.base + t.size))) } : State).touch
      core ctx va false

def execTableWalkComplete (core ctx : Nat) (va : Dword) (s : State) : Host.Outcome State Fault Refusal :=
  .next (s.walkDone core ctx va.toNat)

/-- R206: the next lease of a core's read copies of a frame runs out, and those bolts count as missing. -/
def State.leaseEnds (s : State) (core frame : Nat) : State :=
  let mine : Bolt → Bool := fun b => b.cache == core && b.frame == frame && !b.owned
  match (s.bolts.filter mine).foldl (fun m b => minLease m b.lease) none with
  | none => s
  | some l => { s with time := max s.time l, bolts := s.bolts.filter (fun b => !(mine b && !b.alive (max s.time l))) }

def execLeaseExpiry (core frame : Nat) (s : State) : Host.Outcome State Fault Refusal := .next (s.leaseEnds core frame)

/-- R304: the core retries the instruction of a group that GF_FRAG_EXHAUSTED halted, once the pool holds every entry it needs. -/
def State.exhaustRetry (s : State) (core slot : Nat) : State :=
  match s.group? core slot with
  | none => s
  | some g =>
    match g.halted with
    | none => s
    | some h =>
      if (s.pool core).length < h.2 then s
      else
        match s.frag? core h.1 with
        | none => (s.putGroup core slot { g with halted := none }).select core slot
        | some f => (s.putGroup core slot { g with halted := none }).unpark core slot h.1 f.idx

def execFragExhaustedRetry (core slot : Nat) (s : State) : Host.Outcome State Fault Refusal := .next (s.exhaustRetry core slot)

def execFlushOrInvComplete (core slot : Nat) (s : State) : Host.Outcome State Fault Refusal := .next (s.finishRange core slot)

/-- R252: the engine performs the instructions of its queue up to the last of a slot. -/
def State.engineRun (s : State) (core slot : Nat) : Nat → State
  | 0 => s
  | n + 1 => if (Table.getD s.mq [] core).any (fun m => m.slot == slot) then (s.engineStep core).engineRun core slot n else s

/-- The context of the group in a slot. -/
def State.ctxAt (s : State) (core slot : Nat) : Nat := (((s.group? core slot).bind (fun g => Table.find s.teams g.tid)).map (·.ctx)).getD 0

/-- R229, R310: the saved teams of a cluster return to the ready queue together. -/
def wakeCluster (cluster : Nat) (t : Table SavedTeam) : Table SavedTeam :=
  Table.mapV t (fun _ k => if k.team.cluster = cluster then { k with ready := true } else k)

/-- R33, R309, R310: every parked remnant, of a resident or a saved team, that `p` selects by its context retries. -/
def State.retryWhere (s : State) (p : Nat → Fragment → Bool) : State :=
  let live := s.frags.filter (fun e => e.2.st == .parked && p (s.ctxAt (e.1 / 64) e.2.slot) e.2)
  let s1 := live.foldl (fun s e => s.unpark (e.1 / 64) e.2.slot (e.1 % 64) e.2.idx) s
  let hit : SavedTeam → List (Nat × Resolution) := fun k =>
    (k.frags.filter (fun e => e.2.st == .parked && p k.team.ctx e.2)).map (fun e => (e.1, Resolution.retry))
  let told := Table.mapV s1.saved (fun _ k => { k with pending := k.pending ++ hit k })
  { s1 with saved := (s1.saved.filter (fun e => !(hit e.2).isEmpty)).foldl (fun t e => wakeCluster e.2.team.cluster t) told }

/-- R165, R309: the remnants that wait for no invalidation any more retry. -/
def State.retryTranslations (s : State) : State :=
  s.retryWhere (fun ctx f => f.cause == Cause.translation && !s.invalidating ctx f.addr)

/-- R165, R212: the exchanges that a group's PUBLISH began end. -/
def State.endPublishes (s : State) (core slot : Nat) : State :=
  let mine := s.invals.filter (fun i => i.publish == some (slotKey core slot))
  if mine.isEmpty then s else (mine.foldl State.endInval s).retryTranslations

/-- What a group has under way beside the instruction that it holds: matrix instructions, loads, a FLUSH or INV, a PUBLISH. -/
def State.pending (s : State) (core slot : Nat) : Bool :=
  match s.group? core slot with
  | none => false
  | some g => !g.loads.isEmpty || g.rangeOp.isSome || (Table.getD s.mq [] core).any (fun m => m.slot == slot)
      || s.invals.any (fun i => i.publish == some (slotKey core slot))

/-- All of it ends (R191, R210, R212, R268). -/
def State.finish (s : State) (core slot : Nat) : State :=
  (((s.engineRun core slot (Table.getD s.mq [] core).length).returnAll core slot).finishRange core slot).endPublishes core slot

end Sys2Proof.Machine
end

