-- ==== Sys2Proof/Machine/Save.lean ====
section
/-! DEFINITION. Machine/Save.lean: saving and restoring teams (R27, R85, R182, R210, R253, R289, R290, R306, R310, R314, R315, R323 to
R325), and the end of a context (R346, R389). -/

namespace Sys2Proof.Machine

-- Saving.

/-- R280, R290: the key under which a wait on a semaphore of a saved team stands in the queue. -/
def savedKey (tid idx : Nat) : Nat := 2 ^ 32 + tid * 64 + idx

/-- A semaphore's key of a resident team as a reference to the team's block, whichever team that is. -/
def State.keyToRef (s : State) (key : Nat) : Nat :=
  match s.teams.find? (fun e => decide (semKey e.2.core e.2.semBase ≤ key) && decide (key < semKey e.2.core e.2.semBase + e.2.semCnt)) with
  | some e => savedKey e.1 (key - semKey e.2.core e.2.semBase)
  | none => key

/-- A reference to the block of a resident team as the semaphore's key. -/
def State.refToKey (s : State) (key : Nat) : Nat :=
  if key < 2 ^ 32 then key
  else
    match Table.find s.teams ((key - 2 ^ 32) / 64) with
    | some t => semKey t.core (t.semBase + (key - 2 ^ 32) % 64)
    | none => key

/-- R85: the window lines that a save keeps of a group: the smaller of the requested lines and the largest LIVE where its fragments
stand. Of a header that has not been fetched, or that is not valid, the LIVE field of the word that stands there counts (log entry 67). -/
def State.keptLines (s : State) (core slot : Nat) (g : Group) : Nat :=
  let live : Fragment → Nat := fun f =>
    Hdr.live (if f.entered then f.hdr else s.fetchWord core ((Table.find s.teams g.tid).map (·.ctx) |>.getD 0) f.blk)
  min g.lines ((s.fragsOf core slot).foldl (fun m e => max m (live e.2)) 0)

/-- R323: a barrier that was held at issue performs before a save; any other held instruction has not issued. -/
def State.settleHeld (s : State) (core slot : Nat) : State :=
  match (s.group? core slot).bind (·.held) with
  | some (_, .bar _) | some (_, .barc _) => s.release core slot
  | some _ => s.updGroup core slot (fun g => { g with held := none })
  | none => s

/-- R191, R205, R210, R268, R323: a group comes to a stop at an instruction boundary: all that it has under way ends, its horizon has come,
and its stores to fabric and host-shared pages are acknowledged. -/
def State.quiesce (s : State) (core slot : Nat) : State :=
  (((((s.finish core slot).awaitAll core slot).awaitAcks core slot).settleHeld core slot).awaitAll core slot)

/-- R394: device time reaches the acknowledgements of the stores of some numbers, unless no port reaches the peer of one now. -/
def State.awaitWrites (s : State) (ids : List Nat) : State :=
  let fs := s.flight.filter (fun f => ids.contains f.id)
  if fs.any (fun f => !s.reaches f.key) then s else s.later (fs.foldl (fun m f => max m f.tv) 0)

/-- R289: the started entries of a copy chain complete. A WAITSEM that waits is saved waiting. -/
def State.drainChain (s : State) (c : ChainRef) : Nat → State
  | 0 => s
  | n + 1 =>
    match (s.chain c).started with
    | [] => s
    | e :: _ =>
      match e.await with
      | .fabric ids => ((s.awaitWrites ids).completeEntry c).drainChain c n
      | .sem => s
      | _ => (s.completeEntry c).drainChain c n

/-- The slots of a team on its core. -/
def State.slotsOf (s : State) (tid core : Nat) : List Nat :=
  (List.range 16).filter (fun k => match s.group? core k with | some g => g.tid == tid | none => false)

/-- The copy chains that a team holds. -/
def State.chainsOf (s : State) (tid core : Nat) : List Nat :=
  (List.range 4).filter (fun n => (s.chain (.copy core n)).isOpen && (s.chain (.copy core n)).holder == tid)

/-- R182: the tile-table entries that a save of a team takes: its own, those that its cluster holds of it, and, with the last team of its
cluster that stands on a core, those of holders that have ended. -/
def State.handlesOf (s : State) (tid : Nat) (t : Team) : List (Nat × Handle) :=
  let last := !s.teams.any (fun e => e.1 != tid && e.2.cluster == t.cluster)
  s.handles.filter (fun e =>
    if e.2.level = 1 then e.2.owner == tid else e.2.owner == t.cluster && (e.2.holder == t.num || last))

/-- R210, R289: a group has nothing under way and no store unacknowledged, and its held instruction, if any, has been settled. -/
def State.stopped (s : State) (core slot : Nat) : Bool :=
  !s.pending core slot && (s.group? core slot).all (fun g => g.held.isNone && g.unacked == 0)

/-- R289: a chain has no started entry but a WAITSEM that waits. -/
def State.drained (s : State) (c : ChainRef) : Bool := (s.chain c).started.all (fun e => e.await == .sem)

/-- R314: what is kept of a team that has come to a stop. YIELD's passes end with it (log entry 65). -/
def State.kept (s : State) (tid : Nat) (t : Team) (ready : Bool) : SavedTeam :=
  let slots := s.slotsOf tid t.core
  let groups := slots.filterMap (fun k => (s.group? t.core k).map (fun g =>
    let m := s.keptLines t.core k g
    (k, { g with
      win := g.win.filter (fun e => decide (e.1 < m)), horizon := 0, unacked := 0, floor := 0, fence := none, run := none, passes := [] })))
  let frags := slots.flatMap (s.fragsOf t.core)
  let mine : SemWaiter → Bool := fun q =>
    match q with
    | .frag core fi => core == t.core && frags.any (fun f => f.1 == fi)
    | .chain (.copy core n) => core == t.core && (s.chainsOf tid t.core).contains n
    | .chain _ => false
  { team := t,
    groups := groups,
    frags := frags.foldl (fun tb e => Table.put tb e.1 e.2) [],
    gens := frags.foldl (fun tb e => Table.put tb e.1 (Table.getD s.fgens 0 (fragKey t.core e.1))) [],
    handles := (s.handlesOf tid t).foldl (fun tb e =>
      Table.put tb ((if e.2.level = 1 then t.num else e.2.holder) * 256 + e.1 % 256) (e.2, Table.getD s.hgens 0 e.1,
        s.scratch.reads (e.1 / 256 * 2 ^ 19 + e.2.base) e.2.bytes)) [],
    sems := (List.range t.semCnt).map (fun i => Table.getD s.sems 0 (semKey t.core (t.semBase + i))),
    gauges := (List.range 64).map (fun n => (n, s.gauge t.core n)),
    chains := (s.chainsOf tid t.core).foldl (fun tb n => Table.put tb n (s.chain (.copy t.core n))) [],
    waits := (s.semq.filter (fun q => mine q.who)).map (fun q => { q with key := s.keyToRef q.key }),
    pending := [],
    ready := ready }

/-- R289, R325: a stopped team leaves its core: what it held there is free, once the accesses that other groups have issued to its handles have
taken effect. -/
def State.vacate (s : State) (tid : Nat) (t : Team) (k : SavedTeam) : State :=
  let ref : Nat → Nat := s.keyToRef
  let here : Nat → Bool := fun key => decide (semKey t.core t.semBase ≤ key) && decide (key < semKey t.core t.semBase + t.semCnt)
  let left : List SemWait := s.semq.filter (fun (q : SemWait) => !k.waits.any (fun (x : SemWait) => x.who == q.who))
  let queue : List SemWait := left.map (fun (q : SemWait) => if here q.key then ({ q with key := ref q.key } : SemWait) else q)
  let s : State := { s with semq := queue }
  let s := k.frags.foldl (fun s e => s.freeFrag t.core e.1) s
  let s := { s with groups := s.groups.filter (fun e => e.2.tid != tid) }
  let s := (s.handlesOf tid t).foldl (fun s e => (s.settleHandle (e.1 / 256) e.2).freeHandle (e.1 / 256) (e.1 % 256)) s
  let s := k.chains.foldl (fun s e => s.setChain (.copy t.core e.1) Chain.closed) s
  ({ s with
    teams := Table.del s.teams tid, sems := s.sems.filter (fun e => !here e.1), devSems := s.devSems.filter (fun x => !here x),
    saved := Table.put s.saved tid k } : State).dropGauges t

/-- R289, R314: a team comes to a stop, and its state is saved; where something that it has under way cannot end yet, it stays. A team of a
frozen context stays where it stands (R375). -/
def State.saveTeam (s : State) (tid : Nat) (ready : Bool) : State :=
  match Table.find s.teams tid with
  | none => s
  | some t =>
    if (s.ctx t.ctx).mode == .frozen then s else
    let s1 := (s.slotsOf tid t.core).foldl (fun s k => s.quiesce t.core k) s
    let s2 := (s1.chainsOf tid t.core).foldl (fun s n =>
      s.drainChain (.copy t.core n) (3 * (s.chain (.copy t.core n)).started.length)) s1
    match Table.find s2.teams tid with
    | none => s2
    | some t2 =>
      let slots := s2.slotsOf tid t2.core
      if slots.isEmpty || !slots.all (s2.stopped t2.core) || !(s2.chainsOf tid t2.core).all (fun n => s2.drained (.copy t2.core n)) then s2
      else s2.vacate tid t2 (s2.kept tid t2 ready)

/-- R289, R303: a team that the Cutter has requested to stop is saved, queued for restore, and the pre-emption is logged. -/
def State.teamSave (s : State) (tid : Nat) : State :=
  match Table.find s.teams tid with
  | none => s
  | some t =>
    if !t.stopping then s
    else
      let s1 := s.saveTeam tid true
      if (Table.find s1.saved tid).isSome then s1.log { s1.blank t.ctx Cause.preempt with core := t.core } else s1

def execTeamSave (tid : Nat) (s : State) : Host.Outcome State Fault Refusal := .next (s.teamSave tid)

-- Descheduling.

/-- R310: no group of a team has an eligible fragment, and a lane is parked with a cause other than LL_TRANSLATION. -/
def State.stuckNow (s : State) (tid core : Nat) : Bool :=
  let fs := (s.slotsOf tid core).map (fun k => (s.group? core k, s.fragsOf core k))
  fs.all (fun e => match e.1 with | some g => !e.2.any (fun f => f.2.eligible g) | none => true)
    && fs.any (fun e => e.2.any (fun f => f.2.st == .parked && f.2.cause != Cause.translation))

/-- R310: the interval of each team begins or breaks. -/
def State.watchTeams (s : State) : State :=
  { s with teams := Table.mapV s.teams (fun tid t =>
      if s.stuckNow tid t.core then { t with stuck := some (t.stuck.getD s.time) } else { t with stuck := none }) }

/-- R310: a team has been stuck for DT dcy without a break. -/
def State.stuckLong (s : State) (tid : Nat) (t : Team) : Bool :=
  s.stuckNow tid t.core && t.stuck.any (fun t0 => decide (t0 + (s.ctx t.ctx).descT ≤ s.time))

/-- R229: the teams of a cluster that stand on cores. -/
def State.peersOf (s : State) (cluster : Nat) : List Nat := (s.teams.filter (fun e => e.2.cluster == cluster)).map Prod.fst

/-- R229, R310: a team that has been stuck for DT dcy is descheduled, its cluster saved whole; where a team of the cluster cannot stop yet,
none is. -/
def State.deschedule (s : State) (tid : Nat) : State :=
  match Table.find s.teams tid with
  | none => s
  | some t =>
    if !s.stuckLong tid t || (s.ctx t.ctx).mode != .live then s
    else
      let ps := s.peersOf t.cluster
      let s1 := ps.foldl (fun s p => s.saveTeam p false) s
      if ps.all (fun p => (Table.find s1.saved p).isSome) then s1.log { s1.blank t.ctx Cause.desched with core := t.core } else s

def execLlDesched (tid : Nat) (s : State) : Host.Outcome State Fault Refusal := .next (s.deschedule tid)

-- Restoring.

/-- A core's place: die, row and column (R286). -/
def rowOf (core : Nat) : Nat := core % 180 / 12
def colOf (core : Nat) : Nat := core % 12

/-- R15, R286: the core of team `num` of a cluster whose rectangle of width `wid` has team `at_` on `core`; none off the die. -/
def rectCore (wid core at_ num : Nat) : Option Nat :=
  let r : Int := (rowOf core : Int) - (at_ / wid : Nat) + (num / wid : Nat)
  let c : Int := (colOf core : Int) - (at_ % wid : Nat) + (num % wid : Nat)
  if decide (0 ≤ r) && decide (r < 15) && decide (0 ≤ c) && decide (c < 12) then
    some (dieOf core * 180 + r.toNat * 12 + c.toNat)
  else none

/-- R282: a field of a node's descriptor. -/
def Node.field (n : Node) (lo len : Nat) : Nat := leField n.desc lo len

/-- R282: the cluster width of a node. -/
def State.widthOf (s : State) (nid : Nat) : Nat := max 1 (((Table.find s.nodes nid).map (fun n => n.field 16 2)).getD 1)

/-- The semaphores of a core that its teams hold, by index. -/
def State.semsTaken (s : State) (core : Nat) : List Nat :=
  (s.teams.filter (fun e => e.2.on core)).flatMap (fun e => (List.range e.2.semCnt).map (· + e.2.semBase))

/-- The tile-table entries of a core that are reserved or allocated. -/
def State.handlesTaken (s : State) (core : Nat) : List Nat :=
  (s.teams.filter (fun e => e.2.on core)).flatMap (fun e => e.2.handles)
    ++ (s.handles.filter (standsOn core)).map (fun e => e.1 % 256)

/-- The group slots of a core that are taken: those of the groups of the teams on it (R373). -/
def State.slotsTaken (s : State) (core : Nat) : List Nat :=
  (s.groups.filter (fun e => match Table.find s.teams e.2.tid with
    | some t => t.on core
    | none => e.1 / 16 == core)).map (fun e => e.1 % 16)

/-- R69: the bytes of a group's window. -/
def windowBytes (lines : Nat) : Nat := (lines + 15) / 16 * 2048

/-- The bytes of a core's register store that resident windows take. -/
def State.storeTaken (s : State) (core : Nat) : Nat :=
  (s.groups.filter (fun e => match Table.find s.teams e.2.tid with
    | some t => t.on core
    | none => e.1 / 16 == core)).foldl (fun n e => n + windowBytes e.2.lines) 0

/-- A core that the Trier has never scanned. -/
def Trier.fresh : Trier := ⟨0, none, none⟩

/-- The Trier's state of a core (R376). -/
def State.trierOf (s : State) (core : Nat) : Trier := Table.getD s.trier Trier.fresh core

/-- R253, R376, R377, R378: a core that may take a team of a context. -/
def State.coreOpen (s : State) (ctx core : Nat) : Bool :=
  decide (core < 720) && (s.ctx ctx).alloc.contains core && !s.withdrawn.contains core && !s.lostDies.contains (dieOf core)
    && !s.teams.any (fun e => e.2.on core && e.2.ctx != ctx) && (s.trierOf core).running.isNone

/-- R182, R325: a saved tile-table entry and its storage are put back, with its generation, where they fit. -/
def State.restoreHandle (s : State) (core idx : Nat) (h : Handle × Nat × List Byte) : Option State :=
  (s.freeRun (if h.1.twin then [core, core + 1] else [core]) h.2.2.length).map (fun b =>
    { s.writeScratch (core * 2 ^ 19 + b) h.2.2 with
      handles := Table.put s.handles (handleKey core idx) { h.1 with base := b },
      hgens := Table.setD s.hgens 0 (handleKey core idx) h.2.1 })

/-- R182, R286: the saved tile-table entries of a team are put back when it stands on `core`: each on the core at its holder's position in
the rectangle; none if one of them does not fit there. -/
def State.restoreHandles (s : State) (core : Nat) (t : Team) (hs : Table (Handle × Nat × List Byte)) : Option State :=
  hs.foldl (fun (o : Option State) e =>
    match o, rectCore (s.widthOf t.node) core t.num (e.1 / 256) with
    | some u, some c => u.restoreHandle c (e.1 % 256) e.2
    | _, _ => none) (some s)

/-- R182: the tile-table entries of holders that have ended, kept with other saved teams of a team's cluster. -/
def State.strays (s : State) (tid : Nat) (t : Team) : List (Nat × Handle × Nat × List Byte) :=
  (s.saved.filter (fun e => e.1 != tid && e.2.team.cluster == t.cluster)).flatMap (fun e =>
    e.2.handles.filter (fun h => h.2.1.level == 2 && h.2.1.holder != e.2.team.num && s.peerEnded t.node t.cluster h.2.1.holder))

/-- R182: what a restore of a team brings back of tile-table entries: its own, and those of ended holders. -/
def State.handlesBack (s : State) (tid : Nat) (k : SavedTeam) : Table (Handle × Nat × List Byte) :=
  (s.strays tid k.team).foldl (fun tb e => Table.put tb e.1 e.2) k.handles

/-- R289, R315, R373: the core, and its twin under DUP, can take a saved team back: its slots, fragment entries, tile-table entries and
semaphores are free there, its windows fit, its cluster's rectangle lies on the die and its teams stand there (R286), and its storage fits. -/
def State.canRestore (s : State) (core tid : Nat) (k : SavedTeam) : Bool :=
  let t := k.team
  let hs := s.handlesBack tid k
  let wid := s.widthOf t.node
  let cores := t.cores core
  cores.all (s.coreOpen t.ctx)
    && (t.twin.isNone || core % 2 == 0)
    && k.groups.all (fun e => !cores.any (fun c => (s.slotsTaken c).contains e.1))
    && k.frags.all (fun e => cores.all (fun c => (s.frag? c e.1).isNone))
    && (List.range (s.clusterSize t.node)).all (fun n => (rectCore wid core t.num n).isSome)
    && hs.all (fun e => match rectCore wid core t.num (e.1 / 256) with
        | some c => !(s.handlesTaken c).contains (e.1 % 256)
        | none => false)
    && t.handles.all (fun i => !cores.any (fun c => (s.handlesTaken c).contains i))
    && (List.range t.semCnt).all (fun i => !cores.any (fun c => (s.semsTaken c).contains (t.semBase + i)))
    && cores.all (fun c => decide (s.storeTaken c + k.groups.foldl (fun n e => n + windowBytes e.2.lines) 0 ≤ 262144))
    && s.teams.all (fun e => e.2.cluster != t.cluster || rectCore wid core t.num e.2.num == some e.2.core)
    && k.chains.all (fun e => !(s.chain (.copy core e.1)).isOpen)
    && (s.restoreHandles core t hs).isSome

/-- R253, R373: a saved gauge joins the file of its team's core, and of its twin: bounds, format and action, and its hits are added. -/
def State.restoreGauge (s : State) (core n : Nat) (g : Gauge) : State :=
  s.setGauge core n { g with hits := min (2 ^ 32 - 1) ((s.gauge core n).hits + g.hits) }

/-- R217, R295, R315: what restore makes of a fragment: an MWAIT sleeper wakes. -/
def Fragment.restored (f : Fragment) : Fragment :=
  match f.st with
  | .asleep (.mwait _ _ _) => ({ f with st := .ready } : Fragment).settle
  | _ => f

/-- R23, R24, R305: Kill: the remnant's lanes are removed, and the owner gets a record. -/
def State.killFrag (s : State) (core fi ctx : Nat) (f : Fragment) : State :=
  (s.report { s.blank ctx Cause.kill with
    core := core, slot := f.slot, frag := s.fragId core fi, mask := f.mask, fpc := if f.entered then f.iaddr else f.blk }).exitLanes core f.slot f.mask

/-- R305: an action of service on a parked remnant. Resume past a TFENCE clears the flags that it raised (R320). A check of a Redirect's
target that meets a poisoned table entry consumes poison (R311). A remnant that is sent to a header leaves its mend, whatever it is in:
it waits there as any fragment does. -/
def State.resolve (s : State) (core fi : Nat) (a : Resolution) : State :=
  match s.frag? core fi with
  | none => s
  | some f =>
    let ctx := s.ctxAt core f.slot
    let free : State → State := fun s => s.updGroup core f.slot (fun g =>
      if (g.halted.map Prod.fst) = some fi then { g with halted := none } else g)
    match a with
    | .retry => (free s).unpark core f.slot fi f.idx
    | .resume =>
      if f.noInstr then s
      else ((free s).updGroup core f.slot (fun g => { g with flags := g.flags &&& ~~~(f.raised.zeroExtend 32) })).unpark core f.slot fi
        (f.idx + f.iwords)
    | .redirect t =>
      match s.checkTarget core ctx t with
      | some e => if lossCause e.cause then s.loseContext ctx e.cause [] else s.killFrag core fi ctx f
      | none =>
        let s1 := (free s).putFrag core fi { f.at t with
          st := .ready, mend := false, cause := 0, mcause := 0, oblk := 0, oidx := 0, reconv := 0, noInstr := false, iwords := 0, addr := 0,
          blocks := [], raised := 0 }
        (s1.merge core f.slot fi).select core f.slot
    | .kill => s.killFrag core fi ctx f

/-- R281: a waiter takes its place in order of arrival. -/
def insertWait : List SemWait → SemWait → List SemWait
  | [], q => [q]
  | p :: t, q => if q.since < p.since then q :: p :: t else p :: insertWait t q

/-- R210, R315: a saved team that is queued is put back on a core: only `sr.core` changes, RST is set, sleepers in MWAIT wake, no load hits a
copy that the core had before, and waits are tested again (R295); then the outstanding service results apply (R33). -/
def State.restore (s : State) (tid core : Nat) : State :=
  match Table.find s.saved tid with
  | none => s
  | some k =>
    if !k.ready || !s.canRestore core tid k then s
    else
      let t : Team := { k.team with
        core := core, twin := k.team.twin.map (fun _ => core + 1), stuck := none, stopping := false }
      let hs := s.handlesBack tid k
      let moved : List Nat := (s.strays tid t).map Prod.fst
      let peers := Table.mapV (Table.del s.saved tid) (fun _ (p : SavedTeam) =>
        if p.team.cluster = t.cluster then { p with handles := p.handles.filter (fun h => !(moved.contains h.1 && h.2.1.holder != p.team.num)) } else p)
      let s := { s with
        saved := peers, teams := Table.put s.teams tid t,
        bolts := s.bolts.filter (fun b => b.owned || !(t.cores core).contains b.cache) }
      let s := k.groups.foldl (fun s e => s.putGroup core e.1 { e.2 with status := e.2.status ||| 2 }) s
      let s := k.frags.foldl (fun s e =>
        { s.putFrag core e.1 e.2.restored with
          fgens := Table.setD s.fgens 0 (fragKey core e.1) (Table.getD k.gens 0 e.1) }) s
      let s := (s.restoreHandles core t hs).getD s
      let keys := (List.range t.semCnt).map (fun i => semKey core (t.semBase + i))
      let s := (keys.zip k.sems).foldl (fun s e => { s with sems := Table.setD s.sems 0 e.1 e.2, devSems := insertNat s.devSems e.1 }) s
      let s := (t.cores core).foldl (fun s c => k.gauges.foldl (fun s e => s.restoreGauge c e.1 e.2) s) s
      let s := k.chains.foldl (fun s e => s.setChain (.copy core e.1) e.2) s
      let move : SemWaiter → SemWaiter := fun q =>
        match q with
        | .frag _ fi => .frag core fi
        | .chain (.copy _ n) => .chain (.copy core n)
        | q => q
      let queue : List SemWait := (k.waits.map (fun (q : SemWait) => ({ q with who := move q.who } : SemWait))).foldl insertWait s.semq
      let placed : List SemWait := queue.map (fun (q : SemWait) => ({ q with key := s.refToKey q.key } : SemWait))
      let s : State := { s with semq := placed }
      let s := k.groups.foldl (fun s e => s.select core e.1) s
      let s := (((k.waits.map (fun q => s.refToKey q.key)).eraseDups).filter (fun x => decide (x < 2 ^ 32))).foldl State.serveSem s
      (k.pending.foldl (fun s e => s.resolve core e.1 e.2) s).barriers tid

-- The end of a context.

/-- Bits of a descriptor's flag word. -/
def Node.flag (n : Node) (lo len : Nat) : Nat := bits (n.field 8 4) lo len

/-- R287: a node's priority, raised to its tenancy's ceiling. -/
def State.prioOf (s : State) (n : Node) : Nat := max (n.flag 0 4) (s.ten (s.ctx n.ctx).ten).ceiling

/-- R287: a tenancy left with no ready node at a level has no deficit there. -/
def State.settleDeficits (s : State) : State :=
  { s with deficits := s.deficits.filter (fun d =>
      s.nodes.any (fun e => e.2.st == .ready && s.prioOf e.2 == d.1 / 64 && (s.ctx e.2.ctx).ten == d.1 % 64)) }

/-- R284, R287, R389: a context's nodes and credits leave the Cutter's pool. -/
def State.dropNodes (s : State) (ctx : Nat) : State :=
  ({ s with nodes := s.nodes.filter (fun e => e.2.ctx != ctx), credits := s.credits.filter (fun e => e.1 / 2 ^ 64 != ctx) } : State).settleDeficits

/-- R346, R381: the stores in flight that `p` selects and that have not performed are dropped: no agent sees them, and later stores of their
bytes stand. -/
def State.dropFlights (s : State) (p : Flight → Bool) : State :=
  let r := s.flight.foldl (fun (acc : List Flight × Table (Byte × Bool)) f =>
    let before := (Table.find acc.2 f.key).getD (f.old, f.psn)
    if p f && s.waiting f then (acc.1, Table.put acc.2 f.key before)
    else (acc.1 ++ [{ f with old := before.1, psn := before.2 }], Table.del acc.2 f.key)) ([], [])
  r.2.foldl (fun s e =>
    if e.1 < 2 ^ 60 then
      { s with mem := s.mem.write e.1 e.2.1, poison := if e.2.2 then insertNat s.poison (e.1 / 16) else s.poison }
    else { s with scratch := s.scratch.write (e.1 - 2 ^ 60) e.2.1 })
    { s with flight := r.1, pushes := s.pushes.filter (fun q => !s.flight.any (fun f => p f && f.id == q.id && s.waiting f)) }

/-- A store in flight that an engine has made for a chain of a context, whether or not that is open still. -/
def Flight.engines (ctx : Nat) (f : Flight) : Bool := f.ctx == ctx && decide (2000 ≤ f.core) && engineOf (refOf f.slot) == f.core

/-- R346: the engine writes of a terminated context that are in flight: those that have passed their ingress points perform before the
termination is acknowledged, and the others are dropped; a free value chooses for each write (log entry 71), but a fabric write to a peer that
no port reaches has not passed. Each completion word that is dropped is a completion discarded. -/
def State.settleWrites (s : State) (ctx : Nat) : State :=
  let mine := s.flight.filter (fun f => f.engines ctx && s.waiting f)
  let late : Flight → Bool := fun f => f.engines ctx && ((Config.free (s.free + f.id)).getLsbD 0 || !s.reaches f.key)
  let lost := ((mine.filter (fun f => late f && f.lane == cwLane)).map (·.id)).eraseDups.length
  let s1 := ({ s with free := s.free + 1 + mine.foldl (fun m f => max m f.id) 0 } : State).dropFlights late
  ({ s1 with time := (mine.filter (fun f => !late f)).foldl (fun m f => max m f.tv) s1.time } : State).updTen (s.ctx ctx).ten
    (fun t => { t with discard := t.discard + lost })

/-- R346: the completions of a context's started entries are discarded and counted for its tenancy, and its chains close. -/
def State.dropChains (s : State) (ctx : Nat) : State :=
  let n := (s.chains.filter (fun e => e.2.ctx == ctx)).foldl (fun n e => n + e.2.started.length) 0
  ({ s with chains := s.chains.filter (fun e => e.2.ctx != ctx),
            semq := s.semq.filter (fun q => match q.who with
              | .chain c => (s.chain c).ctx != ctx
              | _ => true) }).updTen (s.ctx ctx).ten (fun t => { t with discard := t.discard + n })

/-- R346, R389: a context ends: its generation advances, its teams are evicted unsaved and its saved ones discarded, its chains close, and
its handles, semaphores and pool entries are free. It stands empty and may be used again (log entry 18). -/
def State.terminate (s : State) (ctx : Nat) : State :=
  if decide (1024 ≤ ctx) || (s.ctx ctx).mode == .free then s else
  let s := s.advanceGen ctx
  let s := (s.settleWrites ctx).dropChains ctx
  let s := (s.teamsOf ctx).foldl State.evict s
  let s := { s with
    saved := s.saved.filter (fun e => e.2.team.ctx != ctx), invals := s.invals.filter (fun i => i.ctx != ctx),
    orphans := s.orphans.filter (fun o => o.load.ctx != ctx) }
  (s.dropNodes ctx).updCtx ctx (fun c => { c with mode := .live, svcq := [], hostq := [], cause := 0 })

-- Service actions.

/-- R305: the parked remnant that a fragment id of a core names. -/
def State.parkedAt (s : State) (core : Nat) (fid : BitVec 8) : Option (Nat × Fragment) :=
  let fi := fid.toNat % 64
  match s.frag? core fi with
  | none => none
  | some f => if f.st = .parked && s.fragId core fi = fid.toNat then some (fi, f) else none

/-- R33: the saved team of a core whose parked remnant a fragment id names. -/
def State.savedAt (s : State) (core : Nat) (fid : BitVec 8) : Option (Nat × SavedTeam) :=
  s.saved.find? (fun e => e.2.team.core == core && Table.getD e.2.gens 0 (fid.toNat % 64) == fid.toNat / 64
    && (match Table.find e.2.frags (fid.toNat % 64) with | some f => f.st == .parked | none => false))

/-- R33, R305, R310: an action of service on the remnant that a fragment id names: at once, or at restore where its team is saved; the
team is then queued for restore. -/
def State.serviceAct (s : State) (core : Nat) (fid : BitVec 8) (a : Resolution) : State :=
  match s.parkedAt core fid with
  | some p => s.resolve core p.1 a
  | none =>
    match s.savedAt core fid with
    | some k =>
      let told := Table.put s.saved k.1 { k.2 with pending := k.2.pending ++ [(fid.toNat % 64, a)] }
      { s with saved := wakeCluster k.2.team.cluster told }
    | none => s

def execRetry (core : Nat) (fid : BitVec 8) (s : State) : Host.Outcome State Fault Refusal := .next (s.serviceAct core fid .retry)

def execResumePast (core : Nat) (fid : BitVec 8) (s : State) : Host.Outcome State Fault Refusal := .next (s.serviceAct core fid .resume)

def execRedirect (core : Nat) (fid : BitVec 8) (target : Dword) (s : State) : Host.Outcome State Fault Refusal :=
  .next (s.serviceAct core fid (.redirect target.toNat))

def execServiceKill (core : Nat) (fid : BitVec 8) (s : State) : Host.Outcome State Fault Refusal := .next (s.serviceAct core fid .kill)

def execTerminate (ctx : Nat) (s : State) : Host.Outcome State Fault Refusal := .next (s.terminate ctx)

/-- R309: a remnant of a context that has waited longer than the service limit gets a record naming its own cause; it stays parked. A limit
of 0 is none (log entry 38). -/
def State.overdue (s : State) (core ctx : Nat) (fid : BitVec 8) (f : Fragment) : State :=
  let limit := (s.ctx ctx).limit
  if limit = 0 then s
  else
    let s1 := s.later (f.since + limit + 1)
    s1.report { s1.blank ctx Cause.serviceTimeout with
      core := core, slot := f.slot, frag := fid.toNat, mask := f.mask, fpc := if f.entered then f.iaddr else f.blk,
      addr := f.addr, aux := f.cause }

/-- R309: the service limit passes for the remnant that a fragment id names, of a team on a core or of one that is saved. -/
def State.serviceTimeout (s : State) (core : Nat) (fid : BitVec 8) : State :=
  match s.parkedAt core fid with
  | some p => s.overdue core (s.ctxAt core p.2.slot) fid p.2
  | none =>
    match s.savedAt core fid with
    | some k => match Table.find k.2.frags (fid.toNat % 64) with
      | some f => s.overdue core k.2.team.ctx fid f
      | none => s
    | none => s

def execLlServiceTimeout (core : Nat) (fid : BitVec 8) (s : State) : Host.Outcome State Fault Refusal := .next (s.serviceTimeout core fid)

end Sys2Proof.Machine
end

