-- ==== Sys2Proof/Machine/Tiers.lean ====
section
/-! DEFINITION. Machine/Tiers.lean: mappings and their invalidation (R162, R165), flash blocks (R336, R337), and the Press's records and
bindings (R269, R339 to R343, R350, R405). -/

namespace Sys2Proof.Machine

/-- R387: a request is refused: an error word, whose value the spec leaves open, stands in the mailbox for the requester. Requester 64 is
service firmware. -/
def State.refuse (s : State) (who : Nat) : State := { s.useFree with mailbox := s.mailbox ++ [(who, s.freeVal)] }

-- Mappings.

/-- R43, R162: the map interface takes an entry from service firmware or from the loader engine. Before X is set or cleared the instruction
caches give up what they hold. -/
def State.mapWrite (s : State) (loader : Bool) (key : Nat) (v : Dword) : State :=
  if Pte.x v && !loader then s.refuse 64
  else
    { s with
      mem := s.mem.writeNat key 8 v.toNat,
      icache := if Pte.x v || Pte.x (BitVec.ofNat 64 (s.mem.readNat key 8)) then [] else s.icache }

def execMapEntryWrite (loader : Bool) (key : Nat) (value : Dword) (s : State) : Host.Outcome State Fault Refusal :=
  .next (s.mapWrite loader key value)

/-- R165: service writes entries, and the invalidation of the range begins. -/
def State.mappingChange (s : State) (ctx va len : Nat) (writes : List (Nat × Dword)) : State :=
  let s1 := writes.foldl (fun s e => s.mapWrite false e.1 e.2) s
  { s1 with invals := s1.invals ++ [⟨ctx, va, len, none⟩] }

def execMappingChange (ctx : Nat) (va len : Dword) (writes : List (Nat × Dword)) (s : State) : Host.Outcome State Fault Refusal :=
  .next (s.mappingChange ctx va.toNat len.toNat writes)

/-- R165, R212: the invalidation of a range ends; a PUBLISH's makes its exchange. -/
def State.invalidationDone (s : State) (ctx va len : Nat) : State :=
  match s.invals.find? (fun i => i.ctx == ctx && i.start == va && i.len == len) with
  | none => s
  | some i => (s.endInval i).retryTranslations

def execInvalidationComplete (ctx : Nat) (va len : Dword) (s : State) : Host.Outcome State Fault Refusal :=
  .next (s.invalidationDone ctx va.toNat len.toNat)

/-- R156: the key of the level-0 entry of an address, where pointers lead to its table. -/
def leafSlot (s : State) (va : Nat) : Nat → Nat → Option Nat
  | 0, table => some (table + 8 * bits va 12 9)
  | l + 1, table =>
    let e := BitVec.ofNat 64 (s.mem.readNat (table + 8 * bits va (12 + 9 * (l + 1)) 9) 8)
    if Pte.v e && !Pte.leaf e && !Pte.badPointer e (l + 1) then leafSlot s va l (keyOf (Pte.tier e) (Pte.pa e)) else none

/-- R155, R156: the key of the level-0 entry of an address of a context. -/
def State.leafSlotOf (s : State) (ctx va : Nat) : Option Nat := if va < 2 ^ 57 then leafSlot s va 4 (s.ctx ctx).root else none

-- Flash blocks.

/-- R338: the granules of a flash block whose 64-byte blocks could not be read. -/
def State.failedGranules (s : State) (block : Nat) : List Nat :=
  (((List.range 64).map (· + block * 64)).filter s.badBlocks.contains).flatMap (fun b => (List.range 4).map (· + b * 4))

/-- R309, R337: a block that a read brought is resident, poisoned where it could not be corrected (R338), and every remnant parked for it
retries; a lane that waits for two blocks waits on for the other. -/
def State.blockArrives (s : State) (block : Nat) : State :=
  if !s.reading.contains block || s.busy.contains block then s
  else
    let s1 := { s with reading := s.reading.filter (· != block), resident := insertNat s.resident block,
                       poison := (s.failedGranules block).foldl insertNat s.poison }
    let got : Fragment → Bool := fun f => f.st == .parked && f.cause == Cause.flashWait && f.blocks.any (fun l => l.contains block)
    let less : Fragment → Fragment := fun f => if got f then { f with blocks := f.blocks.map (fun l => l.filter (· != block)) } else f
    let frags := Table.mapV s1.frags (fun _ f => less f)
    let saved := Table.mapV s1.saved (fun _ k => { k with frags := Table.mapV k.frags (fun _ f => less f) })
    ({ s1 with frags := frags, saved := saved } : State).retryWhere
      (fun _ f => f.cause == Cause.flashWait && f.blocks.any (fun l => l.isEmpty))

def execFlashBlockArrival (block : Nat) (s : State) : Host.Outcome State Fault Refusal := .next (s.blockArrives block)

def execBlockEraseOrRelocationStart (block : Nat) (s : State) : Host.Outcome State Fault Refusal :=
  .next { s with busy := insertNat s.busy block }

/-- R309, R337: a block can be read again, and the remnants parked for it retry. -/
def State.blockReadable (s : State) (block : Nat) : State :=
  ({ s with busy := s.busy.filter (· != block) } : State).retryWhere
    (fun _ f => f.cause == Cause.flashStall && f.blocks.any (fun l => l.contains block))

def execBlockEraseOrRelocationEnd (block : Nat) (s : State) : Host.Outcome State Fault Refusal := .next (s.blockReadable block)

-- The Press.

/-- R340, R342, R350: the Press posts a stream's next record: the skipped bytes, the record, HEADOFF and TAILOFF, then DSEQ as a release at
`.dev`. -/
def State.postNext (s : State) (st : Nat) : State :=
  let x := s.stream st
  match x.recs.find? (fun r => r.seq == x.dseq + 1) with
  | none => s
  | some r =>
    let x1 := { x with dseq := r.seq, tailoff := r.off + r.bytes.length }
    let x2 := { x1 with head := x1.headOff }
    let s1 := if r.skip = 0 then s else s.pressWrite x (4096 + x.len - r.skip) (List.replicate r.skip 0xFF)
    let s2 := s1.pressWrite x (4096 + r.off) r.bytes
    let s3 := s2.pressWrite x 16 (leBytes x2.head 8 ++ leBytes x2.tailoff 8)
    (s3.pressWrite x 0 (leBytes x2.dseq 8)).setStream st x2

def execRecordPost (stream : Nat) (s : State) : Host.Outcome State Fault Refusal := .next (s.postNext stream)

/-- The 64-byte blocks of addressed memory of which `p` holds are written anew: no poison bit and no erroneous symbol of them is left (R328,
R330). -/
def State.cleanBlocks (s : State) (p : Nat → Bool) : State :=
  { s with
    badBlocks := s.badBlocks.filter (fun b => !p (b * 64)),
    badSyms := (Table.mapV s.badSyms (fun r l => l.filter (fun x => !p (r + x / 32 * 2 ^ 18)))).filter (fun e => !e.2.isEmpty) }

/-- A range of addressed memory reads as it does unlisted: no store in flight, no copy and no poison of it is left. -/
def State.wipe (s : State) (key n : Nat) : State :=
  let inside : Nat → Bool := fun k => decide (key ≤ k) && decide (k < key + n)
  { s.cleanBlocks inside with
    mem := s.mem.filter (fun e => !inside e.1), flight := s.flight.filter (fun f => !inside f.key),
    bolts := s.bolts.filter (fun b => !(decide (key < (b.frame + 1) * 256) && decide (b.frame * 256 < key + n))),
    poison := s.poison.filter (fun g => !inside (g * 16)) }

/-- R339: the control page of a stream. -/
def Stream.control (x : Stream) : List Byte :=
  leBytes x.dseq 8 ++ leBytes x.trimseq 8 ++ leBytes x.head 8 ++ leBytes x.tailoff 8 ++ leBytes x.len 8 ++ leBytes 0 4056

/-- R339: a leaf for a page of a stream's region: read-only flash of the context's tenancy. -/
def pressLeaf (ten pa : Nat) : Nat := 1 + 2 + 4 + 2 ^ 5 + 2 * 2 ^ 6 + pa / 4096 * 2 ^ 12 + ten % 64 * 2 ^ 54

/-- R339: the region is mapped into the context, where its tables have an entry for each page. -/
def State.mapRegion (s : State) (ctx va pa n : Nat) : State :=
  (List.range (n / 4096)).foldl (fun s i =>
    match s.leafSlotOf ctx (va + 4096 * i) with
    | some k => { s with mem := s.mem.writeNat k 8 (pressLeaf (s.ctx ctx).ten (pa + 4096 * i)) }
    | none => s) s

/-- R339: a region that a stream may have. -/
def regionGood (st va pa len : Nat) : Bool :=
  decide (st < 256) && va % 4096 == 0 && pa % 4096 == 0 && len % 2 ^ 20 == 0 && decide (2 ^ 20 ≤ len) && decide (len ≤ 2 ^ 36)
    && decide (pa + 4096 + len ≤ 7 * 2 ^ 40)

/-- R339, R343, R350, R405: a stream is bound to a context. The region it had keeps its records; another starts fresh, with every byte of
the log 0xFF. The control page is resident. -/
def State.bind (s : State) (st ctx va pa len : Nat) : State :=
  let x := s.stream st
  if x.ctx.isSome || !regionGood st va pa len || decide (1024 ≤ ctx) || (s.ctx ctx).mode == .free then s
  else
    let same := x.pa == pa && x.len == len
    let y : Stream := if same then { x with ctx := some ctx, va := va } else { Stream.fresh with ctx := some ctx, va := va, pa := pa, len := len }
    let s1 := if same then s.wipe (flashKey pa) 4096 else s.wipe (flashKey pa) (4096 + len)
    let s2 := { s1 with mem := s1.mem.writes (flashKey pa) y.control, resident := insertNat s1.resident (flashKey pa / 4096) }
    (s2.mapRegion ctx va pa (4096 + len)).setStream st y

def execStreamBind (stream ctx va pa len : Nat) (s : State) : Host.Outcome State Fault Refusal := .next (s.bind stream ctx va pa len)

/-- R269: a stream's binding ends: its chain stops with GF_CHAIN at the first entry not started, and is closed; a stop word that has to wait
is written later (R347). -/
def State.unbind (s : State) (st : Nat) : State :=
  let c := ChainRef.press (st % 256)
  let s1 := if (s.chain c).isOpen && !(s.chain c).stopped then s.stopAt c { cause := Cause.chain } (s.chain c).nxt else s
  (s1.setChain c { s1.chain c with isOpen := false }).setStream st { s1.stream st with ctx := none }

def execStreamUnbind (stream : Nat) (s : State) : Host.Outcome State Fault Refusal :=
  .next (if (s.stream stream).ctx.isSome then s.unbind stream else s)

end Sys2Proof.Machine
end

