-- ==== Sys2Proof/Machine/Cutter.lean ====
section
/-! DEFINITION. Machine/Cutter.lean: nodes, their checks, dispatch, placement and completion, pre-emption, host nodes and service replies
(R14, R36 to R38, R282 to R289, R298, R300, R373, R386). -/

namespace Sys2Proof.Machine

-- The descriptor (R282).

def Node.dup (n : Node) : Bool := n.flag 4 1 == 1
def Node.pre (n : Node) : Bool := n.flag 5 1 == 1
def Node.isOpen (n : Node) : Bool := n.flag 9 1 == 1
def Node.exec (n : Node) : Nat := n.flag 10 2
def Node.csem (n : Node) : Bool := n.flag 12 1 == 1
def Node.entry (n : Node) : Nat := n.field 0 8
def Node.lines (n : Node) : Nat := n.field 14 2
def Node.cwid (n : Node) : Nat := n.field 16 2
def Node.ch (n : Node) : Nat := n.field 18 1
def Node.gpt (n : Node) : Nat := n.field 19 1
def Node.nclus (n : Node) : Nat := n.field 20 4
def Node.handles (n : Node) : Nat := n.field 24 2
def Node.dies (n : Node) : Nat := n.field 26 1 % 16
def Node.sems (n : Node) : Nat := n.field 27 1
def Node.doneAt (n : Node) : Nat := n.field 32 8
def Node.map (n : Node) : Nat := n.field 40 8
def Node.succPtr (n : Node) : Nat := n.field 56 8 % 2 ^ 57
def Node.nsucc (n : Node) : Nat := n.field 56 8 / 2 ^ 58

/-- Teams of a cluster, and of the grid. -/
def Node.width (n : Node) : Nat := n.cwid * n.ch
def Node.teams (n : Node) : Nat := n.nclus * n.width

/-- R282, R284: fields that every node keeps. -/
def Node.commonBad (n : Node) : Bool :=
  n.flag 13 19 != 0 || n.field 28 4 != 0 || n.field 26 1 ≥ 16 || bits (n.field 56 8) 57 1 != 0 || n.flag 0 4 > 11 || n.flag 6 3 > 4
    || n.exec == 3 || n.succPtr % 8 != 0
    || (if n.csem then n.doneAt ≥ 2 ^ 16 || bits n.doneAt 6 2 != 0 || (bits n.doneAt 15 1 == 0 && bits n.doneAt 8 7 != 0) || n.origin == 1023
        else n.doneAt % 8 != 0)

/-- R282, R284: fields of a node for compute cores. -/
def Node.gridBad (n : Node) : Bool :=
  n.cwid == 0 || n.cwid > 12 || n.ch == 0 || n.ch > 8 || n.gpt == 0 || n.gpt > 16 || n.nclus == 0 || n.nclus > 2 ^ 24 || n.handles > 255
    || n.sems > 64 || (n.isOpen && (n.map != 0 || n.dies == 0))

/-- R282: fields of a node for an engine. -/
def Node.engineBad (n : Node) : Bool := n.cwid > 1 || (n.cwid == 0 && n.dies == 0) || n.entry % 64 != 0

/-- R283: one operand range: a field that breaks the layout, and a page of it that is unmapped. -/
def rangeBad (v : Nat) : Bool := v != 0 && (bits v 0 12 != 0 || bits v 0 57 % 2 ^ (bits v 57 5 + 12) != 0)

/-- R283, R311: the walks of an operand range's pages: the marks of the first page that is unmapped, or the cause of a poisoned table
entry that a walk met. -/
def State.rangeWalks (s : State) (ctx v : Nat) : Option (Except Nat (Bool × Bool)) :=
  if v = 0 then none
  else (List.range (2 ^ bits v 57 5)).findSome? (fun i =>
    match s.walk ctx (bits v 0 57 + 4096 * i) with
    | .unmapped m p => some (.ok (m, p))
    | .poisoned c => some (.error c)
    | .leaf _ _ _ _ => none)

/-- R283: the operand ranges of a node. -/
def Node.ranges (n : Node) : List Nat := (List.range 8).map (fun k => n.field (64 + 8 * k) 8)

/-- What the Cutter finds of a ready node: it fails with a reason, its context is lost by the poison met at some addresses (2^64 for a table
entry), it waits for an invalidation, or it may be placed, with the cores that its map names. -/
inductive Verdict where
  | fail (z : Stop)
  | lost (ps : List (Nat × Nat))
  | wait
  | good (cores : List Nat)
deriving DecidableEq, Repr

/-- The core number by which agents of the host die translate. -/
def hostCore : Nat := 2004

/-- R164, R311: an access of the Cutter for a context fails: for a reason, or by a table entry that is poisoned, which loses the context. -/
def LaneFail.verdict (e : LaneFail) : Verdict := if lossCause e.cause then .lost [(e.cause, 2 ^ 64)] else .fail e.stop

/-- R45, R284: the check of a kernel's entry header: one that is not valid fails its node. A fetch that fails is the teams' own, which
start and park; one that meets a poisoned table entry loses the context. -/
def State.entryCheck (s : State) (ctx va : Nat) : Option Verdict :=
  if va % 8 ≠ 0 then some (.fail { cause := Cause.badHeader })
  else
    match s.fetchFail hostCore ctx va with
    | some e => if lossCause e.cause then some e.verdict else none
    | none => if Hdr.valid (s.fetchWord hostCore ctx va) then none else some (.fail { cause := Cause.badHeader })

/-- R286, R347: the words of the placement map: why a read fails, or the poison it met, or an invalidation that it waits for. -/
def State.readMap (s : State) (n : Node) : Except Verdict (List Nat) :=
  if (List.range n.teams).any (fun i => s.invalidating n.ctx (n.map + 4 * i)) then .error .wait else
  match (List.range n.teams).findSome? (fun i => s.probe hostCore n.ctx (n.map + 4 * i) 4 .load false false) with
  | some e => .error e.verdict
  | none =>
    let rs := (List.range n.teams).map (fun i => s.loadVa hostCore 0 n.ctx (n.map + 4 * i) 4)
    match rs.flatMap (fun r => r.2.2) with
    | p :: ps => .error (.lost (p :: ps))
    | [] => .ok (rs.map (fun r => leNat r.1))

/-- The words of a list in runs of `k`. -/
def inRuns (k : Nat) (l : List Nat) : Nat → List (List Nat)
  | 0 => []
  | n + 1 => l.take k :: inRuns k (l.drop k) n

/-- R286: the checks of a map, in order. -/
def State.mapFail (s : State) (n : Node) (ws : List Nat) : Option Nat :=
  let cls := inRuns n.width ws n.nclus
  let per : Nat → Nat := fun c => ws.countP (· == c)
  if ws.any (fun w => decide (1024 ≤ w)) then some 0x200
  else if ws.any (fun w => decide (720 ≤ w) || !(s.ctx n.ctx).alloc.contains w || s.withdrawn.contains w) then some 0x202
  else if cls.any (fun c => c.eraseDups.length != c.length) || (n.dup && ws.any (fun w => w % 2 != 0)) then some 0x204
  else if cls.any (fun k => (List.range n.width).any (fun t => rectCore n.cwid (k.headD 0) 0 t != k[t]?)) then some 0x203
  else if ws.any (fun w => decide (16 < per w * n.gpt) || decide (262144 < per w * n.gpt * windowBytes n.lines) || decide (64 < per w * n.sems)
      || decide (255 < per w * n.handles)) then some 0x205
  else none

/-- R282 to R286, R390, R45: the checks of a node before it is dispatched. -/
def State.verdict (s : State) (n : Node) : Verdict :=
  let own : Nat → Verdict := fun r => .fail { cause := r }
  if n.commonBad || (n.exec == 0 && n.gridBad) || (n.exec == 2 && n.engineBad) || n.ranges.any rangeBad then own 0x200
  else if n.exec == 0 && (n.lines == 0 || n.lines > 960) then own 0x201
  else
    match n.ranges.findSome? (s.rangeWalks n.ctx) with
    | some (.error c) => .lost [(c, 2 ^ 64)]
    | some (.ok m) => .fail { cause := 0x208, malf := m.1, psn := m.2 }
    | none =>
      if n.dup && !s.feature 0 then own 0x209
      else if n.exec == 2 then
        if n.cwid == 1 && (s.stream n.ch).ctx != some n.ctx then own Cause.chain else .good []
      else if n.exec == 1 then .good []
      else
        match s.entryCheck n.ctx n.entry with
        | some v => v
        | none =>
          if n.isOpen then .good []
          else
            match s.readMap n with
            | .error v => v
            | .ok ws => match s.mapFail n ws with
              | some r => own r
              | none => .good ws

-- Placement.

/-- R71: a group as it starts. -/
def Group.fresh (tid grp lines : Nat) (dup : Bool) : Group where
  tid := tid
  grp := grp
  lines := lines
  win := []
  preds := []
  tiles := []
  accs := []
  streams := []
  ufc := []
  mode := 0
  flags := 0
  status := if dup then 4 else 0
  mendReg := 0
  uft := 0
  live := BitVec.allOnes 32
  arr := []
  horizon := 0
  unacked := 0
  loads := []
  held := none
  fence := none
  floor := 0
  rangeOp := none
  run := none
  passes := []
  halted := none

/-- R16, R288: a group's first fragment stands at the entry header and owes an acquire at `.dev`. -/
def Fragment.first (slot entry : Nat) : Fragment :=
  ⟨slot, entry, 0, false, 0, BitVec.allOnes 32, .ready, false, 0, 0, 0, 0, 0, false, 0, 0, [], 0, 0, some 3⟩

/-- R280: the lowest free block of semaphores of a length. -/
def semBlock (taken : List Nat) (n : Nat) : Option Nat :=
  (List.range (65 - n)).find? (fun b => (List.range n).all (fun i => !taken.contains (b + i)))

/-- R14, R177, R280, R373: a core, with its twin under DUP, admits a team whole, or not at all. -/
def State.seat (s : State) (nid : Nat) (n : Node) (core clus num : Nat) : Option State :=
  let cores := if n.dup then [core, core + 1] else [core]
  let slots := ((List.range 16).filter (fun k => !cores.any (fun c => (s.slotsTaken c).contains k))).take n.gpt
  let hs := ((List.range 255).filter (fun i => !cores.any (fun c => (s.handlesTaken c).contains i))).take n.handles
  match semBlock (cores.flatMap s.semsTaken) n.sems with
  | none => none
  | some base =>
    if !cores.all (s.coreOpen n.ctx) || slots.length < n.gpt || hs.length < n.handles || (n.dup && core % 2 != 0)
        || !cores.all (fun c => decide (s.storeTaken c + n.gpt * windowBytes n.lines ≤ 262144)) then none
    else
      let tid := s.order
      let t : Team := ⟨n.ctx, nid, core, if n.dup then some (core + 1) else none, clus, num, clus * n.width + num, n.gpt, slots, base, n.sems,
        hs, n.flag 6 3, BitVec.ofNat 64 (n.field 48 8), none, false⟩
      let s1 : State := { s with teams := Table.put s.teams tid t, order := s.order + 1 }
      some ((slots.zip (List.range n.gpt)).foldl (fun s e =>
        ((s.putGroup core e.1 (Group.fresh tid e.2 n.lines n.dup)).putFrag core e.1 (Fragment.first e.1 n.entry)).select core e.1) s1)

/-- R15, R286: teams on given cores, in order of `sr.teamidx` from `from_` on, all or none. -/
def State.seatAll (s : State) (nid : Nat) (n : Node) : List Nat → Nat → Option State
  | [], _ => some s
  | c :: t, i =>
    match s.seat nid n c (i / n.width) (i % n.width) with
    | none => none
    | some s1 => s1.seatAll nid n t (i + 1)

/-- R287: the cores that the teams of a tenancy stand on. -/
def State.coresOf (s : State) (ten : Nat) : Nat :=
  ((s.teams.filter (fun e => (s.ctx e.2.ctx).ten == ten)).flatMap (fun e => e.2.core :: e.2.twin.toList)).eraseDups.length

/-- R287: the placement, if it keeps to the tenancy's quota of cores. -/
def State.inQuota (s : State) (n : Node) : Option State → Option State
  | none => none
  | some t => if t.coresOf (t.ctx n.ctx).ten ≤ (s.ten (s.ctx n.ctx).ten).quota then some t else none

/-- R36, R37: the leader: the lowest live die among those of the grid. R36 has the dies of the allocation elect it; the model takes the dies that
the descriptor's DIES names, whether or not the context has cores there (DESIGN CHOICE, log entry 87). -/
def State.leaderOf (s : State) (n : Node) : Option Nat :=
  (List.range 4).find? (fun d => bits n.dies d 1 == 1 && !s.lostDies.contains d)

/-- R36, R286: the next cluster of an open grid is placed whole, its team 0 on `origin`; the leader's counter and its mirrors advance. -/
def State.placeCluster (s : State) (nid : Nat) (n : Node) (origin : Nat) : Option State :=
  let cs := (List.range n.width).map (rectCore n.cwid origin 0)
  if bits n.dies (dieOf origin) 1 = 0 || dieOf origin > 3 || cs.any (·.isNone) || decide (n.nclus ≤ n.next) then none
  else
    match s.inQuota n (s.seatAll nid n (cs.map (·.getD 0)) (n.next * n.width)) with
    | none => none
    | some s1 => some { s1 with nodes := Table.upd s1.nodes nid (fun m => { m with
        next := m.next + 1, granted := m.granted + n.width, leader := (s.leaderOf n).getD 0 }) }

/-- R287: a ready node that the Cutter can dispatch. -/
def State.placeable (s : State) (nid : Nat) (n : Node) : Bool :=
  match s.verdict n with
  | .fail _ => true
  | .lost _ => true
  | .wait => false
  | .good ws =>
    if n.exec ≠ 0 then true
    else if n.isOpen then (s.ctx n.ctx).alloc.any (fun c => (s.placeCluster nid n c).isSome)
    else (s.inQuota n (s.seatAll nid n ws 0)).isSome

/-- R287: the teams that a dispatch charges. -/
def State.charge (s : State) (n : Node) : Nat :=
  match s.verdict n with
  | .good _ => if n.exec = 0 then n.teams else 0
  | _ => 0

/-- R287: ready nodes of a priority, of contexts whose queues are not frozen. -/
def State.readyAt (s : State) (p : Nat) : List (Nat × Node) :=
  s.nodes.filter (fun e => e.2.st == .ready && (s.ctx e.2.ctx).mode == .live && s.prioOf e.2 == p)

/-- The oldest of some ready nodes. -/
def oldest : List (Nat × Node) → Option (Nat × Node)
  | [] => none
  | a :: t =>
    match oldest t with
    | none => some a
    | some b => if a.2.order ≤ b.2.order then some a else some b

/-- R287: the visits after which a deficit reaches a charge: at least one. -/
def visits (deficit gain need : Nat) : Nat := max 1 ((need - deficit + gain - 1) / gain)

/-- R287: what the Cutter's visits at one priority come to: the node, its charge, and the deficits. -/
structure Pick where
  nid     : Nat
  ten     : Nat
  deficits : List (Nat × Nat)
deriving DecidableEq, Repr

/-- R287: the choice at a priority. The tenancies with ready nodes are visited in turn; each visit adds to a deficit; the first that covers
the tenancy's oldest placeable node dispatches it. -/
def State.pickAt (s : State) (p : Nat) : Option Pick :=
  let ready := s.readyAt p
  let tenOf : Nat × Node → Nat := fun e => (s.ctx e.2.ctx).ten
  let all := (ready.map tenOf).foldl insertNat []
  let from_ := Table.getD s.lastTen 0 p
  let tens := all.filter (fun t => decide (from_ ≤ t)) ++ all.filter (fun t => decide (t < from_))
  let deficit : Nat → Nat := fun t => Table.getD s.deficits 0 (p * 64 + t)
  let gain : Nat → Nat := fun t => 64 * max 1 (s.ten t).weight
  let cands := tens.zipIdx.filterMap (fun e =>
    (oldest (ready.filter (fun r => tenOf r == e.1 && s.placeable r.1 r.2))).map (fun r =>
      (visits (deficit e.1) (gain e.1) (s.charge r.2), e.2, e.1, r)))
  let best := cands.foldl (fun b c => match b with
    | none => some c
    | some d => if c.1 < d.1 || (c.1 = d.1 && c.2.1 < d.2.1) then some c else some d) none
  match best with
  | none => none
  | some (v, i, t, r) =>
    some ⟨r.1, t, tens.zipIdx.map (fun e =>
      let k := if e.2 ≤ i then v else v - 1
      let d := deficit e.1 + k * gain e.1
      (p * 64 + e.1, if e.2 = i then (if (ready.filter (fun x => tenOf x == t)).length ≤ 1 then 0 else d - s.charge r.2) else d))⟩

/-- R287: the ready node that the Cutter dispatches next. -/
def State.pickNode (s : State) : Option (Nat × Pick) := (List.range 16).findSome? (fun p => (s.pickAt p).map (fun k => (p, k)))

/-- The deficits after a dispatch, and the tenancy to visit next. -/
def State.charged (s : State) (p : Nat) (k : Pick) : State :=
  { s with deficits := k.deficits.foldl (fun t e => Table.setD t 0 e.1 e.2) s.deficits, lastTen := Table.setD s.lastTen 0 p (k.ten + 1) }

/-- A node has been dispatched. -/
def State.markPlaced (s : State) (nid : Nat) : State :=
  { s with nodes := Table.upd s.nodes nid (fun m => { m with st := .placed, order := s.order }), order := s.order + 1 }

/-- R282: the one-entry chain of a node for an engine. -/
def Node.ref (n : Node) (nid die : Nat) : ChainRef := if n.cwid = 0 then .coll die (4 + nid) else .press (256 * (nid + 1) + n.ch)

/-- R282: the entry of a node for an engine stands in a chain of its own, whose tail has passed it. -/
def State.openNode (s : State) (nid : Nat) (n : Node) : State :=
  s.setChain (n.ref nid ((s.leaderOf n).getD 0))
    ⟨true, n.ctx, n.ctx, n.entry, 1, 0, 1, 0, 0, 0, false, false, [(1, (s.ctx n.ctx).gen, n.team.getD (2 ^ 64))], [], 0⟩

/-- R284, R286, R386: the Cutter dispatches a node that it has picked. -/
def State.dispatch (s : State) (nid origin : Nat) (n : Node) : Option State :=
  match s.verdict n with
  | .wait => none
  | .lost ps => some (s.consume n.ctx ps)
  | .fail z => some { s with nodes := Table.upd s.nodes nid (fun m => { m with st := .done, reason := z.cause, malf := z.malf, psn := z.psn }) }
  | .good ws =>
    match n.exec with
    | 1 =>
      let q := (s.ctx n.ctx).hostq
      let s1 := (s.updCtx n.ctx (fun c => { c with hostq := c.hostq ++ [nid] })).markPlaced nid
      some (if q.isEmpty then s1.interrupt n.ctx 3 else s1)
    | 2 => some ((s.openNode nid n).markPlaced nid)
    | _ =>
      if n.isOpen then (s.placeCluster nid n origin).map (fun t => t.markPlaced nid)
      else (s.inQuota n (s.seatAll nid n ws 0)).map (fun t =>
        ({ t with nodes := Table.upd t.nodes nid (fun m => { m with granted := n.teams, next := n.nclus }) } : State).markPlaced nid)

/-- R289: the saved teams of a team's cluster that are queued for restore. -/
def State.queued (s : State) (t : Team) : List (Nat × SavedTeam) :=
  s.saved.filter (fun e => e.2.ready && e.2.team.cluster == t.cluster)

/-- R286, R289: the queued teams of a cluster are put back together, each at its position in the rectangle that has team `tid` on `core`. -/
def State.restoreCluster (s : State) (tid core : Nat) : Option State :=
  match Table.find s.saved tid with
  | none => none
  | some k =>
    if !k.ready then none
    else (s.queued k.team).foldl (fun (o : Option State) e =>
      match o, rectCore (s.widthOf k.team.node) core k.team.num e.2.team.num with
      | some u, some c => if u.canRestore c e.1 e.2 then some (u.restore e.1 c) else none
      | _, _ => none) (some s)

/-- R289: the priority at which a saved team is queued: its node's. -/
def State.prioSaved (s : State) (k : SavedTeam) : Nat := ((Table.find s.nodes k.team.node).map s.prioOf).getD 15

/-- R287, R289: a queued cluster of a lower PRIO than `p` can be put back somewhere, and goes first. -/
def State.outranked (s : State) (p : Nat) : Bool :=
  s.saved.any (fun e => e.2.ready && (s.ctx e.2.team.ctx).mode == .live && decide (s.prioSaved e.2 < p)
    && (s.ctx e.2.team.ctx).alloc.any (fun c => (s.restoreCluster e.1 c).isSome))

/-- R289, R310, R315: the queued teams of a cluster are restored, within the tenancy's quota of cores, where nothing of a lower PRIO can be placed
first. -/
def State.requeue (s : State) (tid core : Nat) : State :=
  match Table.find s.saved tid with
  | none => s
  | some k =>
    match Table.find s.nodes k.team.node with
    | none => s
    | some n =>
      let p := s.prioSaved k
      if (s.ctx n.ctx).mode ≠ .live || s.outranked p
          || s.nodes.any (fun e => e.2.st == .ready && (s.ctx e.2.ctx).mode == .live && decide (s.prioOf e.2 < p) && s.placeable e.1 e.2) then s
      else (s.inQuota n (s.restoreCluster tid core)).getD s

def execRestore (tid core : Nat) (s : State) : Host.Outcome State Fault Refusal := .next (s.requeue tid core)

/-- R287, R36: the Cutter dispatches node `nid`, if its turn has come; or a dispatcher places the next cluster of an open grid that has been
dispatched. `origin` is the core of the cluster's team 0. -/
def State.nodeDispatch (s : State) (nid origin : Nat) : State :=
  match Table.find s.nodes nid with
  | none => s
  | some n =>
    if (s.ctx n.ctx).mode ≠ .live then s
    else
      match n.st with
      | .ready =>
        match s.pickNode with
        | none => s
        | some (p, k) =>
          if k.nid ≠ nid || s.outranked p then s
          else
            match s.dispatch nid origin n with
            | none => s
            | some t => t.charged p k
      | .placed =>
        if n.exec = 0 && n.isOpen then (s.placeCluster nid n origin).getD s else s
      | _ => s

def execNodeDispatch (nid origin : Nat) (s : State) : Host.Outcome State Fault Refusal := .next (s.nodeDispatch nid origin)

-- Completion.

/-- R38, R282, R284: a node's work is over. -/
def State.nodeOver (s : State) (nid : Nat) (n : Node) : Bool :=
  match n.st with
  | .done => true
  | .placed =>
    match n.exec with
    | 0 => n.next == n.nclus && n.ended + n.lost == n.teams
    | 2 => (s.chains.filter (fun e => nodeOf (refOf e.1) == some nid)).all (fun e => e.2.started.isEmpty && (e.2.stopped || e.2.done == 1))
    | _ => false
  | _ => false

/-- R311: an access of an agent of the host die for a context that has failed: a poisoned table entry loses the context. -/
def State.hostFail (s : State) (ctx : Nat) (e : LaneFail) : State := if lossCause e.cause then s.loseContext ctx e.cause [] else s

/-- R284: the completion word, where it can be written. -/
def State.writeDone (s : State) (n : Node) (reason : Nat) : State :=
  let va := n.doneAt
  if va = 0 || va % 8 ≠ 0 then s
  else match s.probe hostCore n.ctx va 8 .store true false with
  | some e => s.hostFail n.ctx e
  | none =>
    let s1 := s.touch hostCore n.ctx va true
    (s1.store Agent.engine n.ctx (s1.keyAt hostCore n.ctx va true) 0 (leBytes (reason * 2 ^ 48 + n.lost * 2 ^ 24 + 1) 8)).1

/-- R284: the team whose semaphore a node's completion names: its enqueuer's, or team SEMTEAM of that team's cluster, wherever it stands. -/
def State.doneTeam (s : State) (n : Node) : Option Nat :=
  if bits n.doneAt 15 1 = 0 then n.team
  else ((s.teams ++ s.saved.map (fun e => (e.1, e.2.team))).find? (fun e =>
    e.2.cluster == n.cluster && e.2.num == bits n.doneAt 8 7)).map Prod.fst

/-- R284, R290: the semaphore that a node's completion names; none where its team has ended. -/
def State.doneSem (s : State) (n : Node) : Option SemAt :=
  (s.doneTeam n).bind (fun t => if s.teamEnded t then none else s.semRef t false 0 (bits n.doneAt 0 6))

/-- R284, R348: the completion semaphore; an increment that finds no team is dropped and counted. -/
def State.signalDone (s : State) (n : Node) : State :=
  if n.team.isNone then s
  else
    match s.doneSem n with
    | some p => s.semAdd p 1 true
    | none => s.updTen (s.ctx n.ctx).ten (fun x => { x with dropInc := x.dropInc + 1 })

/-- R285: one predecessor of the node at an address has completed: the waiting node that may be ready now, or a credit. One whose last
predecessor has completed waits no more. -/
def State.decrement (s : State) (ctx addr : Nat) : State × Option Nat :=
  match s.nodes.find? (fun e => e.2.ctx == ctx && e.2.addr == addr && e.2.st == .waiting && e.2.pred != 0) with
  | none => ({ s with credits := Table.put s.credits (creditKey ctx addr) (Table.getD s.credits 0 (creditKey ctx addr) + 1) }, none)
  | some e =>
    let n := { e.2 with pred := e.2.pred - 1 }
    ({ s with nodes := Table.put s.nodes e.1 n }, if n.pred = 0 then some e.1 else none)

/-- R287: inserts a node among those that become ready together: by core of the enqueuer, host submissions last. -/
def byOrigin (s : State) (nid : Nat) : List Nat → List Nat
  | [] => [nid]
  | k :: t =>
    let at_ : Nat → Nat := fun i => ((Table.find s.nodes i).map (·.origin)).getD 0
    if at_ nid < at_ k then nid :: k :: t else k :: byOrigin s nid t

/-- A waiting node becomes ready. -/
def State.makeReady (s : State) (nid : Nat) : State :=
  { s with nodes := Table.upd s.nodes nid (fun m => { m with st := .ready, order := s.order }), order := s.order + 1 }

/-- R284, R285: the predecessor counts of a node's successors fall. -/
def State.releaseSuccessors (s : State) (n : Node) : State :=
  let at_ : Nat → Nat := fun k => n.succPtr + 8 * k
  match (List.range n.nsucc).findSome? (fun k => s.probe hostCore n.ctx (at_ k) 8 .load false false) with
  | some e => s.hostFail n.ctx e
  | none =>
    let rs := (List.range n.nsucc).map (fun k => s.loadVa hostCore 0 n.ctx (at_ k) 8)
    match rs.flatMap (fun r => r.2.2) with
    | p :: ps => s.consume n.ctx (p :: ps)
    | [] =>
      let r := rs.foldl (fun (acc : State × List Nat) x =>
        let q := acc.1.decrement n.ctx (leNat x.1)
        (q.1, match q.2 with | some i => byOrigin q.1 i acc.2 | none => acc.2)) (s, [])
      r.2.foldl State.makeReady r.1

/-- R284, R300, R307: a node that is over completes, once what its groups had under way has ended: its word or semaphore, one record for a
reason, and its successors; it waits while the pool has no room for the credits that it makes (R285, log entry 31). -/
def State.nodeComplete (s : State) (nid : Nat) : State :=
  match Table.find s.nodes nid with
  | none => s
  | some n =>
    if !s.nodeOver nid n || s.orphans.any (fun o => o.node == nid) || !s.acked n.acks || (s.ctx n.ctx).mode ≠ .live
        || (!n.csem && s.invalidating n.ctx n.doneAt)
        || (List.range n.nsucc).any (fun k => s.invalidating n.ctx (n.succPtr + 8 * k)) then s
    else
      let reason := if n.reason = 0 && n.lost ≠ 0 then 0x207 else n.reason
      let s1 := { s with
        time := max s.time n.horizon, nodes := Table.del s.nodes nid,
        chains := s.chains.filter (fun e => nodeOf (refOf e.1) != some nid) }
      let s2 := if n.csem then s1.signalDone n else s1.writeDone n reason
      let s3 := if reason = 0 then s2
        else s2.report { s2.blank n.ctx (if reason < 0x200 then reason else 0) with aux := reason, malf := n.malf, psn := n.psn }
      let s4 := s3.releaseSuccessors n
      if 16384 < s4.poolUsed then s else s4

def execNodeComplete (nid : Nat) (s : State) : Host.Outcome State Fault Refusal := .next (s.nodeComplete nid)

-- The host.

/-- R285, R287, R390: the host submits a node, or is refused. -/
def State.hostSubmit (s : State) (ctx addr : Nat) : State :=
  let ten := (s.ctx ctx).ten
  if s.accept.isNone || (s.ctx ctx).mode ≠ .live || addr % 128 ≠ 0 || !s.poolAccepts then s.refuse ten
  else match s.probe hostCore ctx addr 128 .load false false with
  | some e => (s.hostFail ctx e).refuse ten
  | none =>
    let r := s.loadVa hostCore 0 ctx addr 128
    match r.2.2 with
    | p :: ps => s.consume ctx (p :: ps)
    | [] => s.submit ctx addr r.1 1023 none

def execHostSubmission (ctx : Nat) (addr : Dword) (s : State) : Host.Outcome State Fault Refusal := .next (s.hostSubmit ctx addr.toNat)

/-- R386: the host runtime reports a node of its queue done. -/
def State.hostDone (s : State) (nid : Nat) : State :=
  match Table.find s.nodes nid with
  | none => s
  | some n =>
    if n.exec ≠ 1 || n.st ≠ .placed then s
    else
      let s1 := s.updCtx n.ctx (fun c => { c with hostq := c.hostq.filter (· != nid) })
      { s1 with nodes := Table.upd s1.nodes nid (fun m => { m with st := .done }) }

def execHostNodeDone (nid : Nat) (s : State) : Host.Outcome State Fault Refusal := .next (s.hostDone nid)

/-- R298, R393: service writes the reply of the oldest request as a release at `.dev`. A call that was not in service when a switch was
requested waits for the new version. -/
def State.reply (s : State) (ctx : Nat) (v : Dword) : State :=
  match (s.ctx ctx).svcq with
  | [] => s
  | q :: t =>
    if (s.fw.pending && !q.old) || s.invalidating ctx q.reply.toNat then s
    else
      let s1 := s.updCtx ctx (fun c => { c with svcq := t })
      match s1.probe hostCore ctx q.reply.toNat 8 .store true false with
      | some e => s1.hostFail ctx e
      | none =>
        let s2 := s1.touch hostCore ctx q.reply.toNat true
        (s2.store Agent.engine noCtx (s2.keyAt hostCore ctx q.reply.toNat true) 0 (leBytes v.toNat 8)).1

def execSvcReply (ctx : Nat) (reply : Dword) (s : State) : Host.Outcome State Fault Refusal := .next (s.reply ctx reply)

-- Pre-emption.

/-- R289: the cores that a waiting node can use. -/
def State.usable (s : State) (n : Node) (core : Nat) : Bool :=
  (s.ctx n.ctx).alloc.contains core &&
    (if n.isOpen then bits n.dies (dieOf core) 1 == 1
     else match s.verdict n with
       | .good ws => ws.any (fun c => c == core || (n.dup && c + 1 == core))
       | _ => false)

/-- R289: how many cores a waiting node needs: a cluster's for an open grid. -/
def State.coreNeed (s : State) (n : Node) : Nat :=
  match s.verdict n with
  | .good ws => (if n.dup then 2 else 1) * (if n.isOpen then n.width else ws.eraseDups.length)
  | _ => 0

/-- R289, R375: the clusters that may be vacated for a node, by number: those of a PRE node of greater PRIO, on usable cores, of a context that
is not frozen. -/
def State.victims (s : State) (n : Node) : List (Nat × Node) :=
  (s.teams.filterMap (fun e =>
    match Table.find s.nodes e.2.node with
    | some v =>
      if v.pre && decide (s.prioOf n < s.prioOf v) && !e.2.slots.isEmpty && (s.ctx e.2.ctx).mode == .live
          && (s.usable n e.2.core || (match e.2.twin with | some c => s.usable n c | none => false)) then
        some (e.2.cluster, v)
      else none
    | none => none)).eraseDups

/-- R289: victim `a` is taken before victim `b`. -/
def takenBefore (s : State) (a b : Node) : Bool :=
  decide (s.prioOf b < s.prioOf a) || (s.prioOf a == s.prioOf b && decide (b.order < a.order))

/-- R289: a choice of teams that the Cutter may stop for a node: whole clusters of victims, none passed over for one that comes later, with
as many usable cores as the node needs. -/
def State.choiceGood (s : State) (n : Node) (tids : List Nat) : Bool :=
  let vs := s.victims n
  let mine := s.teams.filter (fun e => tids.contains e.1)
  let cls := (mine.map (fun e => e.2.cluster)).eraseDups
  tids.all (fun t => (Table.find s.teams t).isSome) && cls.all (fun c => vs.any (fun v => v.1 == c))
    && s.teams.all (fun e => !cls.contains e.2.cluster || tids.contains e.1)
    && vs.all (fun v => cls.contains v.1 || !vs.any (fun x => cls.contains x.1 && takenBefore s v.2 x.2))
    && decide (s.coreNeed n ≤ ((mine.flatMap (fun e => e.2.core :: e.2.twin.toList)).filter (s.usable n)).eraseDups.length)

/-- R289: the Cutter requests the teams of victim clusters to stop for a ready node that it cannot place. -/
def State.preempt (s : State) (nid : Nat) (tids : List Nat) : State :=
  match Table.find s.nodes nid with
  | none => s
  | some n =>
    if n.st ≠ .ready || (s.ctx n.ctx).mode ≠ .live || s.placeable nid n || tids.isEmpty || !s.choiceGood n tids then s
    else { s with teams := Table.mapV s.teams (fun tid t => if tids.contains tid then { t with stopping := true } else t) }

def execPreempt (nid : Nat) (tids : List Nat) (s : State) : Host.Outcome State Fault Refusal := .next (s.preempt nid tids)

end Sys2Proof.Machine
end

