-- ==== Sys2Proof/Machine/Ranges.lean ====
section
/-! DEFINITION. Machine/Ranges.lean: the events of a frame at its home (R361, R364, R365), the range table (R355 to R357, R390) and the
loading of patterns (R363, R366 to R368). -/

namespace Sys2Proof.Machine

-- Events.

def execHomeRd (r : HomeReq) (s : State) : Host.Outcome State Fault Refusal := .next (s.homeEvent EV.rd r)
def execHomeRdx (r : HomeReq) (s : State) : Host.Outcome State Fault Refusal := .next (s.homeEvent EV.rdx r)
def execHomeUpg (r : HomeReq) (s : State) : Host.Outcome State Fault Refusal := .next (s.homeEvent EV.upg r)
def execHomeWr (r : HomeReq) (s : State) : Host.Outcome State Fault Refusal := .next (s.homeEvent EV.wr r)
def execHomeAt (r : HomeReq) (s : State) : Host.Outcome State Fault Refusal := .next (s.homeEvent EV.at r)
def execHomeEvc (r : HomeReq) (s : State) : Host.Outcome State Fault Refusal := .next (s.homeEvent EV.evc r)
def execHomeWb (r : HomeReq) (s : State) : Host.Outcome State Fault Refusal := .next (s.homeEvent EV.wb r)
def execHomeAck (r : HomeReq) (s : State) : Host.Outcome State Fault Refusal := .next (s.homeEvent EV.ack r)
def execHomeData (r : HomeReq) (s : State) : Host.Outcome State Fault Refusal := .next (s.homeEvent EV.data r)
def execHomeFl (r : HomeReq) (s : State) : Host.Outcome State Fault Refusal := .next (s.homeEvent EV.fl r)
def execHomeIv (r : HomeReq) (s : State) : Host.Outcome State Fault Refusal := .next (s.homeEvent EV.iv r)
def execHomeZr (r : HomeReq) (s : State) : Host.Outcome State Fault Refusal := .next (s.homeEvent EV.zr r)

/-- R361, R371: the oldest push that a home has sent to a die about a frame is applied there. -/
def State.pushArrives (s : State) (die key : Nat) (word : Slot) : State :=
  match s.pushes.find? (fun p => p.die == die && p.key / 256 == key / 256) with
  | none => s
  | some p => if p.key = key && p.word = word then ({ s with pushes := s.pushes.erase p } : State).applyPush p else s

def execPushApply (die key : Nat) (word : Slot) (s : State) : Host.Outcome State Fault Refusal := .next (s.pushArrives die key word)

-- The range table.

/-- R355: the fields of an entry's words. -/
def rangeEntry (w0 w1 w2 : Dword) : RangeEntry :=
  ⟨w2.getLsbD 0, bits w0.toNat 12 40, bits w1.toNat 12 40, bits w0.toNat 62 2, bits w2.toNat 10 6, bits w2.toNat 4 4, w2.getLsbD 3⟩

/-- R355: a reserved bit of an entry's words is set. -/
def rangeReserved (w0 w1 w2 w3 : Dword) : Bool :=
  bits w0.toNat 0 12 != 0 || bits w0.toNat 52 10 != 0 || bits w1.toNat 0 12 != 0 || bits w1.toNat 52 10 != 0
    || bits w2.toNat 1 2 != 0 || bits w2.toNat 8 2 != 0 || bits w2.toNat 16 48 != 0 || w3 != 0

/-- R355: two entries cover a page together. -/
def RangeEntry.meets (a b : RangeEntry) : Bool := a.tier == b.tier && decide (a.base < b.limit) && decide (b.base < a.limit)

/-- R356, R390: an entry write that is refused. -/
def State.rangeRefused (s : State) (idx : Nat) (w0 w1 w2 w3 : Dword) : Bool :=
  let e := rangeEntry w0 w1 w2
  rangeReserved w0 w1 w2 w3 || decide (e.limit ≤ e.base) || bits w1.toNat 62 2 != e.tier
    || (e.valid && s.ranges.any (fun r => r.1 != idx && r.2.valid && r.2.meets e))
    || (match s.pattern e.pat with
        | none => true
        | some p => match p.ten with
          | some t => t != e.ten
          | none => false)
    || (e.hostsh && (!(e.pat == 0 || e.pat == 1 || e.pat == 5) || !s.feature 5))

/-- R355: a frame lies in a valid entry's range. -/
def RangeEntry.covers (e : RangeEntry) (frame : Nat) : Bool :=
  e.valid && tierOf (frame * 256) == e.tier && decide (e.base * 4096 ≤ frame * 256 % 2 ^ 52) && decide (frame * 256 % 2 ^ 52 < e.limit * 4096)

/-- R357: a change of an entry: every copy of the frames that the old or the new range covers is recalled, the marks of frames that leave P3
are cleared, the entry is switched, and held requests are served under the new one. -/
def State.switchRange (s : State) (idx : Nat) (new : RangeEntry) : State :=
  let old := Table.find s.ranges idx
  let hit : Nat → Bool := fun f => old.any (fun x => x.covers f) || new.covers f
  let frames := (s.dirs.map Prod.fst).filter hit
  let s1 := frames.foldl State.recallFrame s
  let s2 := { s1 with
    bolts := s1.bolts.filter (fun b => !hit b.frame || decide (2048 ≤ b.cache)),
    marks := s1.marks.filter (fun w => !(old.any (fun x => x.pat == 3 && x.covers (w / 64)) && !(new.pat == 3 && new.covers (w / 64)))),
    ranges := Table.put s1.ranges idx new }
  frames.foldl (fun s f => s.retryHeld f ((s.dir f).held.length + 1)) s2

/-- R355, R356, R357, R387: system software of a tenancy has an entry written. A valid entry of another tenancy is not its to write. -/
def State.writeRange (s : State) (ten idx : Nat) (w0 w1 w2 w3 : Dword) : State :=
  let e := rangeEntry w0 w1 w2
  let foreign := e.ten != ten || (match Table.find s.ranges idx with | some o => o.valid && o.ten != ten | none => false)
  if decide (64 ≤ idx) || foreign || s.rangeRefused idx w0 w1 w2 w3 then s.refuse ten
  else s.switchRange idx e

def execRangeEntryWrite (ten idx : Nat) (w0 w1 w2 w3 : Dword) (s : State) : Host.Outcome State Fault Refusal :=
  .next (s.writeRange ten idx w0 w1 w2 w3)

-- Patterns.

/-- R363: the flags of a state's descriptor. -/
def SDesc.used (d : BitVec 8) : Bool := d.getLsbD 4
def SDesc.trans (d : BitVec 8) : Bool := d.getLsbD 3
def SDesc.wr (d : BitVec 8) : Bool := d.getLsbD 1
def SDesc.rd (d : BitVec 8) : Bool := d.getLsbD 0

/-- The descriptor of a state of an image. -/
def sdescOf (img : List Byte) (st : Nat) : BitVec 8 := img.getD (16 + st) 0

/-- Entry `i` of an image. -/
def entryOf (img : List Byte) (i : Nat) : Nat := leField img (32 + 4 * i) 4

/-- The fields of a rule. -/
def Rule.next (x : Nat) : Nat := bits x 0 4
def Rule.stall (x : Nat) : Bool := bits x 14 1 == 1
def Rule.wait (x : Nat) : Nat := bits x 24 4

/-- R367: the lowest entry that fails a check of entries. -/
def firstEntry (bad : Nat → Bool) : Option Nat := (List.range 256).find? bad

/-- R367, check 3: reserved bits; the entry or the state that has one. -/
def reservedBad (img : List Byte) : Option (Option Nat) :=
  match firstEntry (fun i => bits (entryOf img i) 28 4 != 0 || bits (entryOf img i) 15 9 != 0 || decide (4 ≤ Rule.wait (entryOf img i))) with
  | some i => some (some i)
  | none =>
    match (List.range 16).find? (fun st => decide (32 ≤ (sdescOf img st).toNat)) with
    | some st => some (some st)
    | none => if leField img 0 1 ≥ 4 || leField img 1 3 ≠ 0 || leField img 8 8 ≠ 0 then some none else none

/-- R367, check 5. -/
def rulesBad (img : List Byte) (i : Nat) : Bool :=
  let x := entryOf img i
  if SDesc.used (sdescOf img (i / 16)) then
    x == 0 || !SDesc.used (sdescOf img (Rule.next x))
      || (Rule.stall x && (bits x 4 10 != 0 || Rule.wait x != 0 || Rule.next x != i / 16)) || (i % 16 == 15 && !Rule.stall x)
  else x != 0

/-- R367, check 6. -/
def grantBad (img : List Byte) (i : Nat) : Bool :=
  let x := entryOf img i
  let cur := sdescOf img (i / 16)
  SDesc.wr (sdescOf img (Rule.next x)) && (bits x 7 1 == 1 || bits x 10 1 == 1)
    && (bits x 8 1 == 0 || ((SDesc.rd cur || SDesc.wr cur) && (bits x 5 1 == 0 || bits x 6 1 == 0 || Rule.wait x != 1)))

/-- R367: the states that a chain of rules that do not stall reaches from a state. -/
def reach (img : List Byte) : Nat → List Nat → List Nat
  | 0, l => l
  | k + 1, l =>
    reach img k (l.foldl (fun acc st => (List.range 16).foldl (fun acc e =>
      let x := entryOf img (16 * st + e)
      if Rule.stall x then acc else insertNat acc (Rule.next x)) acc) l)

/-- R367, check 7: a transient state from which none without TRANS is reached. -/
def transBad (img : List Byte) (st : Nat) : Bool :=
  SDesc.used (sdescOf img st) && SDesc.trans (sdescOf img st)
    && !(reach img 16 [st]).any (fun t => !SDesc.trans (sdescOf img t))

/-- R367: why an image is refused, with the failing entry or state where the check names one. -/
def State.imageBad (s : State) (slot ten : Nat) (img : List Byte) : Option (Nat × Option Nat) :=
  let upd := bits (leField img 0 1) 0 1 == 1
  let masks := bits (leField img 0 1) 1 1 == 1
  let d0 := sdescOf img 0
  let foreign := match Table.find s.patterns slot with | some p => p.ten != some ten | none => false
  if slot < 6 then some (0x08, none)
  else if s.ranges.any (fun e => e.2.valid && e.2.pat == slot) || foreign then some (0x09, none)
  else
    match reservedBad img with
    | some i => some (0x01, i)
    | none =>
      if !SDesc.used d0 || SDesc.rd d0 || SDesc.wr d0 || SDesc.trans d0 then some (0x02, some 0)
      else
        match firstEntry (rulesBad img) with
        | some i => some (0x03, some i)
        | none =>
          match (if upd then none else firstEntry (grantBad img)) with
          | some i => some (0x04, some i)
          | none =>
            match (List.range 16).find? (transBad img) with
            | some st => some (0x05, some st)
            | none =>
              match (if masks then none else firstEntry (fun i =>
                  bits (entryOf img i) 11 1 == 1 || ((i % 16 == 12 || i % 16 == 13) && SDesc.used (sdescOf img (i / 16))
                    && !Rule.stall (entryOf img i)))) with
              | some i => some (0x06, some i)
              | none =>
                match firstEntry (fun i => bits (entryOf img i) 13 1 == 1 && !(decide (1 ≤ i % 16) && decide (i % 16 ≤ 4))) with
                | some i => some (0x07, some i)
                | none => none

/-- R363: the pattern of an image. -/
def patternOf (ten : Nat) (img : List Byte) : Pattern :=
  ⟨some ten, BitVec.ofNat 32 (leField img 4 4), bits (leField img 0 1) 0 1 == 1, bits (leField img 0 1) 1 1 == 1,
    (List.range 16).map (sdescOf img), (List.range 256).map (fun i => BitVec.ofNat 32 (entryOf img i))⟩

/-- R366: PLSTAT after a load: OK, or a reason and an index. -/
def plstatOf (r : Option (Nat × Nat)) : BitVec 32 :=
  match r with
  | none => BitVec.ofNat 32 (2 ^ 30)
  | some x => BitVec.ofNat 32 (x.1 * 2 ^ 16 + x.2 % 256)

/-- R366, R367, R390: a write of PLCMD: TEN and SLOT are stored; with GO set the image is copied, checked, and loaded or refused. INDEX is
open where the reason names neither an entry nor a state. -/
def State.loadPattern (s : State) (cmd : BitVec 32) : State :=
  let s : State := { s with plcmd := cmd &&& 0x003F000F }
  let slot := bits cmd.toNat 0 4
  let ten := bits cmd.toNat 16 6
  let img := s.mem.reads (keyOf 0 s.plsrc.toNat) 1056
  if !cmd.getLsbD 31 then s
  else
    match (if s.feature 1 then s.imageBad slot ten img else some (0x0A, none)) with
    | none => { s with patterns := Table.put s.patterns slot (patternOf ten img), plstat := plstatOf none }
    | some (r, some i) => { s with plstat := plstatOf (some (r, i)) }
    | some (r, none) => { s.useFree with plstat := plstatOf (some (r, s.freeVal)) }

def execPatternLoad (cmd : BitVec 32) (s : State) : Host.Outcome State Fault Refusal := .next (s.loadPattern cmd)

end Sys2Proof.Machine
end

