-- ==== Sys2Proof/Machine/Links.lean ====
section
/-! DEFINITION. Machine/Links.lean: Seam ports and their link layer (R379 to R381, R394), collective packets and tokens (R384, R385), HBM
banks and stacks (R332, R333), CXL ports (R335). -/

namespace Sys2Proof.Machine

-- Seam.

/-- A port as it starts: nothing delivered, nothing sent, every lane in use; flit 1 comes next in both directions (log entry 10). -/
def Port.fresh : Port := ⟨0, 1, 1, 0, none, none, 0, 0xFFFF, false, 0, false, 0, []⟩

/-- A port (R379). -/
def State.port (s : State) (p : Nat) : Port := Table.getD s.ports Port.fresh p

/-- Sets a port; the device has eight (R1). -/
def State.setPort (s : State) (p : Nat) (x : Port) : State := if p < 8 then { s with ports := Table.put s.ports p x } else s

/-- R379: a sequence number stands at or below another, in a window of 2,048. -/
def seqLe (a b : BitVec 12) : Bool := decide ((b - a).toNat < 2048)

/-- R380: the sender sends a flit, if it has one to send: the next of those that it resends, or a new one while the unacknowledged flits leave
room in its buffer of 1,024. Flits queue while the port retrains (R381). -/
def Port.send (x : Port) : Port :=
  if x.training || x.down then x
  else if x.tx ≠ x.top then { x with tx := x.tx + 1, replay := if x.tx + 1 = x.top then none else x.replay }
  else if (x.top - x.acked - 1).toNat < 1024 then { x with tx := x.tx + 1, top := x.top + 1, replay := none }
  else x

/-- R380: the sender resends from the flit after the named one; a retraining under way takes precedence (R381). -/
def Port.resend (x : Port) (named : BitVec 12) : Port :=
  if x.training || x.down then x else { x with replay := some (named + 1), tx := named + 1 }

/-- R379: the fields of a flit header. -/
def flitSeq (h : Dword) : BitVec 12 := h.extractLsb' 52 12
def flitAck (h : Dword) : BitVec 12 := h.extractLsb' 40 12
def flitKind (h : Dword) : Nat := bits h.toNat 36 4

/-- R379: the virtual channel: requests, responses, pushes and invalidations, collectives; KIND 5 and up and VC 4 and up are reserved. -/
def flitVc (h : Dword) : Nat := bits h.toNat 33 3

/-- R379: a flit of 256 bytes is good: after its header come 240 bytes of payload and the CRC, which is right over header and payload. A
reserved code fails as a CRC does (DESIGN CHOICE, log entry 84). -/
def flitGood (h : Dword) (rest : List Byte) : Bool :=
  rest.length == 248 && leField rest 240 8 == (Config.flitCrc (leBytes h.toNat 8 ++ rest.take 240)).toNat && decide (flitKind h < 5)
    && decide (flitVc h < 4)

/-- R380: a delivered flit: its acknowledgement counts, a replay request makes this sender resend, a retrain makes this port train. -/
def Port.deliver (now : Nat) (x : Port) (h : Dword) : Port :=
  let x1 := { x with rx := flitSeq h, asked := none, acked := if seqLe x.acked (flitAck h) then flitAck h else x.acked }
  match flitKind h with
  | 2 => x1.resend (flitAck h)
  | 3 => { x1 with training := true, since := if x.training then x.since else now, replay := none }
  | _ => x1

/-- R380: the receiver delivers a good flit that is next, drops one at or below the last delivered, and else asks for a replay. -/
def Port.receive (now : Nat) (x : Port) (h : Dword) (good : Bool) : Port :=
  if good && flitSeq h == x.rx + 1 then x.deliver now h
  else if seqLe (flitSeq h) x.rx then x
  else { x with asked := some x.rx }

def execFlitReceive (port : Nat) (header : Dword) (rest : List Byte) (s : State) : Host.Outcome State Fault Refusal :=
  .next (if (s.port port).down then s else s.setPort port ((s.port port).receive s.time header (flitGood header rest)))

def execReplayRequest (port : Nat) (named : BitVec 12) (s : State) : Host.Outcome State Fault Refusal :=
  .next (s.setPort port ((s.port port).resend named))

/-- R381: the lanes at which a port retrains: the widest choice that holds no failed lane. -/
def widest (failed : BitVec 16) : Option (BitVec 16) :=
  ([0x00FF, 0xFF00, 0x000F, 0x00F0, 0x0F00, 0xF000] : List (BitVec 16)).find? (fun m => m &&& failed == 0)

/-- R311, R335, R381: what outstanding loads have yet to read of the bytes that `p` selects comes back poisoned. -/
def LanePart.poisonAt (p : Nat → Bool) (q : LanePart) : LanePart :=
  match q.miss.find? (fun m => p m.2) with
  | none => q
  | some m => { q with miss := q.miss.filter (fun m => !p m.2), poison := q.poison ++ [(tierCause (tierOf m.2), q.va)] }

/-- The same for every outstanding load of the device. -/
def State.poisonLoads (s : State) (p : Nat → Bool) : State :=
  let spoil : PendingLoad → PendingLoad := fun l => { l with parts := l.parts.map (LanePart.poisonAt p) }
  { s with
    groups := Table.mapV s.groups (fun _ g => { g with loads := g.loads.map spoil }),
    orphans := s.orphans.map (fun o => { o with load := spoil o.load }) }

/-- R381: the contexts with traffic to peers that `p` selects: outstanding loads, stores or engine writes. -/
def State.trafficTo (s : State) (p : Nat → Bool) : List Nat :=
  let far : Nat → Bool := fun k => tierOf k == 3 && p (bits k 43 9)
  let loads := (s.groups.flatMap (fun e => e.2.loads) ++ s.orphans.map (·.load)).filter (fun l => l.parts.any (fun q => q.miss.any (fun m => far m.2)))
  let stores := s.flight.filter (fun f => far f.key && decide (f.ctx < noCtx))
  (loads.map (·.ctx) ++ stores.map (·.ctx)).foldl insertNat []

/-- R381, R394: the chains with outstanding engine writes among the stores of some numbers stop at the entries that made them. -/
def State.stopFabric (s : State) (gone : List Nat) : State :=
  s.chains.foldl (fun s e =>
    let c := refOf e.1
    match (s.chain c).started.find? (fun x => match x.await with | .fabric ids => ids.any gone.contains | _ => false) with
    | some x => s.stopAt c { cause := Cause.linkDown } x.pos
    | none => s) s

/-- R381: a port goes down: where no port reaches a peer any more, its outstanding loads return poison, its stores are dropped and engine
entries stop; one record goes to the device log and to each context with traffic on the port. -/
def State.portDown (s : State) (port : Nat) : State :=
  let x := s.port port
  let ctxs := s.trafficTo x.peers.contains
  let s1 := s.setPort port { x with down := true, training := false, replay := none }
  let lost : Nat → Bool := fun peer => x.peers.contains peer && !s1.ports.any (fun q => !q.2.down && q.2.peers.contains peer)
  let gone : Nat → Bool := fun k => tierOf k == 3 && lost (bits k 43 9)
  let out := (s1.flight.filter (fun f => gone f.key && s1.waiting f)).map (·.id)
  let s2 := ((s1.poisonLoads gone).dropFlights (fun f => gone f.key)).stopFabric out
  let s3 := s2.log { s2.blank 0 Cause.linkDown with ten := 0 }
  ctxs.foldl (fun s c => s.report (s.blank c Cause.linkDown)) s3

/-- R381: a port begins to retrain at the widest choice of lanes, before any replay; with none it goes down. -/
def State.laneRepair (s : State) (port lane : Nat) : State :=
  let x := s.port port
  let failed := x.failed ||| (1#16 <<< lane)
  if decide (8 ≤ port) || decide (16 ≤ lane) || x.down then s
  else
    match widest failed with
    | none => (s.setPort port { x with failed := failed }).portDown port
    | some m => s.setPort port { x with failed := failed, lanes := m, training := true, since := s.time, replay := none }

def execLaneRepair (port lane : Nat) (s : State) : Host.Outcome State Fault Refusal := .next (s.laneRepair port lane)

/-- R381: retraining ends, and the sender replays from the flit after the last acknowledged number. -/
def State.retrained (s : State) (port : Nat) : State :=
  let x := s.port port
  if !x.training then s
  else
    match widest x.failed with
    | none => s.portDown port
    | some m => s.setPort port { x with lanes := m, training := false, replay := some (x.acked + 1), tx := x.acked + 1 }

def execRetrainComplete (port : Nat) (s : State) : Host.Outcome State Fault Refusal := .next (s.retrained port)

/-- R394: the stores of a chain's started entries that await an acknowledgement which can return now, oldest first. -/
def State.ackable (s : State) (c : ChainRef) : List Flight :=
  let ids := (s.chain c).started.flatMap (fun e => match e.await with | .fabric ids => ids | _ => [])
  s.flight.filter (fun f => ids.contains f.id && decide (s.time < f.tv) && s.reaches f.key)

/-- R394: the acknowledgement of one engine write of a chain returns, the oldest whose peer a port reaches: the write has performed. -/
def State.fabricAck (s : State) (c : ChainRef) : State :=
  match s.ackable c with
  | [] => s
  | a :: _ => { s with flight := s.flight.map (fun f => if f.id = a.id then { f with tv := s.time } else f) }

def execFabricWriteAck (c : ChainRef) (s : State) : Host.Outcome State Fault Refusal := .next (s.fabricAck c)

-- Collectives.

def execAbortToken (ctx group : Nat) (s : State) : Host.Outcome State Fault Refusal := .next (s.abortColl ctx group)

/-- R384, R385: a packet of a rank's data arrives: of the group's attempt, it is used; of an older one, it is dropped and counted. -/
def State.collArrives (s : State) (ctx group attempt rank : Nat) (data : List Byte) : State :=
  match Table.find s.colls (collKey ctx group) with
  | none => s
  | some g =>
    let a := BitVec.ofNat 16 attempt
    if a = g.attempt then
      if rank ≥ g.ranks || rank = g.rank then s
      else
        let g1 := { g with inbox := Table.setD g.inbox [] rank (Table.getD g.inbox [] rank ++ data) }
        let s1 := { s with colls := Table.put s.colls (collKey ctx group) g1 }
        (s1.chains.filter (fun e => e.2.ctx == ctx && !e.2.stopped)).foldl (fun s e => s.tryColl ctx group (refOf e.1)) s1
    else if (g.attempt - a).toNat < 2 ^ 15 then s.updTen (s.ctx ctx).ten (fun t => { t with dropPkt := t.dropPkt + 1 })
    else s

def execCollectivePacket (ctx group attempt rank : Nat) (data : List Byte) (s : State) : Host.Outcome State Fault Refusal :=
  .next (s.collArrives ctx group attempt rank data)

-- HBM and CXL.

/-- A bank that owes nothing. -/
def Bank.fresh : Bank := ⟨0, 0, false⟩

/-- R1, R326: a stack and a bank of it: 32 pseudo-channels of four groups of four banks. -/
def bankGood (st b : Nat) : Bool := decide (st < 8) && decide (b < 512)

/-- The key of a bank of a stack. -/
def bankKey (st b : Nat) : Nat := st * 65536 + b % 65536

def State.bankOf (s : State) (st b : Nat) : Bank := Table.getD s.banks Bank.fresh (bankKey st b)
def State.setBank (s : State) (st b : Nat) (x : Bank) : State := { s with banks := Table.setD s.banks Bank.fresh (bankKey st b) x }

/-- R333: an alert back-off of a bank: served first; with eight postponed refreshes those follow at once, the bank is closed meanwhile, and
the event is counted and logged. One that arrives while a bank is catching up waits for the refresh in progress. -/
def State.alert (s : State) (st b : Nat) : State :=
  let x := s.bankOf st b
  if !bankGood st b then s
  else if x.owed ≠ 0 then s.setBank st b { x with alert := true }
  else if x.postponed < 8 then s
  else
    let s1 := (s.setBank st b ⟨0, 8, false⟩).setStack st { s.stackOf st with alerts := (s.stackOf st).alerts + 1 }
    s1.log { s1.blank 0 0 with ten := 0 }

def execAlertBackOff (stack bank : Nat) (s : State) : Host.Outcome State Fault Refusal := .next (s.alert stack bank)

/-- R333: a due refresh of a bank is issued, or postponed while fewer than eight are (a free choice, log entry 4); a bank that is catching
up issues one of those that it owes, and then serves an alert that waits. -/
def State.refresh (s : State) (st b : Nat) : State :=
  let x := s.bankOf st b
  if !bankGood st b then s
  else if x.owed ≠ 0 then s.setBank st b { x with owed := x.owed - 1, alert := false }
  else if x.postponed < 8 then
    (if s.freeVal % 2 = 1 then s.useFree.setBank st b { x with postponed := x.postponed + 1 } else s.useFree)
  else s

def execHbmRefresh (stack bank : Nat) (s : State) : Host.Outcome State Fault Refusal := .next (s.refresh stack bank)

/-- R332, R333: an activate of a bank that is open waits until the stack's count over 2,600 dcy is below its limit. -/
def State.activateRow (s : State) (st b : Nat) : State :=
  let x := s.bankOf st b
  let k := s.stackOf st
  if !bankGood st b || x.owed ≠ 0 || x.alert then s
  else
    let recent := k.activates.filter (fun t => decide (s.time < t + 2600))
    let now := if recent.length < k.limit then s.time else max s.time (recent.getD (recent.length - k.limit) 0 + 2600)
    ({ s with time := now } : State).setStack st { k with activates := (recent.filter (fun t => decide (now < t + 2600))) ++ [now] }

def execActivate (stack bank : Nat) (s : State) : Host.Outcome State Fault Refusal := .next (s.activateRow stack bank)

/-- R332: the power controller sets a stack's limit within its range, or the idle dcy of the matrix engines. -/
def State.setLimit (s : State) (st : Option Nat) (v : Nat) : State :=
  match st with
  | some k => if decide (k < 8) && decide (512 ≤ v) && decide (v ≤ 65535) then s.setStack k { s.stackOf k with limit := v } else s
  | none => { s with idleDcy := v }

def execPowerControllerSetsLimit (stack : Option Nat) (value : Nat) (s : State) : Host.Outcome State Fault Refusal :=
  .next (s.setLimit stack value)

/-- A CXL port that is up and has no window. -/
def CxlPort.fresh : CxlPort := ⟨0, false⟩

/-- R335: a CXL port goes down: reads of its window not yet served return poison, writes are dropped, and the event is logged. -/
def State.cxlFails (s : State) (port : Nat) : State :=
  if 4 ≤ port then s
  else
    let s1 := { s with cxl := Table.put s.cxl port { (Table.getD s.cxl CxlPort.fresh port) with down := true } }
    let s2 := (s1.poisonLoads s1.cxlDown).dropFlights (fun f => s1.cxlDown f.key)
    s2.log { s2.blank 0 0 with ten := 0 }

def execCxlPortDown (port : Nat) (s : State) : Host.Outcome State Fault Refusal := .next (s.cxlFails port)

end Sys2Proof.Machine
end

