-- ==== Sys2Proof/Machine/Resets.lean ====
section
/-! DEFINITION. Machine/Resets.lean: the Trier and spare sites (R376, R377), the loss of a die (R37, R378), the resets (R389), loss and
return of power (R345, R351, R405, R406). -/

namespace Sys2Proof.Machine

-- The Trier.

/-- Sets the Trier's state of a core. -/
def State.setTrier (s : State) (core : Nat) (x : Trier) : State := { s with trier := Table.setD s.trier Trier.fresh core x }

/-- R376: a core with no team, which no scan runs on. -/
def State.coreIdle (s : State) (core : Nat) : Bool := !s.teams.any (fun e => e.2.on core) && (s.trierOf core).running.isNone

/-- R376: a ready node can be placed so that one of its teams, or a twin, stands on a core. -/
def State.placeableOn (s : State) (nid : Nat) (n : Node) (core : Nat) : Bool :=
  let on : Nat → Bool := fun c => c == core || (n.dup && c + 1 == core)
  match s.verdict n with
  | .good ws =>
    if n.exec ≠ 0 then false
    else if n.isOpen then (s.ctx n.ctx).alloc.any (fun c =>
      (List.range n.width).any (fun t => (rectCore n.cwid c 0 t).any on) && (s.placeCluster nid n c).isSome)
    else ws.any on && (s.inQuota n (s.seatAll nid n ws 0)).isSome
  | _ => false

/-- R376: a ready node of PRIO `lo` to `hi` could be placed on a core, were no scan running on it. -/
def State.wanted (s : State) (core lo hi : Nat) : Bool :=
  let s1 := s.setTrier core { s.trierOf core with running := none }
  s1.nodes.any (fun e => e.2.st == .ready && (s1.ctx e.2.ctx).mode == .live && decide (lo ≤ s1.prioOf e.2) && decide (s1.prioOf e.2 ≤ hi)
    && s1.placeableOn e.1 e.2 core)

/-- R376: a scan starts on the longest-unscanned idle core: its translations and bolts are discarded. -/
def State.scanStart (s : State) (core : Nat) : State :=
  if decide (720 ≤ core) || !s.coreIdle core || !s.feature 7 || s.wanted core 0 10
      || (List.range 720).any (fun c => s.coreIdle c && decide ((s.trierOf c).last < (s.trierOf core).last)) then s
  else
    ({ s with tlb := s.tlb.filter (fun t => t.core != core), bolts := s.bolts.filter (fun b => b.cache != core) } : State).setTrier core
      { s.trierOf core with running := some s.time, abortBy := none }

def execTrierScanStart (core : Nat) (s : State) : Host.Outcome State Fault Refusal := .next (s.scanStart core)

/-- R376, R377: a scan ends, 260,000 dcy after it began; failing units are logged. -/
def State.scanComplete (s : State) (core : Nat) (failing : BitVec 8) : State :=
  match (s.trierOf core).running with
  | none => s
  | some t0 =>
    let s1 := { s with time := max s.time (t0 + 260000), lastSlot := Table.del s.lastSlot core }
    let s2 := s1.setTrier core ⟨s1.time, none, none⟩
    if failing &&& 0x7F = 0 then s2
    else s2.log { s2.blank 0 Cause.trierFail with ten := 0, core := core, detail := (failing &&& 0x7F).zeroExtend 128 }

def execTrierScanComplete (core : Nat) (failing : BitVec 8) (s : State) : Host.Outcome State Fault Refusal :=
  .next (s.scanComplete core failing)

/-- R376: a scan that has its 260,000 dcy behind it is complete; which units fail is open (log entry 55). -/
def State.scanEnds (s : State) (core : Nat) : State := s.useFree.scanComplete core (BitVec.ofNat 8 s.freeVal)

/-- R376: a launch of PRIO 0 to 3 that needs the core aborts its scan; a scan that has its 260,000 dcy behind it is complete instead. -/
def State.scanAbort (s : State) (core : Nat) : State :=
  if (s.trierOf core).running.isNone || !s.wanted core 0 3 then s
  else if (s.trierOf core).running.any (fun t0 => decide (t0 + 260000 ≤ s.time)) then s.scanEnds core
  else s.setTrier core { s.trierOf core with running := none, abortBy := none }

def execTrierScanAbort (core : Nat) (s : State) : Host.Outcome State Fault Refusal := .next (s.scanAbort core)

/-- R376, R401: the time by which each scan that a launch of PRIO 0 to 3 needs stopped has been aborted. -/
def State.watchScans (s : State) : State :=
  { s with trier := Table.mapV s.trier (fun core x =>
      if x.running.isSome && s.wanted core 0 3 then { x with abortBy := some (x.abortBy.getD (s.time + 2600)) } else { x with abortBy := none }) }

/-- R1, R377: the physical site of a logical core: its own number within the die until it is remapped. -/
def State.siteOf (s : State) (core : Nat) : Nat := Table.getD s.coreMap (core % 180) core

/-- R377: a site of a die is a spare: no logical core stands on it, and it is in use no more once one has left it. -/
def State.spare (s : State) (die site : Nat) : Bool :=
  decide (site < 192) && !s.failedSites.contains (die * 192 + site)
    && !(List.range 180).any (fun i => s.siteOf (die * 180 + i) == site)

/-- R377: a logical core with no team is remapped to a spare site of its die, and its old site is out of use; where its die has no spare left,
it is withdrawn (log entry 47). -/
def State.remap (s : State) (core site : Nat) : State :=
  let die := dieOf core
  let failed := insertNat s.failedSites (die * 192 + s.siteOf core)
  if decide (720 ≤ core) || s.teams.any (fun e => e.2.on core) || s.withdrawn.contains core then s
  else if (List.range 192).any (s.spare die) then
    if s.spare die site then { s with coreMap := Table.put s.coreMap core site, failedSites := failed } else s
  else { s with withdrawn := insertNat s.withdrawn core, failedSites := failed }

def execCoreRemap (core site : Nat) (s : State) : Host.Outcome State Fault Refusal := .next (s.remap core site)

-- The loss of a die.

/-- The die that a chain's engine stands on; 4 is the host die. -/
def dieOfChain : ChainRef → Nat
  | .copy core _ => dieOf core
  | .coll die _ => die
  | _ => 4

/-- A cache of a die: an L1, its proxy slices, its home slices. -/
def onDie (die cache : Nat) : Bool :=
  cache == proxyOf die || (decide (cache < 720) && dieOf cache == die) || (decide (2048 + 48 * die ≤ cache) && decide (cache < 2096 + 48 * die))

/-- A die holds no copy of any frame any more: the homes track none of its, and nothing is pushed to it. -/
def State.forgetDie (s : State) (die : Nat) : State :=
  { s with
    dirs := Table.mapV s.dirs (fun _ d => { d with
      sharers := d.sharers.filter (· != die), awaited := d.awaited.filter (· != die), acc := Table.del d.acc die, wr := Table.del d.wr die })
    pushes := s.pushes.filter (fun p => p.die != die) }

/-- R378: a chain stops at the position that it has completed up to, and nothing started of it completes; a stop word that has to wait is
written later (R347). -/
def State.failChain (s : State) (c : ChainRef) (z : Stop) : State :=
  let x := s.chain c
  if s.cwWaits c x then (s.holdChain c (s.cwAsks c x)).setChain c { x with started := [⟨x.done, 0, 0, 0, .fail z, [], none⟩] }
  else s.haltChain c z x.done

/-- R37, R378: a die is lost: its chains stop with RE_SRAM_UNCORR, its teams end unsaved and their nodes count them, its copies go, and the
surviving dispatchers elect a leader. -/
def State.loseDie (s : State) (die : Nat) : State :=
  if decide (4 ≤ die) || s.lostDies.contains die then s
  else
    let s1 := { s with lostDies := insertNat s.lostDies die }
    let cs := (s1.chains.filter (fun e => e.2.isOpen && dieOfChain (refOf e.1) == die)).map (fun e => refOf e.1)
    let s2 := cs.foldl State.letGo (cs.foldl (fun s c => s.failChain c { cause := Cause.sramUncorr }) s1)
    let s3 := (s2.teams.filter (fun e => dieOf e.2.core == die)).foldl (fun s e =>
      let s := s.evict e.1
      { s with nodes := Table.upd s.nodes e.2.node (fun n => if e.2.slots.isEmpty then n else { n with lost := n.lost + 1 }) }) s2
    let s4 := { s3.forgetDie die with
      bolts := s3.bolts.filter (fun b => !onDie die b.cache), tlb := s3.tlb.filter (fun t => !(decide (t.core < 720) && dieOf t.core == die)) }
    { s4 with nodes := Table.mapV s4.nodes (fun _ n => if n.leader = die then { n with leader := (s4.leaderOf n).getD 0 } else n) }

def execDieLost (die : Nat) (s : State) : Host.Outcome State Fault Refusal := .next (s.loseDie die)

-- Resets.

/-- R389: the pending interrupts that `p` selects by their contexts are dropped for those, and counted for the tenancy where none is left. -/
def State.dropInts (s : State) (p : Nat → Bool) : State :=
  let left := s.pendingInt.map (fun e => (e.1, e.2.filter (fun c => !p c)))
  let gone := (s.pendingInt.filter (fun e => e.2.all p)).map (fun e => e.1 / 64)
  { s with
    pendingInt := left.filter (fun e => !e.2.isEmpty),
    tens := gone.foldl (fun t k => Table.put t k { Table.getD t Ten.unset k with dropInt := (Table.getD t Ten.unset k).dropInt + 1 }) s.tens }

/-- R388, R389: a context reset, and the interrupt of a reset that the tenancy requested. -/
def State.resetContext (s : State) (ctx : Nat) : State :=
  if decide (1024 ≤ ctx) || (s.ctx ctx).mode == .free then s else ((s.terminate ctx).dropInts (· == ctx)).interrupt ctx 4

def execContextReset (ctx : Nat) (s : State) : Host.Outcome State Fault Refusal := .next (s.resetContext ctx)

/-- The contexts in use that `p` selects. -/
def State.ctxsWhere (s : State) (p : Nat → Ctx → Bool) : List Nat := (s.ctxs.filter (fun e => e.2.mode != .free && p e.1 e.2)).map Prod.fst

/-- R357, R368, R389: a tenancy reset. -/
def State.resetTenancy (s : State) (ten : Nat) : State :=
  if 64 ≤ ten then s else
  let s1 := (s.ctxsWhere (fun _ c => c.ten == ten)).foldl State.terminate s
  let s2 := (s1.ranges.filter (fun e => e.2.ten == ten)).foldl (fun s e => s.switchRange e.1 { e.2 with valid := false }) s1
  let s3 := { s2 with patterns := s2.patterns.filter (fun e => e.2.ten != some ten) }
  let s4 := s3.dropInts (fun c => (s.ctx c).ten == ten)
  s4.log { s4.blank 0 Cause.tenancyReset with ten := ten }

def execTenancyReset (ten : Nat) (s : State) : Host.Outcome State Fault Refusal := .next (s.resetTenancy ten)

/-- R389: a context has a team, a chain, a handle or a held chain on a die. -/
def State.usesDie (s : State) (ctx die : Nat) : Bool :=
  s.teams.any (fun e => e.2.ctx == ctx && dieOf e.2.core == die)
    || s.chains.any (fun e => e.2.isOpen && e.2.ctx == ctx && dieOfChain (refOf e.1) == die)
    || s.handles.any (fun e => decide (dieOf (e.1 / 256) = die) &&
        s.teams.any (fun t => t.2.ctx == ctx && (if e.2.level = 1 then t.1 == e.2.owner else t.2.cluster == e.2.owner)))

/-- R389: a die reset: the contexts that use it are reset; then its cores, slices and engines return to their reset state. -/
def State.resetDie (s : State) (die : Nat) : State :=
  if 4 ≤ die then s
  else
    let cs := s.ctxsWhere (fun c _ => s.usesDie c die)
    let s1 := (cs.foldl State.terminate s).dropInts cs.contains
    let core : Nat → Bool := fun c => decide (c < 720) && dieOf c == die
    { s1 with
      bolts := s1.bolts.filter (fun b => !(onDie die b.cache || homeDie (b.frame * 256) == die)),
      tlb := s1.tlb.filter (fun t => !core t.core),
      dirs := (s1.forgetDie die).dirs.filter (fun e => homeDie (e.1 * 256) != die),
      pushes := s1.pushes.filter (fun p => p.die != die && homeDie p.key != die),
      scratch := s1.scratch.filter (fun e => !core (e.1 / 2 ^ 19)),
      fgens := s1.fgens.filter (fun e => !core (e.1 / 64)), hgens := s1.hgens.filter (fun e => !core (e.1 / 256)),
      gauges := s1.gauges.filter (fun e => !core (e.1 / 64)), sems := s1.sems.filter (fun e => !core (e.1 / 64)),
      devSems := s1.devSems.filter (fun k => !core (k / 64)), mq := s1.mq.filter (fun e => !core e.1),
      lastSlot := s1.lastSlot.filter (fun e => !core e.1),
      icache := s1.icache.filter (fun e => !core (e.1 / 2 ^ 54)), issued := s1.issued.filter (fun e => !core e.1),
      spatial := s1.spatial.filter (fun e => !core (e.1 / 1024)), trier := s1.trier.filter (fun e => !core e.1),
      chains := s1.chains.filter (fun e => dieOfChain (refOf e.1) != die) }

def execDieReset (die : Nat) (s : State) : Host.Outcome State Fault Refusal := .next (s.resetDie die)

/-- R389, R351: the device as after reset, but for what flash holds: its contents and their poison, its streams without their bindings, and
the fuses and the firmware's banks. The model's own fields run on. -/
def State.coldStart (s : State) : State :=
  { State.reset with
    free := s.free, script := s.script,
    mem := s.mem.filter (fun e => tierOf e.1 == 2), poison := s.poison.filter (fun g => tierOf (g * 16) == 2),
    badBlocks := s.badBlocks.filter (fun b => tierOf (b * 64) == 2),
    streams := Table.mapV s.streams (fun _ x => { x with ctx := none }),
    revoked := s.revoked, fw := { s.fw with pending := false } }

/-- R342, R389: every record of a stream that holds a number is posted. -/
def State.postAll (s : State) (st : Nat) : State :=
  ((s.stream st).recs.filter (fun r => decide ((s.stream st).dseq < r.seq))).foldl (fun s _ => s.postNext st) s

/-- R389: a device reset: the Press first posts every numbered record, and the pending interrupts are dropped and counted; the counts stand
(log entry 48). -/
def State.resetDevice (s : State) : State :=
  let s1 := (s.streams.map Prod.fst).foldl State.postAll s
  { s1.coldStart with tens := Table.mapV (s1.dropInts (fun _ => true)).tens (fun _ t => { Ten.unset with dropInt := t.dropInt }) }

def execDeviceReset (s : State) : Host.Outcome State Fault Refusal := .next s.resetDevice

-- Power.

/-- R351: power is lost: what flash holds survives. -/
def execPowerLoss (s : State) : Host.Outcome State Fault Refusal := .next { s.coldStart with powered := false }

/-- R345: the records past the last posted one that survive: each wholly buffered (an open choice), with none missing before it. -/
def surviving (choice : Nat) (st : Nat) : Nat → List PressRec → Nat → Nat
  | 0, _, n => n
  | k + 1, rs, n =>
    if rs.any (fun r => r.seq == n + 1) && Config.bufferedSurvives ((choice * 256 + st) * 2 ^ 64 + n + 1) then surviving choice st k rs (n + 1) else n

/-- R338, R345: a stream is recovered: the longest run of whole records, and 0xFF in every other byte of its log. A block that this does not
write stays poisoned. -/
def State.recoverStream (s : State) (st : Nat) : State :=
  let x := s.stream st
  let n := surviving s.free st x.recs.length x.recs x.dseq
  let kept := x.recs.filter (fun r => decide (x.trimseq ≤ r.seq) && decide (r.seq ≤ n))
  let tail := match kept.find? (fun r => r.seq == n) with
    | some r => r.off + r.bytes.length
    | none => x.tailoff
  let y1 : Stream := { x with dseq := n, last := n, tailoff := tail, nextOff := tail, recs := kept }
  let y := { y1 with head := y1.headOff }
  let log := flashKey (x.pa + 4096)
  let fresh : Nat → Bool := fun k => (kept.filter (fun r => decide (x.dseq < r.seq))).any (fun r =>
    decide (log + r.off ≤ k) && decide (k < log + r.off + r.bytes.length))
  let m := kept.foldl (fun m r => m.writes (log + r.off) r.bytes) (s.wipe log x.len).mem
  ({ s.wipe log x.len with
    mem := m.writes (flashKey x.pa) y.control,
    poison := s.poison.filter (fun g => !fresh (g * 16)), badBlocks := s.badBlocks.filter (fun b => !fresh (b * 64)) } : State).setStream st y

/-- R345: power returns, and the Affineur recovers each stream. -/
def State.powerReturns (s : State) : State :=
  if s.powered then s
  else { ((s.streams.map Prod.fst).foldl State.recoverStream s).useFree with powered := true }

def execPowerReturn (s : State) : Host.Outcome State Fault Refusal := .next s.powerReturns

end Sys2Proof.Machine
end

