-- ==== Sys2Proof/Machine/Manage.lean ====
section
/-! DEFINITION. Machine/Manage.lean: management registers (R11, R206, R309, R310, R388), features (R390), the mailbox (R384, R387), interrupts
(R388), the loading of containers (R391, R392), and the firmware's banks (R393). -/

namespace Sys2Proof.Machine

-- Registers that service firmware writes.

/-- A register's value lies in the range that the spec gives it, or the write is refused. -/
def State.within (s : State) (v lo hi : Nat) (t : State) : State := if decide (lo ≤ v) && decide (v ≤ hi) then t else s.refuse 64

/-- Adds a number to a rising list, or takes it out. -/
def member (l : List Nat) (x : Nat) (on : Bool) : List Nat := if on then insertNat l x else l.filter (· != x)

/-- R388: the contexts of a tenancy that are in use. -/
def State.held (s : State) (ten : Nat) : Nat := (s.ctxs.filter (fun e => e.2.ten == ten && e.2.mode != .free)).length

/-- R155, R388: service firmware gives a context to a tenancy, which may hold so many. -/
def State.giveContext (s : State) (ctx ten : Nat) : State :=
  if decide (1024 ≤ ctx) || decide (64 ≤ ten) || (s.ctx ctx).mode != .free || decide ((s.ten ten).contexts ≤ s.held ten) then s.refuse 64
  else s.updCtx ctx (fun c => { c with ten := ten, mode := .live })

/-- R1, R8: the context, the tenancy, the port or the core that a register belongs to exists. -/
def regExists : MgmtReg → Bool
  | .plsrc | .plstat | .featureOffer => true
  | .lease c | .deschedTime c | .serviceLimit c | .contextTenancy c | .contextRoot c | .errorRing c _ _ | .serviceQueue c => decide (c < 1024)
  | .allocation c core => decide (c < 1024) && decide (core < 720)
  | .contexts t | .priorityCeiling t | .coreQuota t | .shareWeight t | .hbmWeight t | .linkWeight t | .scopePolicy t | .vectorCount t =>
    decide (t < 64)
  | .tenantDevice t peer => decide (t < 64) && decide (peer < 512)
  | .fabricWindow t peer _ _ => decide (t < 64) && decide (peer < 512)
  | .laneThreshold p => decide (p < 8)
  | .portPeer p peer => decide (p < 8) && decide (peer < 512)
  | .cxlWindow p _ => decide (p < 4)

/-- R5, R334, R335: a CXL port's window is taken in whole GiB, where the ports' windows together end at or below 2^43 and the port offers only
what the device supports. -/
def State.setWindow (s : State) (port : Nat) (mem : Bool) (v : Nat) : State :=
  let cxl := Table.put s.cxl port { Table.getD s.cxl CxlPort.fresh port with window := v }
  if mem && decide ((cxl.map (fun e => e.2.window)).foldl (· + ·) 0 ≤ 7168) then { s with cxl := cxl } else s.refuse 64

/-- R11: a write to a management register stores its fields; a read-only register ignores it. -/
def State.writeRegister (s : State) (r : MgmtReg) (value : Dword) : State :=
  let v := value.toNat
  let on := value.getLsbD 0
  if !regExists r then s.refuse 64 else
  match r with
  | .plsrc => { s with plsrc := value }
  | .plstat => s
  | .featureOffer => s
  | .lease ctx => s.within v 512 8192 (s.updCtx ctx (fun c => { c with lease := v }))
  | .deschedTime ctx => s.within v 4096 (2 ^ 24) (s.updCtx ctx (fun c => { c with descT := v }))
  | .serviceLimit ctx => s.updCtx ctx (fun c => { c with limit := v })
  | .contexts ten => s.within v 1 1024 (s.updTen ten (fun t => { t with contexts := v }))
  | .priorityCeiling ten => s.within v 0 11 (s.updTen ten (fun t => { t with ceiling := v })).settleDeficits
  | .coreQuota ten => s.within v 0 720 (s.updTen ten (fun t => { t with quota := v }))
  | .shareWeight ten => s.within v 1 255 (s.updTen ten (fun t => { t with weight := v }))
  | .hbmWeight ten => s.within v 1 255 (s.updTen ten (fun t => { t with hbmW := v }))
  | .linkWeight ten => s.within v 1 255 (s.updTen ten (fun t => { t with linkW := v }))
  | .scopePolicy ten => s.within v 0 1 (s.updTen ten (fun t => { t with policy := v }))
  | .vectorCount ten => s.within v 1 64 (s.updTen ten (fun t => { t with vectors := v }))
  | .laneThreshold port => s.setPort port { s.port port with thresh := v }
  | .cxlWindow port mem => s.setWindow port mem v
  | .contextTenancy ctx => s.giveContext ctx v
  | .contextRoot ctx => s.updCtx ctx (fun c => { c with root := keyOf (Pte.tier value) (Pte.pa value) })
  | .errorRing ctx n va =>
    s.within n 4 16 (s.updCtx ctx (fun c => { c with ring := some ⟨BitVec.ofNat 64 va, v, n, 0, 0, 0, false⟩ }))
  | .serviceQueue ctx => s.updCtx ctx (fun c => { c with svcCap := v })
  | .allocation ctx core => s.updCtx ctx (fun c => { c with alloc := member c.alloc core on })
  | .tenantDevice ten peer => s.updTen ten (fun t => { t with devices := member t.devices peer on })
  | .portPeer port peer => s.setPort port { s.port port with peers := member (s.port port).peers peer on }
  | .fabricWindow ten peer base len =>
    { s with windows := (s.windows.filter (· != (ten, peer, base, len))) ++ (if on then [(ten, peer, base, len)] else []) }

def execRegisterWrite (r : MgmtReg) (value : Dword) (s : State) : Host.Outcome State Fault Refusal := .next (s.writeRegister r value)

/-- R390: the first write after a device reset sets ACCEPT, to offered bits only. -/
def State.acceptFeatures (s : State) (value : BitVec 128) : State :=
  match s.accept with
  | some _ => s
  | none => { s with accept := some ((value &&& s.offerReg).truncate 8) }

def execFeatureAcceptWrite (value : BitVec 128) (s : State) : Host.Outcome State Fault Refusal := .next (s.acceptFeatures value)

/-- R387, R388: system software acknowledges an interrupt of its tenancy's block. -/
def State.ackInt (s : State) (ten vec : Nat) : State :=
  if 64 ≤ vec then s.refuse ten else { s with pendingInt := Table.del s.pendingInt (ten * 64 + vec) }

def execInterruptAck (ten vec : Nat) (s : State) : Host.Outcome State Fault Refusal := .next (s.ackInt ten vec)

-- The mailbox.

/-- R384: service firmware creates a collective group, whose attempt number starts at 0; `ue` are the ranks that it reaches over Ultra Ethernet. -/
def State.makeColl (s : State) (ctx group ranks rank : Nat) (ue : List Nat) : State :=
  { s with colls := Table.put s.colls (collKey ctx group) ⟨ranks, rank, ue, 0, [], 0⟩ }

/-- R384, R390: a group that is refused. -/
def State.collRefused (s : State) (ctx group ranks rank : Nat) (ue : List Nat) : Bool :=
  decide (2 ^ 16 ≤ group) || ranks == 0 || decide (4096 < ranks) || decide (ranks ≤ rank) || ue.any (fun r => decide (ranks ≤ r) || r == rank) || (!ue.isEmpty && !s.feature 4)
    || (Table.find s.colls (collKey ctx group)).isSome

/-- R387: a tenancy may make requests about a context: it holds it. -/
def State.owns (s : State) (ten ctx : Nat) : Bool := (s.ctx ctx).mode != .free && (s.ctx ctx).ten == ten

/-- R392: the root of trust signs a context's attestation record together with a nonce, and the requester finds the signature. -/
def State.attestTo (s : State) (ten ctx : Nat) (nonce : List Byte) : State :=
  { s with mailbox := s.mailbox ++ [(ten, Config.identitySign (leBytes (s.ctx ctx).attest.toNat 32 ++ nonce))] }

/-- The slot by which host threads go among the agents of the host die. -/
def hostSlot : Nat := 1

/-- R386: every byte of an access lies in device-shared ranges. -/
def State.hostShared (s : State) (ctx va n : Nat) : Bool :=
  decide (0 < n) && (s.partsAt hostCore ctx va n).all (fun p => (s.rangeOf p.1).any (·.hostsh) && (s.rangeOf (p.1 + p.2 - 1)).any (·.hostsh))

/-- R162, R209, R386: a host thread's access to a device-shared range of a context, translated by the device walker: it goes to the frame's home
as the host die's; a fence waits for the stores that host threads have made (it acts at `.sys`). One that fails its checks is refused. -/
def State.hostThread (s : State) (ten ctx : Nat) (a : HostAccess) : State :=
  match a with
  | .fence => s.later ((s.flight.filter (fun f => f.core == hostCore && f.slot == hostSlot)).foldl (fun m f => max m f.tv) 0)
  | .load va n =>
    match s.probe hostCore ctx va.toNat n .load false false with
    | some e => (s.hostFail ctx e).refuse ten
    | none =>
      if !s.hostShared ctx va.toNat n then s.refuse ten
      else
        let s1 := (s.partsAt hostCore ctx va.toNat n).foldl (fun s p => s.engineFetch hostCore ctx p.1 p.2) (s.touchAll hostCore ctx va.toNat n false)
        match (s1.loadVa hostCore hostSlot ctx va.toNat n).2.2 with
        | [] => s1
        | p :: ps => s1.consume ctx (p :: ps)
  | .store va bs =>
    match s.probe hostCore ctx va.toNat bs.length .store false false with
    | some e => (s.hostFail ctx e).refuse ten
    | none =>
      if !s.hostShared ctx va.toNat bs.length then s.refuse ten
      else (pageParts va.toNat bs.length).foldl (fun s p =>
        let s := s.touch hostCore ctx p.1 true
        (s.store ⟨hostCore, hostSlot, 0⟩ ctx (s.keyAt hostCore ctx p.1 true) 0 ((bs.drop (p.1 - va.toNat)).take p.2)).1) s

/-- R387: service firmware acts on a request that the requester's tenancy is entitled to make, and refuses another. -/
def State.request (s : State) (ten : Nat) (r : Request) : State :=
  match r with
  | .writeRange idx w0 w1 w2 w3 => s.writeRange ten idx w0 w1 w2 w3
  | .loadPattern src slot =>
    ({ s with plsrc := src } : State).loadPattern (BitVec.ofNat 32 (2 ^ 31 + ten % 64 * 2 ^ 16 + slot % 16))
  | .resetContext ctx => if s.owns ten ctx then s.resetContext ctx else s.refuse ten
  | .ackInterrupt vec => s.ackInt ten vec
  | .submitNode ctx addr => if s.owns ten ctx then s.hostSubmit ctx addr.toNat else s.refuse ten
  | .nodeDone nid =>
    match Table.find s.nodes nid with
    | some n => if s.owns ten n.ctx && n.exec == 1 && n.st == .placed then s.hostDone nid else s.refuse ten
    | none => s.refuse ten
  | .createGroup ctx group ranks rank ue =>
    if s.owns ten ctx && !s.collRefused ctx group ranks rank ue then s.makeColl ctx group ranks rank ue else s.refuse ten
  | .attest ctx nonce => if s.owns ten ctx then s.attestTo ten ctx nonce else s.refuse ten
  | .hostAccess ctx a => if s.owns ten ctx then s.hostThread ten ctx a else s.refuse ten

def execMailboxRequest (ten : Nat) (r : Request) (s : State) : Host.Outcome State Fault Refusal := .next (s.request ten r)

-- Containers.

/-- R391: a segment of a container. -/
structure Segment where
  kind : Nat
  va   : Nat
  /-- Its contents, the offsets of its relocations, the bytes that MEAS covers, MEAS as it stands, and SIG. -/
  body : List Byte
  rel  : List Nat
  span : List Byte
  meas : BitVec 256
  sig  : List Byte
deriving DecidableEq, Repr

/-- The bytes `lo` to `lo` + `n` - 1 of a file. -/
def cut (f : List Byte) (lo n : Nat) : List Byte := (f.drop lo).take n

/-- Eight-byte numbers of a byte string. -/
def dwords (bs : List Byte) : Nat → List Nat
  | 0 => []
  | n + 1 => leField bs 0 8 :: dwords (bs.drop 8) n

/-- R391: the segment whose descriptor starts at `at_`. -/
def segmentAt (f : List Byte) (at_ : Nat) : Segment :=
  let d := cut f at_ 2560
  let body := cut f (leField d 24 8) (leField d 16 8)
  let rel := cut f (leField d 36 4) (8 * leField d 32 4)
  ⟨leField d 0 1, leField d 8 8, body, dwords rel (leField d 32 4), d.take 64 ++ body ++ rel, BitVec.ofNat 256 (leField d 64 32),
    cut d 96 2420⟩

/-- R391: a descriptor breaks the layout, or names bytes past the end of the file. -/
def descriptorBad (f : List Byte) (at_ : Nat) : Bool :=
  let d := cut f at_ 2560
  let n := f.length
  decide (2 < leField d 0 1) || leField d 1 7 != 0 || leField d 8 8 % 4096 != 0 || leField d 40 24 != 0 || leField d 2516 44 != 0
    || decide (n < leField d 24 8 + leField d 16 8) || decide (n < leField d 36 4 + 8 * leField d 32 4)

/-- R391: where the descriptors of a container start. -/
def descriptorsOf (f : List Byte) : List Nat := (List.range (leField f 8 2)).map (fun k => leField f 32 8 + 2560 * k)

/-- R391: two segments meet. -/
def Segment.meets (a b : Segment) : Bool :=
  decide (a.va < b.va + b.body.length) && decide (b.va < a.va + a.body.length)

/-- Some two elements of a list are related. -/
def anyPair {α : Type} (p : α → α → Bool) : List α → Bool
  | [] => false
  | a :: t => t.any (p a) || anyPair p t

/-- R391: a container whose header or descriptors are refused. -/
def containerBad (f : List Byte) : Bool :=
  let ds := descriptorsOf f
  decide (f.length < 64) || f.take 4 != [0x53, 0x57, 0x46, 0x43] || leField f 4 1 != 1 || leField f 5 3 != 0 || leField f 8 2 == 0
    || decide (64 < leField f 8 2) || decide (3 < leField f 10 1) || leField f 11 5 != 0 || leField f 16 8 % 8 != 0
    || leField f 24 4 != 1312 || leField f 28 4 != 0 || leField f 32 8 % 64 != 0 || leField f 40 24 != 0
    || decide (f.length < leField f 16 8 + 1312) || ds.any (fun d => decide (f.length < d + 2560) || descriptorBad f d)
    || anyPair Segment.meets (ds.map (segmentAt f))

/-- R392, step 3: the key hashes to a fuse slot that is not revoked. -/
def State.keyGood (s : State) (f : List Byte) : Bool :=
  let slot := leField f 10 1
  Config.sha3_256 (cut f (leField f 16 8) 1312) == Config.fuseKeyHash slot && !s.revoked.contains slot

/-- R392, steps 2 and 3: a segment measures as stored, and its signature verifies. -/
def segmentGood (f : List Byte) (x : Segment) : Bool :=
  Config.sha3_256 x.span == x.meas && Config.mldsa44Verify (cut f (leField f 16 8) 1312) x.meas x.sig

/-- The pages of a segment. -/
def Segment.pages (x : Segment) : List Nat := (List.range ((x.body.length + 4095) / 4096)).map (fun i => x.va + 4096 * i)

/-- The level-0 entry that service firmware has prepared for a page: its key and its value. -/
def State.pageEntry (s : State) (ctx va : Nat) : Option (Nat × Dword) :=
  match s.leafSlotOf ctx va with
  | none => none
  | some k =>
    let e := BitVec.ofNat 64 (s.mem.readNat k 8)
    if Pte.v e && Pte.leaf e && decide (Pte.tier e ≤ 1) then some (k, e) else none

/-- R392, step 1: the loader can place a segment, and every relocation lies in it. -/
def State.placesSegment (s : State) (ctx : Nat) (x : Segment) : Bool :=
  x.pages.all (fun va => (s.pageEntry ctx va).isSome) && x.rel.all (fun o => decide (o + 8 ≤ x.body.length))

/-- R392, step 5: a base added to the 8 bytes at an offset. -/
def relocate (base : Nat) (bs : List Byte) (off : Nat) : List Byte :=
  bs.take off ++ leBytes ((leField bs off 8 + base) % 2 ^ 64) 8 ++ bs.drop (off + 8)

/-- R391, R392: the base of a segment's relocations; open for a data segment of a container without code. -/
def relocBase (xs : List Segment) (open_ : Nat) (x : Segment) : Nat :=
  if x.kind = 0 then x.va else match xs.find? (fun y => y.kind == 0) with | some y => y.va | none => open_

/-- R392, step 6: the permissions that KIND names. -/
def permsOf (kind : Nat) : Nat := match kind with | 0 => 4 + 16 | 1 => 4 | _ => 4 + 8

/-- R43: an entry of a context's tables changes: no core keeps a translation of the page, and no instruction cache its words. -/
def State.setPage (s : State) (ctx va key : Nat) (e : Dword) : State :=
  { s.dropCode (keyOf (Pte.tier e) (Pte.pa e)) 4096 with
    mem := s.mem.writeNat key 8 e.toNat,
    tlb := s.tlb.filter (fun t => !(t.ctx == ctx && decide (t.base < va + 4096) && decide (va < t.base + t.size))) }

/-- R43, R392: one page of a segment is filled and its permissions set. -/
def State.fillPage (s : State) (ctx kind : Nat) (body : List Byte) (va0 va : Nat) : State :=
  match s.pageEntry ctx va with
  | none => s
  | some (k, e) =>
    let at_ := keyOf (Pte.tier e) (Pte.pa e)
    let part := cut body (va - va0) 4096
    let s1 := s.wipe at_ part.length
    (({ s1 with mem := s1.mem.writes at_ part } : State)).setPage ctx va k
      ((e &&& ~~~(BitVec.ofNat 64 (4 + 8 + 16))) ||| BitVec.ofNat 64 (permsOf kind))

/-- R392: a segment is unmapped. -/
def State.unmapSegment (s : State) (ctx : Nat) (x : Segment) : State :=
  x.pages.foldl (fun s va => match s.pageEntry ctx va with
    | some (k, e) => s.setPage ctx va k (e &&& ~~~(1#64))
    | none => s) s

/-- R392, steps 1, 4, 5 and 6 of one segment. -/
def State.loadSegment (s : State) (ctx base : Nat) (x : Segment) : State :=
  let body := x.rel.foldl (relocate base) x.body
  let s1 := x.pages.foldl (fun s va => s.fillPage ctx x.kind body x.va va) s
  s1.updCtx ctx (fun c => { c with attest := Config.sha3_256 (leBytes c.attest.toNat 32 ++ leBytes x.meas.toNat 32) })

/-- R391: the segments of a container whose descriptors stand in the file. -/
def segmentsOf (f : List Byte) : List Segment := ((descriptorsOf f).filter (fun d => decide (d + 2560 ≤ f.length))).map (segmentAt f)

/-- R391, R392: the loader engine loads a container into a context, or refuses it and leaves every segment unmapped. -/
def State.load (s : State) (ctx : Nat) (f : List Byte) : State :=
  let ten := (s.ctx ctx).ten
  let xs := segmentsOf f
  if (s.ctx ctx).mode == .free then s.refuse ten
  else
    if !containerBad f && s.keyGood f && xs.all (fun x => segmentGood f x && s.placesSegment ctx x) then
      let s1 := if xs.any (fun x => x.kind == 0) || xs.all (fun x => x.rel.isEmpty) then s else s.useFree
      xs.foldl (fun t x => t.loadSegment ctx (relocBase xs s.freeVal x) x) s1
    else (xs.foldl (fun s x => s.unmapSegment ctx x) s).refuse ten

def execLoadContainer (ctx : Nat) (file : List Byte) (s : State) : Host.Outcome State Fault Refusal := .next (s.load ctx file)

-- Firmware.

/-- R391, R393: a firmware image is a container that verifies. -/
def State.imageGood (s : State) (image : List Byte) : Bool := !containerBad image && s.keyGood image && (segmentsOf image).all (segmentGood image)

/-- R393: the oldest calls of a queue are in service. -/
def inService (n : Nat) (q : List SvcReq) : List SvcReq := (q.take n).map (fun r => { r with old := true }) ++ q.drop n

/-- R393: how many calls in service the old version is still to serve. -/
def State.serving (s : State) : Nat := s.ctxs.foldl (fun n e => n + (e.2.svcq.filter (·.old)).length) 0

/-- R393: an image is verified and written into the standby bank, and a switch to it is requested; it is refused while another waits. -/
def State.requestSwitch (s : State) (image : List Byte) (serving : List Nat) : State :=
  if s.fw.pending || !s.imageGood image then s.refuse 64
  else
    { s with
      fw := if s.fw.bank then { s.fw with pending := true, image0 := image } else { s.fw with pending := true, image1 := image },
      ctxs := Table.mapV s.ctxs (fun c x => { x with svcq := inService (serving.count c) x.svcq }) }

def execFirmwareSwitch (r : SwitchRequest) (s : State) : Host.Outcome State Fault Refusal := .next (s.requestSwitch r.image r.serving)

/-- R393: the banks switch once no call is in service. -/
def execBankSwitch (s : State) : Host.Outcome State Fault Refusal :=
  .next (if s.fw.pending && s.serving == 0 then { s with fw := { s.fw with bank := !s.fw.bank, pending := false } } else s)

end Sys2Proof.Machine
end

