-- ==== Sys2Proof/Machine/Dispatch.lean ====
section
/-! DEFINITION. Machine/Dispatch.lean: one arm for each constructor of Instr, each a call of its meaning. -/

namespace Sys2Proof.Machine

/-- What an instruction or an event does to the device. -/
def exec (i : Instr) (s : State) : Host.Outcome State Fault Refusal :=
  match i with
  | .iadd f => Sys2Proof.Machine.execIadd f s
  | .isub f => Sys2Proof.Machine.execIsub f s
  | .imul f => Sys2Proof.Machine.execImul f s
  | .imulh f => Sys2Proof.Machine.execImulh f s
  | .imad f => Sys2Proof.Machine.execImad f s
  | .imin f => Sys2Proof.Machine.execImin f s
  | .imax f => Sys2Proof.Machine.execImax f s
  | .iabs f => Sys2Proof.Machine.execIabs f s
  | .ineg f => Sys2Proof.Machine.execIneg f s
  | .and f => Sys2Proof.Machine.execAnd f s
  | .or f => Sys2Proof.Machine.execOr f s
  | .xor f => Sys2Proof.Machine.execXor f s
  | .not f => Sys2Proof.Machine.execNot f s
  | .shl f => Sys2Proof.Machine.execShl f s
  | .shr f => Sys2Proof.Machine.execShr f s
  | .sar f => Sys2Proof.Machine.execSar f s
  | .rotl f => Sys2Proof.Machine.execRotl f s
  | .popc f => Sys2Proof.Machine.execPopc f s
  | .clz f => Sys2Proof.Machine.execClz f s
  | .brev f => Sys2Proof.Machine.execBrev f s
  | .sel f => Sys2Proof.Machine.execSel f s
  | .clmul f => Sys2Proof.Machine.execClmul f s
  | .clmulh f => Sys2Proof.Machine.execClmulh f s
  | .bfx f => Sys2Proof.Machine.execBfx f s
  | .bfi f => Sys2Proof.Machine.execBfi f s
  | .shuf f => Sys2Proof.Machine.execShuf f s
  | .bcast f => Sys2Proof.Machine.execBcast f s
  | .ireduce f => Sys2Proof.Machine.execIreduce f s
  | .dot4 f => Sys2Proof.Machine.execDot4 f s
  | .fadd f => Sys2Proof.Machine.execFadd f s
  | .fsub f => Sys2Proof.Machine.execFsub f s
  | .fmul f => Sys2Proof.Machine.execFmul f s
  | .ffma f => Sys2Proof.Machine.execFfma f s
  | .fmin f => Sys2Proof.Machine.execFmin f s
  | .fmax f => Sys2Proof.Machine.execFmax f s
  | .fabs f => Sys2Proof.Machine.execFabs f s
  | .fneg f => Sys2Proof.Machine.execFneg f s
  | .frcp f => Sys2Proof.Machine.execFrcp f s
  | .frsq f => Sys2Proof.Machine.execFrsq f s
  | .fsqrt f => Sys2Proof.Machine.execFsqrt f s
  | .fdiv f => Sys2Proof.Machine.execFdiv f s
  | .fexp2 f => Sys2Proof.Machine.execFexp2 f s
  | .flog2 f => Sys2Proof.Machine.execFlog2 f s
  | .fsinpi f => Sys2Proof.Machine.execFsinpi f s
  | .fcospi f => Sys2Proof.Machine.execFcospi f s
  | .fclass f => Sys2Proof.Machine.execFclass f s
  | .frnd f => Sys2Proof.Machine.execFrnd f s
  | .fscale f => Sys2Proof.Machine.execFscale f s
  | .fdot2 f => Sys2Proof.Machine.execFdot2 f s
  | .freduce f => Sys2Proof.Machine.execFreduce f s
  | .cvt f => Sys2Proof.Machine.execCvt f s
  | .cvts f => Sys2Proof.Machine.execCvts f s
  | .scalesel f => Sys2Proof.Machine.execScalesel f s
  | .tag f => Sys2Proof.Machine.execTag f s
  | .tagr f => Sys2Proof.Machine.execTagr f s
  | .pack f => Sys2Proof.Machine.execPack f s
  | .unpack f => Sys2Proof.Machine.execUnpack f s
  | .bpsplit f => Sys2Proof.Machine.execBpsplit f s
  | .bpjoin f => Sys2Proof.Machine.execBpjoin f s
  | .movi f => Sys2Proof.Machine.execMovi f s
  | .moviW f ext => Sys2Proof.Machine.execMoviW f ext s
  | .iaddi f => Sys2Proof.Machine.execIaddi f s
  | .andi f => Sys2Proof.Machine.execAndi f s
  | .ori f => Sys2Proof.Machine.execOri f s
  | .xori f => Sys2Proof.Machine.execXori f s
  | .shli f => Sys2Proof.Machine.execShli f s
  | .shri f => Sys2Proof.Machine.execShri f s
  | .sari f => Sys2Proof.Machine.execSari f s
  | .imuli f => Sys2Proof.Machine.execImuli f s
  | .lea f => Sys2Proof.Machine.execLea f s
  | .ld f => Sys2Proof.Machine.execLd f s
  | .lda f => Sys2Proof.Machine.execLda f s
  | .ldt f => Sys2Proof.Machine.execLdt f s
  | .ldu f => Sys2Proof.Machine.execLdu f s
  | .pref f => Sys2Proof.Machine.execPref f s
  | .st f => Sys2Proof.Machine.execSt f s
  | .stl f => Sys2Proof.Machine.execStl f s
  | .stt f => Sys2Proof.Machine.execStt f s
  | .atom f => Sys2Proof.Machine.execAtom f s
  | .atomf f => Sys2Proof.Machine.execAtomf f s
  | .cas f => Sys2Proof.Machine.execCas f s
  | .flush f => Sys2Proof.Machine.execFlush f s
  | .inv f => Sys2Proof.Machine.execInv f s
  | .zero f => Sys2Proof.Machine.execZero f s
  | .talloc f => Sys2Proof.Machine.execTalloc f s
  | .tfree f => Sys2Proof.Machine.execTfree f s
  | .tdesc f => Sys2Proof.Machine.execTdesc f s
  | .tload f => Sys2Proof.Machine.execTload f s
  | .tstore f => Sys2Proof.Machine.execTstore f s
  | .tfromh f => Sys2Proof.Machine.execTfromh f s
  | .ttoh f => Sys2Proof.Machine.execTtoh f s
  | .tzero f => Sys2Proof.Machine.execTzero f s
  | .mma f => Sys2Proof.Machine.execMma f s
  | .accz f => Sys2Proof.Machine.execAccz f s
  | .drain f => Sys2Proof.Machine.execDrain f s
  | .accget f => Sys2Proof.Machine.execAccget f s
  | .accput f => Sys2Proof.Machine.execAccput f s
  | .ttrans f => Sys2Proof.Machine.execTtrans f s
  | .gset f => Sys2Proof.Machine.execGset f s
  | .gget f => Sys2Proof.Machine.execGget f s
  | .matrixEngineIssue core => Sys2Proof.Machine.execMatrixEngineIssue core s
  | .br f => Sys2Proof.Machine.execBr f s
  | .brm f e0 e1 => Sys2Proof.Machine.execBrm f e0 e1 s
  | .jtab f => Sys2Proof.Machine.execJtab f s
  | .jind f => Sys2Proof.Machine.execJind f s
  | .call f => Sys2Proof.Machine.execCall f s
  | .ret f => Sys2Proof.Machine.execRet f s
  | .exit f => Sys2Proof.Machine.execExit f s
  | .bar f => Sys2Proof.Machine.execBar f s
  | .barc f => Sys2Proof.Machine.execBarc f s
  | .yield f => Sys2Proof.Machine.execYield f s
  | .rejoin f => Sys2Proof.Machine.execRejoin f s
  | .kill f => Sys2Proof.Machine.execKill f s
  | .tfence f => Sys2Proof.Machine.execTfence f s
  | .trap f => Sys2Proof.Machine.execTrap f s
  | .nop f => Sys2Proof.Machine.execNop f s
  | .fragq f => Sys2Proof.Machine.execFragq f s
  | .icmp f => Sys2Proof.Machine.execIcmp f s
  | .fcmp f => Sys2Proof.Machine.execFcmp f s
  | .pand f => Sys2Proof.Machine.execPand f s
  | .por f => Sys2Proof.Machine.execPor f s
  | .pxor f => Sys2Proof.Machine.execPxor f s
  | .pnot f => Sys2Proof.Machine.execPnot f s
  | .pmov f => Sys2Proof.Machine.execPmov f s
  | .pany f => Sys2Proof.Machine.execPany f s
  | .pset f => Sys2Proof.Machine.execPset f s
  | .cput f => Sys2Proof.Machine.execCput f s
  | .ctail f => Sys2Proof.Machine.execCtail f s
  | .ctailOpen f => Sys2Proof.Machine.execCtailOpen f s
  | .semadd f => Sys2Proof.Machine.execSemadd f s
  | .semwait f => Sys2Proof.Machine.execSemwait f s
  | .semread f => Sys2Proof.Machine.execSemread f s
  | .publish f => Sys2Proof.Machine.execPublish f s
  | .enq f => Sys2Proof.Machine.execEnq f s
  | .svc f => Sys2Proof.Machine.execSvc f s
  | .mwait f => Sys2Proof.Machine.execMwait f s
  | .collabort f => Sys2Proof.Machine.execCollabort f s
  | .fence f => Sys2Proof.Machine.execFence f s
  | .csrr f => Sys2Proof.Machine.execCsrr f s
  | .csrw f => Sys2Proof.Machine.execCsrw f s
  | .csrs f => Sys2Proof.Machine.execCsrs f s
  | .csrc f => Sys2Proof.Machine.execCsrc f s
  | .clock f => Sys2Proof.Machine.execClock f s
  | .errq f => Sys2Proof.Machine.execErrq f s
  | .mov f => Sys2Proof.Machine.execMov f s
  | .rget f => Sys2Proof.Machine.execRget f s
  | .rput f => Sys2Proof.Machine.execRput f s
  | .sbind f => Sys2Proof.Machine.execSbind f s
  | .sstat f => Sys2Proof.Machine.execSstat f s
  | .nopEntry c => Sys2Proof.Machine.execNopEntry c s
  | .copyEntry c => Sys2Proof.Machine.execCopyEntry c s
  | .copy3d c => Sys2Proof.Machine.execCopy3d c s
  | .copyh c => Sys2Proof.Machine.execCopyh c s
  | .signal c => Sys2Proof.Machine.execSignal c s
  | .waitsem c => Sys2Proof.Machine.execWaitsem c s
  | .link c => Sys2Proof.Machine.execLink c s
  | .pressAppend c => Sys2Proof.Machine.execPressAppend c s
  | .pressSync c => Sys2Proof.Machine.execPressSync c s
  | .pressTrim c => Sys2Proof.Machine.execPressTrim c s
  | .collAllreduce c => Sys2Proof.Machine.execCollAllreduce c s
  | .collAllgather c => Sys2Proof.Machine.execCollAllgather c s
  | .collRedscat c => Sys2Proof.Machine.execCollRedscat c s
  | .collAlltoall c => Sys2Proof.Machine.execCollAlltoall c s
  | .collBcast c => Sys2Proof.Machine.execCollBcast c s
  | .svcreq c reply => Sys2Proof.Machine.execSvcreq c reply s
  | .entryComplete c => Sys2Proof.Machine.execEntryComplete c s
  | .semaphoreWake core sem => Sys2Proof.Machine.execSemaphoreWake core sem s
  | .mwaitWake core frag => Sys2Proof.Machine.execMwaitWake core frag s
  | .mwaitTimeout core frag => Sys2Proof.Machine.execMwaitTimeout core frag s
  | .releasePerform core slot => Sys2Proof.Machine.execReleasePerform core slot s
  | .loadReturn core slot => Sys2Proof.Machine.execLoadReturn core slot s
  | .tableWalkComplete core ctx va => Sys2Proof.Machine.execTableWalkComplete core ctx va s
  | .leaseExpiry core frame => Sys2Proof.Machine.execLeaseExpiry core frame s
  | .fragExhaustedRetry core slot => Sys2Proof.Machine.execFragExhaustedRetry core slot s
  | .retry core fid => Sys2Proof.Machine.execRetry core fid s
  | .resumePast core fid => Sys2Proof.Machine.execResumePast core fid s
  | .redirect core fid target => Sys2Proof.Machine.execRedirect core fid target s
  | .serviceKill core fid => Sys2Proof.Machine.execServiceKill core fid s
  | .terminate ctx => Sys2Proof.Machine.execTerminate ctx s
  | .llServiceTimeout core fid => Sys2Proof.Machine.execLlServiceTimeout core fid s
  | .llDesched tid => Sys2Proof.Machine.execLlDesched tid s
  | .invalidationComplete ctx va len => Sys2Proof.Machine.execInvalidationComplete ctx va len s
  | .mappingChange ctx va len writes => Sys2Proof.Machine.execMappingChange ctx va len writes s
  | .mapEntryWrite loader key value => Sys2Proof.Machine.execMapEntryWrite loader key value s
  | .flashBlockArrival block => Sys2Proof.Machine.execFlashBlockArrival block s
  | .recordPost stream => Sys2Proof.Machine.execRecordPost stream s
  | .streamBind stream ctx va pa len => Sys2Proof.Machine.execStreamBind stream ctx va pa len s
  | .streamUnbind stream => Sys2Proof.Machine.execStreamUnbind stream s
  | .nodeDispatch nid origin => Sys2Proof.Machine.execNodeDispatch nid origin s
  | .nodeComplete nid => Sys2Proof.Machine.execNodeComplete nid s
  | .hostSubmission ctx addr => Sys2Proof.Machine.execHostSubmission ctx addr s
  | .hostNodeDone nid => Sys2Proof.Machine.execHostNodeDone nid s
  | .preempt nid tids => Sys2Proof.Machine.execPreempt nid tids s
  | .teamSave tid => Sys2Proof.Machine.execTeamSave tid s
  | .restore tid core => Sys2Proof.Machine.execRestore tid core s
  | .svcReply ctx reply => Sys2Proof.Machine.execSvcReply ctx reply s
  | .homeRd r => Sys2Proof.Machine.execHomeRd r s
  | .homeRdx r => Sys2Proof.Machine.execHomeRdx r s
  | .homeUpg r => Sys2Proof.Machine.execHomeUpg r s
  | .homeWr r => Sys2Proof.Machine.execHomeWr r s
  | .homeAt r => Sys2Proof.Machine.execHomeAt r s
  | .homeEvc r => Sys2Proof.Machine.execHomeEvc r s
  | .homeWb r => Sys2Proof.Machine.execHomeWb r s
  | .homeAck r => Sys2Proof.Machine.execHomeAck r s
  | .homeData r => Sys2Proof.Machine.execHomeData r s
  | .homeFl r => Sys2Proof.Machine.execHomeFl r s
  | .homeIv r => Sys2Proof.Machine.execHomeIv r s
  | .homeZr r => Sys2Proof.Machine.execHomeZr r s
  | .pushApply die key word => Sys2Proof.Machine.execPushApply die key word s
  | .rangeEntryWrite ten idx w0 w1 w2 w3 => Sys2Proof.Machine.execRangeEntryWrite ten idx w0 w1 w2 w3 s
  | .patternLoad cmd => Sys2Proof.Machine.execPatternLoad cmd s
  | .registerWrite r value => Sys2Proof.Machine.execRegisterWrite r value s
  | .featureAcceptWrite value => Sys2Proof.Machine.execFeatureAcceptWrite value s
  | .mailboxRequest ten r => Sys2Proof.Machine.execMailboxRequest ten r s
  | .interruptAck ten vec => Sys2Proof.Machine.execInterruptAck ten vec s
  | .loadContainer ctx file => Sys2Proof.Machine.execLoadContainer ctx file s
  | .flitReceive port header rest => Sys2Proof.Machine.execFlitReceive port header rest s
  | .replayRequest port named => Sys2Proof.Machine.execReplayRequest port named s
  | .laneRepair port lane => Sys2Proof.Machine.execLaneRepair port lane s
  | .retrainComplete port => Sys2Proof.Machine.execRetrainComplete port s
  | .fabricWriteAck c => Sys2Proof.Machine.execFabricWriteAck c s
  | .abortToken ctx group => Sys2Proof.Machine.execAbortToken ctx group s
  | .collectivePacket ctx group attempt rank data => Sys2Proof.Machine.execCollectivePacket ctx group attempt rank data s
  | .alertBackOff stack bank => Sys2Proof.Machine.execAlertBackOff stack bank s
  | .hbmRefresh stack bank => Sys2Proof.Machine.execHbmRefresh stack bank s
  | .activate stack bank => Sys2Proof.Machine.execActivate stack bank s
  | .cxlPortDown port => Sys2Proof.Machine.execCxlPortDown port s
  | .trierScanStart core => Sys2Proof.Machine.execTrierScanStart core s
  | .trierScanComplete core failing => Sys2Proof.Machine.execTrierScanComplete core failing s
  | .trierScanAbort core => Sys2Proof.Machine.execTrierScanAbort core s
  | .coreRemap core site => Sys2Proof.Machine.execCoreRemap core site s
  | .dieLost die => Sys2Proof.Machine.execDieLost die s
  | .contextReset ctx => Sys2Proof.Machine.execContextReset ctx s
  | .tenancyReset ten => Sys2Proof.Machine.execTenancyReset ten s
  | .dieReset die => Sys2Proof.Machine.execDieReset die s
  | .deviceReset => Sys2Proof.Machine.execDeviceReset s
  | .powerLoss => Sys2Proof.Machine.execPowerLoss s
  | .powerReturn => Sys2Proof.Machine.execPowerReturn s
  | .firmwareSwitch r => Sys2Proof.Machine.execFirmwareSwitch r s
  | .bankSwitch => Sys2Proof.Machine.execBankSwitch s
  | .spuriousWake core frag => Sys2Proof.Machine.execSpuriousWake core frag s
  | .blockEraseOrRelocationStart block => Sys2Proof.Machine.execBlockEraseOrRelocationStart block s
  | .blockEraseOrRelocationEnd block => Sys2Proof.Machine.execBlockEraseOrRelocationEnd block s
  | .flushOrInvComplete core slot => Sys2Proof.Machine.execFlushOrInvComplete core slot s
  | .powerControllerSetsLimit stack value => Sys2Proof.Machine.execPowerControllerSetsLimit stack value s

end Sys2Proof.Machine
end

