-- ==== Sys2Proof/Machine/Turns.lean ====
section
/-! DEFINITION. Machine/Turns.lean: what happens at one step: whose turn it is, how a group fetches and decodes its next instruction (R19,
R20, R43 to R46, R65, R403), the passing of device time, and how a program is put where a step fetches. -/

namespace Sys2Proof.Machine

/-- What a turn comes to before any instruction's meaning is called: it is over, or an instruction or event is to be performed. -/
inductive Turned where
  | done (s : State)
  | run (i : Instr) (s : State)
deriving DecidableEq, Repr

/-- The guard that is true in every lane (R39). -/
def Guard.always : Guard := ⟨false, 15⟩

/-- R43: every active lane of the fragment fails the fetch of an iword. -/
def State.fetchFails (s : State) (w : Who) (e : LaneFail) : State :=
  s.perform w Guard.always 0 { fails := (Mask.lanes w.f.mask).map (fun l => (l, e)) }

/-- R20, R45: the fragment has fetched the header of the block at which it stands: it enters, or parks. -/
def State.enterBlock (s : State) (w : Who) : State :=
  let s1 := s.fetchIword w.core w.ctx w.f.blk
  let h := s1.fetchWord w.core w.ctx w.f.blk
  if Hdr.valid h then
    let s2 := (s1.putFrag w.core w.fi { w.f with entered := true, hdr := h }).merge w.core w.slot w.fi
    if (s2.frag? w.core w.fi).isSome then s2 else s2.select w.core w.slot
  else s1.parkWhole w Cause.badHeader false

/-- R43, R45, R374: the fragment fetches the header of the block at which it stands, and enters it. -/
def State.enter (s : State) (w : Who) : State :=
  match s.fetchFail w.core w.ctx w.f.blk with
  | some e => s.fetchFails w e
  | none => s.agree w true w.f.blk (fun s => s.enterBlock w)

/-- How many iwords an instruction that opens with a word takes (R56, R59, R63). -/
def wordsFor (w : Iword) : Nat :=
  if clsOf w = 3 ∧ opOf w = 0 ∧ w.getLsbD 4 then 2 else if clsOf w = 7 ∧ opOf w = 1 then 3 else 1

/-- R65: the cause of a word that is no instruction. -/
def rejectCause : Reject → Nat
  | .illegalClass => Cause.illegalClass
  | .badHeader => Cause.badHeader
  | .illegalOpcode => Cause.illegalOpcode
  | .illegalField => Cause.illegalField

/-- R65, R229, R232: the same for a fragment: BAR and BARC in a mend block, and REJOIN outside one, are unassigned opcodes, which come before
their fields. -/
def Who.rejectCause (w : Who) (i : Iword) (r : Reject) : Nat :=
  if r = .illegalField && clsOf i == 7 && (if w.f.mend then opOf i == 7 || opOf i == 8 else opOf i == 10) then Cause.illegalOpcode
  else Sys2Proof.Machine.rejectCause r

/-- The addresses of the iwords that the fragment's next instruction takes within its block. -/
def State.iwordsAt (s : State) (w : Who) : List Nat :=
  let n := wordsFor (s.fetchWord w.core w.ctx w.f.iaddr)
  (List.range (min n (Hdr.length w.f.hdr - w.f.idx))).map (fun k => w.f.iaddr + 8 * k)

/-- R65: the defect of an instruction that its first word shows, where `n` of its words stand in the block. Extension words of zeros are
legal. -/
def firstDefect (i : Iword) (n : Nat) : Option Reject :=
  match decode (i :: List.replicate (n - 1) 0) with
  | .ok _ => none
  | .error r => some r

/-- R65: the fragment checks of an instruction with extension words that need the group and none of those words: the destination of MOVI.W
(R49, R89). They too come before the fetch of an extension word, which is a lane check. -/
def Who.firstCheck (w : Who) (i : Iword) (n : Nat) : Option Nat :=
  match decode (i :: List.replicate (n - 1) 0) with
  | .ok (.moviW f x) =>
    let op := moviWOp f x
    match w.vecCheck (w.act f.g) op.etag op.accept op.uses op.d op.resTag op.known with
    | .error c => some c
    | .ok _ => none
  | _ => none

/-- R43, R64, R65, R374: the fragment fetches and decodes its next instruction. What its first word and the group show comes before a
failing fetch of an extension word. -/
def State.fetchTurn (s : State) (w : Who) : Turned :=
  match s.fetchFail w.core w.ctx w.f.iaddr with
  | some e => .done (s.fetchFails w e)
  | none =>
    let i0 := s.fetchWord w.core w.ctx w.f.iaddr
    let stop : Nat → State → Turned := fun c s => .done (s.agree w true 0 (fun s => s.parkWhole (w.counting (wordsFor i0)) c false))
    let n := (s.iwordsAt w).length
    match ((firstDefect i0 n).map (w.rejectCause i0)).or (w.firstCheck i0 n) with
    | some c => stop c (s.fetchIword w.core w.ctx w.f.iaddr)
    | none =>
      match (s.iwordsAt w).findSome? (s.fetchFail w.core w.ctx) with
      | some e => .done (s.fetchFails w e)
      | none =>
        let s1 := (s.iwordsAt w).foldl (fun s va => s.fetchIword w.core w.ctx va) s
        match decode ((s.iwordsAt w).map (s.fetchWord w.core w.ctx)) with
        | .error r => stop (w.rejectCause i0 r) s1
        | .ok i => if s1.disagrees w true then .done (s1.agree w true w.f.iaddr id) else .run i (s1.compared w true)

/-- R173, R205: an instruction that may issue while some loads are outstanding: a load or a store (LD, LDT, LDU, ST, STT), MWAIT or
vector arithmetic (classes 0x0, 0x1, 0x3 and MOV) whose operand fields name no port and no register near those that the loads write. -/
def overtakes (loads : List PendingLoad) (i : Iword) : Bool :=
  let kinds : List (Nat × List Nat) := [(4, [0, 2, 3]), (5, [0, 2]), (9, [8]), (11, [0])]
  let kind := decide (clsOf i ≤ 1) || (clsOf i == 3 && wordsFor i == 1) || kinds.any (fun k => k.1 == clsOf i && k.2.contains (opOf i))
  let near : Nat → Bool := fun d => loads.any (fun p =>
    match operandOf p.data with
    | .v r => decide (d < r + 8) && decide (r < d + 8)
    | _ => true)
  kind && loads.all (fun p => p.acq.isNone) && [7, 17, 27, 37].all (fun o =>
    match operandOf (i.extractLsb' o 10) with
    | .v d => !near d
    | .port _ => false
    | _ => loads.all (fun p => !Fld.isPort p.data))

/-- R242, R403: a group may issue in this dcy: fewer than four groups of its core have, and none in its slot or a later one. -/
def State.mayIssue (s : State) (core slot : Nat) : Bool :=
  let l := Table.getD s.issued [] core
  decide (l.length < 4) && l.all (fun k => decide (k < slot))

/-- R242, R403: a group issues. -/
def State.issues (s : State) (core slot : Nat) : State :=
  { s with lastSlot := Table.put s.lastSlot core slot, issued := Table.put s.issued core (slot :: Table.getD s.issued [] core) }

/-- A ready running fragment moves: it performs the acquire that it owes (R230, R295), enters its block (R45), or fetches. -/
def State.fragTurn (s : State) (w : Who) : Turned :=
  let s1 : State := { s.issues w.core w.slot with cur := some ⟨w.core, w.slot, w.fi⟩ }
  match w.f.acq with
  | some sc => .done ((s1.putFrag w.core w.fi { w.f with acq := none }).acquire w.core sc)
  | none => if w.f.entered then s1.fetchTurn w else .done (s1.enter w)

/-- R311, R313: the group in a slot of a core reads uncorrectable data of its core's SRAM, and its context is lost. -/
def State.sramTurn (s : State) (core slot ctx : Nat) : State :=
  ({ s with sram := s.sram.filter (· != slotKey core slot) } : State).loseContext ctx Cause.sramUncorr []

/-- The running fragment of a group, where it is eligible. -/
def State.runner (s : State) (core slot : Nat) : Option Who :=
  match s.group? core slot with
  | none => none
  | some g =>
    match Table.find s.teams g.tid, g.run with
    | some t, some fi =>
      match s.frag? core fi with
      | some f => if f.eligible g then some ⟨core, slot, fi, g, f, t⟩ else none
      | none => none
    | _, _ => none

/-- R173, R205: the running fragment's next instruction may issue before the group's loads return: nothing else is under way. -/
def State.mayOvertake (s : State) (w : Who) : Bool :=
  !(s.updGroup w.core w.slot (fun g => { g with loads := [] })).pending w.core w.slot && w.g.held.isNone && w.f.acq.isNone && w.f.entered
    && (s.fetchFail w.core w.ctx w.f.iaddr).isNone && overtakes w.g.loads (s.fetchWord w.core w.ctx w.f.iaddr)

/-- R403: the group in a slot of a core has its turn: what its next instruction depends on ends first, then the instruction that it holds at
issue performs, then its running fragment moves, or reads uncorrectable data (R311). No group issues without power, of a context that is
not live, or of a team that has been asked to stop (R289, R312, R351, R375). A core has 16 slots, and a device 720 cores (R3); of one dcy's
instructions a core's lower slots come first (R242). -/
def State.issueTurn (s : State) (core slot : Nat) : Turned :=
  match s.group? core slot with
  | none => .done s
  | some g =>
    if 720 ≤ core ∨ 16 ≤ slot then .done s else
    match Table.find s.teams g.tid with
    | none => .done s
    | some t =>
      if !s.powered || (s.ctx t.ctx).mode != .live || t.stopping then .done s
      else if s.pending core slot && !(s.runner core slot).any s.mayOvertake then .done (s.finish core slot)
      else if !s.mayIssue core slot then .done s
      else if g.held.isSome then .done ((s.issues core slot).release core slot)
      else
        match s.runner core slot with
        | none => .done s
        | some w =>
          if s.sram.contains (slotKey core slot) then .done (s.sramTurn core slot t.ctx) else s.fragTurn w

/-- One turn. Without power nothing happens but its return (R351). An instruction that words encode is no event. -/
def State.take (s : State) : Turn → Turned
  | .issue core slot => s.issueTurn core slot
  | .event i => if i.isEvent && (s.powered || i == .powerReturn) then .run i s else .done s

/-- The turn that comes next: the first of the script; where it is empty, an open choice (log entry 1). -/
def State.nextTurn (s : State) : Turned :=
  match s.script with
  | t :: ts => ({ s with script := ts } : State).take t
  | [] => s.useFree.take (Config.turn s.free)

-- What device time brings.

/-- R350: whether a bound stream keeps a flash block in its home: its control page, and the blocks of its posted records, trimmed ones
included, that the log still holds. -/
def Stream.keeps (x : Stream) (block : Nat) : Bool :=
  x.ctx.isSome && (flashKey x.pa / 4096 == block || x.recs.any (fun r => decide (r.seq ≤ x.dseq)
    && decide (flashKey (x.pa + 4096 + r.off) / 4096 ≤ block)
    && decide (block * 4096 < flashKey (x.pa + 4096 + r.off) + r.bytes.length)))

/-- R336, R350: the resident blocks without one of them, unless a bound stream keeps it. -/
def State.withoutBlock (s : State) (k : Nat) : List Nat :=
  if (s.resident[k]?.map (fun b => s.streams.any (fun e => e.2.keeps b))).getD true then s.resident else s.resident.eraseIdx k

/-- R170, R171, R352, R364: a cache gives up a bolt: a home slice writes it back; a proxy sends a clean-eviction notice or writes its owned
words back; a core's spatial predictor learns from what its L1 gives up. -/
def State.giveUp (s : State) (b : Bolt) : State :=
  let s1 :=
    if 2048 ≤ b.cache then s.writeBack b
    else if 1024 ≤ b.cache then
      s.homeEvent (if b.owned then EV.wb else EV.evc) ⟨b.frame, b.cache - 1024, byteMask (b.frame * 256 + 16 * b.lo) (16 * (b.hi - b.lo))⟩
    else s.learn b.cache
  { s1 with bolts := s1.bolts.filter (· != b) }

/-- R3: how many granules a cache holds at most: an L1 128 KiB, a home slice 1 MiB (log entry 56). -/
def capacity (cache : Nat) : Option Nat := if cache < 720 then some 8192 else if 2048 ≤ cache then some 65536 else none

/-- The bolts beyond the capacity of their caches, which the newest fill first; `used` are the granules taken so far. -/
def overfull (used : Table Nat) : List Bolt → List Bolt
  | [] => []
  | b :: t =>
    let n := Table.getD used 0 b.cache + (b.hi - b.lo)
    if (capacity b.cache).any (fun c => decide (c < n)) then b :: overfull used t else overfull (Table.put used b.cache n) t

/-- R3, R174: caches that are overfull make room. -/
def State.makeRoom (s : State) : State := (overfull [] s.bolts).foldl State.giveUp s

/-- R331, R335, R338: blocks that cannot be read from now on, one of the second tier or those of 4 KiB of flash; what a home slice or a resident
block holds of them stands until it is read from its tier again. -/
def State.failBlocks (s : State) (blocks : List Nat) : State := { s with badBlocks := blocks.foldl insertNat s.badBlocks }

/-- What may happen to storage and links at any time, by an open choice: a cell fails (R311, R329, R335, R338; log entry 55), so that a symbol of an
HBM row is wrong, a block of another tier cannot be read, or SRAM data that a group is about to read is uncorrectable; or a cache makes room
(R163, R174, R336; log entry 56) and a flash block, a bolt or a translation is no longer held; or a Seam port sends a flit (R380). -/
def State.wear (s : State) : State :=
  let x := s.freeVal / 8
  let key := x % 2 ^ 54
  let is : Nat → Bool := fun k => s.freeVal % 8 == k
  let row := hbmRowOf (x / 528 % 0x7C00000000)
  let given := (s.bolts.zipIdx.filter (fun e => is 5 && e.2 == x % (s.bolts.length + 1))).foldl (fun s e => s.giveUp e.1) s.useFree
  let s1 := given.failBlocks (if is 2 && tierOf key == 1 then [key / 64]
    else if is 2 && tierOf key == 2 then (List.range 64).map (· + key / 4096 * 64) else [])
  { s1 with
    badSyms := if is 1 then Table.put s1.badSyms row (insertNat (Table.getD s1.badSyms [] row) (x % 528)) else s1.badSyms
    sram := if is 3 then insertNat s1.sram (x % 11520) else s1.sram
    resident := if is 4 then s1.withoutBlock (x % (s1.resident.length + 1)) else s1.resident
    tlb := if is 6 then s1.tlb.eraseIdx (x % (s1.tlb.length + 1)) else s1.tlb
    ports := if is 7 then Table.put s1.ports (x % 8) (s1.port (x % 8)).send else s1.ports }

/-- A semaphore has a waiter that its counter satisfies (R281). -/
def State.owes (s : State) (key : Nat) : Bool := s.semq.any (fun q => q.key == key && decide (q.thr ≤ Table.getD s.sems 0 key))

/-- R281, R401: waiters that a semaphore satisfies are served within 4 dcy. -/
def State.watchSems (s : State) : State :=
  { s with wakeBy := ((s.semq.map (·.key)).eraseDups.filter s.owes).foldl (fun t k =>
      Table.put t k ((Table.find s.wakeBy k).getD (s.time + 4))) [] }

/-- The flash blocks that the Affineur must let be read at a moment (R337, R401): those for which remnants have been parked with
LL_FLASH_STALL, or with LL_FLASH_WAIT for a block that is busy, for 65,000 dcy. -/
def State.stalledBlocks (s : State) (now : Nat) : List Nat :=
  (s.frags ++ s.saved.flatMap (fun e => e.2.frags)).flatMap (fun e =>
    if e.2.st == .parked && (e.2.cause == Cause.flashStall || e.2.cause == Cause.flashWait) && decide (e.2.since + 65000 < now) then
      e.2.blocks.flatten.filter s.busy.contains
    else [])

/-- R401: what is to happen before a moment by the bounds that bind: wakes (R217, R281), the suspension of an erase (R337), the end of a
retraining (R381), the abort of a scan and its end (R376). -/
def State.fallDue (s : State) (now : Nat) : State :=
  let s1 := s.watchSems.watchScans
  let s2 := (s1.wakeBy.filter (fun e => decide (e.2 < now))).foldl (fun s e => s.serveSem e.1) s1
  let s3 := s2.frags.foldl (fun s e =>
    match e.2.st with
    | .asleep (.mwait _ (some d) _) => if d ≤ now then s.wake (e.1 / 64) (e.1 % 64) none else s
    | _ => s) s2
  let s4 := (s3.stalledBlocks now).foldl State.blockReadable s3
  let s5 := s4.ports.foldl (fun s e => if e.2.training && decide (e.2.since + 26000 < now) then s.retrained e.1 else s) s4
  let s6 := s5.trier.foldl (fun s e => if e.2.abortBy.any (fun t => decide (t < now)) then s.scanAbort e.1 else s) s5
  s6.trier.foldl (fun s e => if e.2.running.any (fun t => decide (t + 260000 < now)) then s.scanEnds e.1 else s) s6

/-- Two outstanding loads have no byte in common that both are still to read. -/
def PendingLoad.apart (p q : PendingLoad) : Bool :=
  p.parts.all (fun a => q.parts.all (fun b => a.miss.all (fun m => b.miss.all (fun n => m.2 != n.2))))

/-- R173, R196, R199: an outstanding load may be read before older ones of its group with which it has no byte in common: an open choice
(log entry 19). It returns in its place. -/
def State.readEarly (s : State) : State :=
  let loading := s.groups.filter (fun e => !e.2.loads.isEmpty)
  if loading.isEmpty then s.useFree
  else
    match loading[s.freeVal % (loading.length + 1)]? with
    | none => s.useFree
    | some e =>
      let j := s.freeVal / (loading.length + 1) % e.2.loads.length
      match e.2.loads[j]? with
      | none => s.useFree
      | some p =>
        if !(e.2.loads.take j).all p.apart then s.useFree
        else
          match s.useFree.fetchLoad (e.1 / 16) (e.1 % 16) p with
          | some r => r.1.updGroup (e.1 / 16) (e.1 % 16) (fun g => { g with loads := g.loads.set j r.2 })
          | none => s.useFree

/-- Device time passes (R2), by an open amount, none where the next turn is of the same dcy (log entry 2): what falls due happens, loads may be
read (R199), stores in flight become performed for every agent (R204), the intervals of R310 begin or break, and storage may change of itself. -/
def State.tick (s : State) : State :=
  let now := s.time + s.freeVal
  let s1 := s.useFree.readEarly.fallDue now
  let s2 : State := { s1 with time := max s1.time now, issued := if s.time < max s1.time now then [] else s1.issued }
  (((s2.expire).watchTeams).wear).makeRoom

-- Placing a program.

/-- The address, in context 0 and in HBM, of the block that `withFetchWord` places. -/
def placeAt : Nat := 0x10000

/-- A valid header of a block of three iwords (R44). -/
def placeHeader : Iword := 0xF100C00000000000

/-- A group as `withFetchWord` places it: its home fragment, of 32 lanes, stands at index 0 of the block that it has entered. -/
def placeFragment : Fragment :=
  ⟨0, placeAt, 0, true, placeHeader, BitVec.allOnes 32, .ready, false, 0, 0, 0, 0, 0, false, 0, 0, [], 0, 0, none⟩

def placeTeam : Team := ⟨0, 0, 0, none, 0, 0, 0, 1, [0], 0, 0, [], 4, 0, none, false⟩

def placeGroup : Group := { Group.fresh 0 0 960 false with run := some 0 }

/-- The translation that core 0 holds of the block's page: valid, readable, executable, of tenancy 0, accessed (R157). -/
def placeTlb : TlbEntry := ⟨1, 0, 0, placeAt, 4096, 0, BitVec.ofNat 64 (1 + 2 + 4 + 16 + 32 + placeAt + 2 ^ 52)⟩

/-- The words of an instruction stand in the block, and the group of slot 0 of core 0 is about to fetch them (log entry 1). -/
def State.placed (s : State) (w : Nat) : State :=
  { s with
    script := [.issue 0 0]
    mem := s.mem.writes placeAt (leBytes (placeHeader.toNat + 2 ^ 64 * (w % 2 ^ 192)) 32)
    tlb := placeTlb :: s.tlb
    icache := s.icache.filter (fun e => !(e.1 / 2 ^ 54 == 0))
    issued := []
    invals := []
    groups := Table.put s.groups 0 placeGroup
    frags := Table.put s.frags 0 placeFragment
    mq := Table.del s.mq 0
    teams := Table.put s.teams 0 placeTeam
    ctxs := Table.put s.ctxs 0 { s.ctx 0 with ten := 0, mode := .live }
    powered := true }

end Sys2Proof.Machine
end

