-- ==== Sys2Proof/Machine/Step.lean ====
section
/-! DEFINITION. Machine/Step.lean: one step of the device, and the state in which a given instruction is the next that a step runs. -/

namespace Sys2Proof.Machine

/-- One indivisible step (spec/95): a turn is taken; where it comes to an instruction or an event, that is performed; device time passes. -/
def step (s : State) : Host.Outcome State Fault Refusal :=
  match s.nextTurn with
  | .done t => .next t.tick
  | .run i t =>
    match exec i t with
    | .next u => .next u.tick
    | .fault f => .fault f
    | .refused r => .refused r

/-- The state with the low `nbits` bits of `w` where the next step fetches. -/
def State.withFetchWord (s : State) (nbits w : Nat) : State := s.placed (w % 2 ^ nbits)

end Sys2Proof.Machine
end

