-- ==== Sys2Proof/Safety.lean ====
section
/-! DEFINITION. Safety.lean: the terms in which statements about the machine are made: what it is for an instruction to issue with nothing in
its way, what it changes and what it leaves, and the forms that memories and tables keep. -/

namespace Sys2Proof.Machine

/-- Both memories are in canonical form, so that equal memories are equal data. -/
def State.Canonical (s : State) : Prop := s.mem.wf = true ∧ s.scratch.wf = true

/-- A fragment issues: `State.cur` names it, it is one of the group that issues (R16), it has entered its block (R45), and lanes remain in it. -/
structure Issues (s : State) (w : Who) : Prop where
  who     : s.who? = some w
  slot    : w.f.slot = w.slot
  entered : w.f.entered = true
  lanes   : w.f.mask ≠ 0

/-- The running fragment of a group is the next of it to move: the device has power, the context is live and the team has not been asked to stop; the
group has nothing under way and holds no instruction at issue, and neither four groups of its core nor one of a later slot have issued in this
dcy (R242, R403); the fragment is eligible (R18) and owes no acquire, and the group is not about to read uncorrectable SRAM data (R311). -/
structure Moves (s : State) (w : Who) : Prop where
  power  : s.powered = true
  place  : w.core < 720 ∧ w.slot < 16
  turn   : s.mayIssue w.core w.slot = true
  group  : s.group? w.core w.slot = some w.g
  team   : Table.find s.teams w.g.tid = some w.t
  live   : (s.ctx w.ctx).mode = .live
  stays  : w.t.stopping = false
  idle   : s.pending w.core w.slot = false
  free   : w.g.held = none
  run    : w.g.run = some w.fi
  frag   : s.frag? w.core w.fi = some w.f
  ready  : w.f.eligible w.g = true
  owes   : w.f.acq = none
  sound  : s.sram.contains (slotKey w.core w.slot) = false

/-- R28: the instruction's lane checks pass in every lane whose guard is true, and nothing holds it: no release that it makes has to wait
(R205), no FENCE.rel waits to perform before it (R216), the pool supplies the fragments that it makes (R220), and no twin core compares an effect of it (R374). -/
structure Passes (s : State) (w : Who) (gd : Guard) (n : Nat) (p : Plan) : Prop where
  lanes : p.failing (w.act gd) = []
  late  : p.late = none
  free  : p.holds s w (w.act gd) = false
  pool  : p.flow.extra w.f n (w.act gd) (w.f.mask &&& ~~~(w.act gd)) ≤ (s.pool w.core).length
  twin  : w.t.twin = none ∨ p.leaves = false
  fence : w.g.fence = none ∨ (p.stores = false ∧ p.rel = none)

/-- Where the issuing fragment stands once its lanes have gone on past `n` iwords (R46): at the next iword of its block; past the last one at
the header that follows, with whatever fragments of its group it meets there (R20). -/
def Stands (t : State) (w : Who) (n : Nat) : Prop :=
  if Hdr.length w.f.hdr ≤ w.f.idx + n then
    ∃ fi f, t.frag? w.core fi = some f ∧ f.blk = w.f.fallThrough ∧ f.idx = 0 ∧ w.f.mask &&& ~~~f.mask = 0
  else t.frag? w.core w.fi = some { w.f with idx := w.f.idx + n }

/-- In `t` the issuer's group is `g`, but for which of its fragments runs (R19, R22). -/
def GroupIs (t : State) (w : Who) (g : Group) : Prop :=
  ∃ r p, t.group? w.core w.slot = some { g with run := r, passes := p }

/-- The frame of an instruction that goes on to the next iword. From `s` (with what the instruction changed outside its group) to `t`, the
issuer's group becomes `g` and its fragment moves on; every other group, every fragment of another group, and all the rest of the
device is as it was. -/
structure Went (s t : State) (w : Who) (g : Group) (n : Nat) : Prop where
  group  : GroupIs t w g
  rest   : t = { s with groups := t.groups, frags := t.frags, fgens := t.fgens }
  groups : ∀ k, k ≠ slotKey w.core w.slot → Table.find t.groups k = Table.find s.groups k
  frags  : ∀ k, k ≠ fragKey w.core w.fi → (∀ f, Table.find s.frags k = some f → k / 64 = w.core → f.slot ≠ w.slot) →
    Table.find t.frags k = Table.find s.frags k
  stands : Stands t w n

/-- The unit that register `n` holds in a lane: a slot, or a pair's 64 bits (R72, R73). -/
def Group.unit (g : Group) (n : Nat) (wide : Bool) (l : Nat) : Nat :=
  ((g.line n).slot l).toNat + (if wide then 2 ^ 32 * ((g.line (n + 1)).slot l).toNat else 0)

/-- Register `n` (a pair where `wide`) takes the values `v` in the lanes of `ls` and keeps its own in the others; where there is such a lane
its lines take the tag; no other line, and nothing else of the group, changes (R82, R124). -/
structure Wrote (g g' : Group) (n : Nat) (wide : Bool) (tag : Nat) (ls : Mask) (v : Nat → Nat) : Prop where
  value : ∀ l, ls.getLsbD l = true → g'.unit n wide l = v l % (if wide then 2 ^ 64 else 2 ^ 32)
  kept  : ∀ l, l < 32 → ls.getLsbD l = false → g'.unit n wide l = g.unit n wide l
  tagged : ls ≠ 0 → g'.tag n = tag % 32 ∧ (wide = true → g'.tag (n + 1) = tag % 32)
  lines : ∀ m, m ≠ n → (wide = true → m ≠ n + 1) → g'.line m = g.line m
  rest  : g' = { g with win := g'.win }

/-- Lines `n` to `n` + `cnt` - 1 take the slots `v` in the lanes of `ls`, a list for each lane, and keep their own in the others; where there
is such a lane they take the tag; no other line, and nothing else of the group, changes (R82, R111). -/
structure WroteLines (g g' : Group) (n cnt tag : Nat) (ls : Mask) (v : Nat → List Slot) : Prop where
  value : ∀ l j, ls.getLsbD l = true → j < cnt → (g'.line (n + j)).slot l = (v l).getD j 0
  kept  : ∀ m l, l < 32 → ls.getLsbD l = false → (g'.line m).slot l = (g.line m).slot l
  tagged : ls ≠ 0 → ∀ j, j < cnt → g'.tag (n + j) = tag % 32
  lines : ∀ m, m < n ∨ n + cnt ≤ m → g'.line m = g.line m
  rest  : g' = { g with win := g'.win }

/-- The checks of an instruction over lines pass (R83, R111), and all its lines lie within the requested ones (R50). -/
structure LinesReady (w : Who) (o : LinesOp) : Prop where
  legal  : o.bad = false
  even   : ∀ b ∈ o.srcs, w.oddLines b = false
  accepted : o.wrong = false
  tags   : ∀ b ∈ o.srcs, w.checkBlock b = .ok ()
  inside : ∀ b ∈ o.srcs, w.beyondField b.x b.lines = false
  dest   : w.beyond o.d o.lines = false

/-- The rows `ls` of a tile take bytes through the tile's gauge (R254): from group `g` to `g'`, and the core's gauge counts from `s` to `u`; the
tile's lines take its tag where there is such a row (R82); no other byte or tag, and nothing else of the group but its flags, changes. -/
def TileWrote (u s : State) (w : Who) (g g' : Group) (d : TileDesc) (ls : List Nat) (raw : Nat → List Byte) : Prop :=
  let y : Nat → List Byte × Nat × BitVec 9 := fun l => gaugeRow (s.tileGauge w.core d) d.tag (raw l)
  (∀ l ∈ ls, g'.bytes (d.rowAt l) d.rowBytes = (y l).1)
  ∧ (∀ b, (∀ l ∈ ls, b < d.rowAt l ∨ d.rowAt l + d.rowBytes ≤ b) → g'.byte b = g.byte b)
  ∧ (∀ m, g'.tag m = if ls ≠ [] ∧ d.firstLine ≤ m ∧ m < d.firstLine + d.lineCount then d.tag % 32 else g.tag m)
  ∧ g' = { g.orFlags (ls.foldl (fun f l => f ||| (y l).2.2) 0) with win := g'.win }
  ∧ u.gauges = (s.addHits w.core w.slot d.gauge (ls.foldl (fun n l => n + (y l).2.1) 0)).gauges

/-- A vector instruction may issue (R28): its fragment checks pass and give the operation format `fm` (R83, R121 to R123), which its
sources or its expected tag state; its operands lie within the requested lines (R50); no operand is a stream port (R90 has its own statements); its destination is register `n`. -/
structure VecReady (s : State) (w : Who) (gd : Guard) (etag : Nat) (accept : Nat → Bool) (uses : List Use) (d : BitVec 10) (n : Nat)
    (resTag : Nat → Nat) (fm : Fmt) (known : Fmt → Bool := fun f => f.t.isSome) : Prop where
  issues : Issues s w
  checks : w.vecCheck (w.act gd) etag accept uses d resTag known = .ok fm
  given  : fm.t.isSome = true
  inside : w.vecBeyond fm uses d (resTag fm.tag) = false
  regs   : ∀ u ∈ uses, Fld.isPort u.field = false
  dest   : operandOf d = .v n

/-- Element `i` of a source in a lane (R72, R112): the bits that a register or a special register holds there. -/
def Who.elem (s : State) (w : Who) (fm : Fmt) (x : BitVec 10) (l i : Nat) : Nat :=
  bits (w.srcVal s x fm.tag fm.wide [] l) (i * Tg.width fm.tag) (Tg.width fm.tag)

/-- The same element as an integer of the operation format (R130). -/
def Who.elemInt (s : State) (w : Who) (fm : Fmt) (x : BitVec 10) (l i : Nat) : Int :=
  ival fm.tag (Tg.width fm.tag) (w.elem s fm x l i)

/-- One result for each element of a lane. -/
def perElem (fm : Fmt) (k : Nat → Nat × BitVec 9) : List (Nat × BitVec 9) := (List.range (Tg.epl fm.tag)).map k

/-- What a vector instruction of `iw` iwords leaves in `t` where `y l` gives the elements of lane `l`'s result and the flags that each sets: the
gauge checks the elements and counts hits (R127, R128); register `n`, tagged `rt`, takes them in the lanes whose guard is true (R82,
R124); the flags are ORed into `gs.flags` (R108); the lanes go on. -/
def VecResult (s t : State) (w : Who) (gd : Guard) (n iw gauge rt : Nat) (y : Nat → List (Nat × BitVec 9)) : Prop :=
  let gz := if gauge = 0 then none else some (s.gauge w.core gauge)
  let z : Nat → LaneOut × Nat := fun l => gaugeLane gz rt ⟨l, (y l).map Prod.fst, (y l).foldl (fun f r => f ||| r.2) 0⟩
  let ls := Mask.lanes (w.act gd)
  let hits := ls.foldl (fun h l => h + (z l).2) 0
  let flags := ls.foldl (fun f l => f ||| (z l).1.flags) 0
  ∃ g', Went (s.addHits w.core w.slot gauge hits) t w g' iw
    ∧ Wrote (w.g.orFlags flags) g' n (Tg.wide rt) rt (w.act gd) (fun l => unitOf rt (z l).1.elems)

/-- R304: the issuing fragment parks with a cause: it stays at its instruction, of `n` iwords, its group is as it was (another fragment of it may be
selected), and every other group is. -/
structure ParksWith (s t : State) (w : Who) (n c : Nat) : Prop where
  frag   : t.frag? w.core w.fi = some { w.f with
    st := .parked, cause := c, noInstr := !w.f.entered, iwords := n, addr := 0, blocks := [], raised := 0, since := s.time }
  group  : GroupIs t w w.g
  groups : ∀ k, k ≠ slotKey w.core w.slot → Table.find t.groups k = Table.find s.groups k
  window : t.tlb = s.tlb ∧ t.scratch = s.scratch ∧ t.gauges = s.gauges ∧ t.sems = s.sems ∧ t.handles = s.handles ∧ t.teams = s.teams

/-- The frame of an instruction whose lanes go to several places (R220): the issuer's group becomes `g`; every other group, every fragment
of another group, and all the rest of the device is as in `s`. -/
structure Moved (s t : State) (w : Who) (g : Group) : Prop where
  group  : GroupIs t w g
  rest   : t = { s with groups := t.groups, frags := t.frags, fgens := t.fgens }
  groups : ∀ k, k ≠ slotKey w.core w.slot → Table.find t.groups k = Table.find s.groups k
  frags  : ∀ k f, k ≠ fragKey w.core w.fi → Table.find s.frags k = some f → (k / 64 = w.core → f.slot ≠ w.slot) →
    Table.find t.frags k = some f

/-- A lane of the issuer's group stands at index `idx` of block `blk`. -/
def LaneAt (t : State) (w : Who) (l blk idx : Nat) : Prop :=
  ∃ fi f, t.frag? w.core fi = some f ∧ f.mask.getLsbD l = true ∧ f.blk = blk ∧ f.idx = idx

/-- The lanes of the issuing fragment whose guard is false. -/
def Who.others (w : Who) (gd : Guard) : Mask := w.f.mask &&& ~~~(w.act gd)

/-- The issuing fragment as a parked remnant of the lanes of `m` with a cause, at an instruction of one iword (R29, R304). -/
def Who.remnant (w : Who) (now : Nat) (m : Mask) (c : Nat) (raised : BitVec 9) : Fragment :=
  { w.f with mask := m, st := .parked, cause := c, noInstr := !w.f.entered, iwords := 1, addr := 0, blocks := [], raised := raised, since := now }

/-- Every page of `n` bytes at a virtual address is held by the issuer's core with every bit that a store needs, so that the access sets none
(R160). -/
def PagesReady (s : State) (w : Who) (va n : Nat) : Prop :=
  ∀ p ∈ pageParts va n, s.tlbReady w.core w.ctx p.1 true = true

/-- Key `j` of memory is byte `i` of the `n` bytes at a virtual address. -/
def ByteAt (s : State) (w : Who) (va n i j : Nat) : Prop :=
  ∃ p ∈ pageParts va n, ∃ k, k < p.2 ∧ i = p.1 - va + k ∧ j = s.keyAt w.core w.ctx p.1 true + k

/-- What the stores of an instruction leave in memory: `bs l` are the bytes of lane `l` at `va l`. Lanes store in ascending order (R168): a
byte is that of the highest lane which stores it, and every other byte of memory reads as before. -/
def StoredBy (s t : State) (w : Who) (ls : Mask) (va : Nat → Nat) (bs : Nat → List Byte) : Prop :=
  (∀ j, (∀ l, ls.getLsbD l = true → ∀ i, ¬ ByteAt s w (va l) (bs l).length i j) → t.mem.read j = s.mem.read j)
  ∧ ∀ l i j, ls.getLsbD l = true → ByteAt s w (va l) (bs l).length i j →
      (∀ k, k / 256 = j / 256 → s.dropsStore k = false) →
      (∀ l' i', ls.getLsbD l' = true → ByteAt s w (va l') (bs l').length i' j → l' < l ∨ l' = l ∧ i' = i) → t.mem.read j = (bs l).getD i 0

/-- What a fragment can undergo while homes act and others store: only the moments that wake it from MWAIT (R217). -/
def SameButFire (f f' : Fragment) : Prop :=
  f' = f ∨ ∃ fr dl fire dl' tv, f.st = .asleep (.mwait fr dl fire) ∧ f' = { f with st := .asleep (.mwait fr dl' (some tv)) }

/-- Two tables hold the same fragments, but for the moments that wake them from MWAIT. -/
def SameFrags (t u : Table Fragment) : Prop :=
  ∀ k, (Table.find t k = none ∧ Table.find u k = none) ∨ ∃ f f', Table.find t k = some f ∧ Table.find u k = some f' ∧ SameButFire f f'

/-- From `s` to `t` homes act: caches, directories, pushes and write-once marks change, errors of the storage show, the stores in flight come to
be seen, and monitors fire. -/
structure HomeOnly (s t : State) : Prop where
  rest  : t = { s with bolts := t.bolts, dirs := t.dirs, pushes := t.pushes, marks := t.marks, poison := t.poison, badBlocks := t.badBlocks,
                       badSyms := t.badSyms, hbmStacks := t.hbmStacks, flight := t.flight, frags := t.frags }
  frags : SameFrags s.frags t.frags

/-- The outstanding loads of a group, but for what has been read of them (R173). -/
def Group.outstanding (g : Group) : List PendingLoad := g.loads.map (fun p => { p with parts := [] })

/-- Every page of a load's bytes is held by the issuer's core, so that the access changes no table entry (R160). -/
def ReadReady (s : State) (w : Who) (va n : Nat) : Prop := ∀ p ∈ pageParts va n, s.tlbReady w.core w.ctx p.1 false = true

/-- From `s` to `u` some accesses of a group have been translated and their bytes fetched (R160, R171, R173): homes act, device time may pass, and
what earlier loads of the group have yet to read may be read. -/
def Fetched (s u : State) (w : Who) : Prop :=
  HomeOnly { s with tlb := u.tlb, mem := u.mem, time := u.time, free := u.free, groups := u.groups } u ∧ s.time ≤ u.time
  ∧ ∀ k, k ≠ slotKey w.core w.slot → Table.find u.groups k = Table.find s.groups k

/-- R173, R360: a part of a load that has gone out: each byte of its access is as the core's L1 gives it, where it holds the byte in a frame that is
not among those `asked` about at the home, or is still to be read at the home. -/
def HeldOrMissing (s : State) (w : Who) (asked : List Nat) (x : LanePart) (n : Nat) : Prop :=
  ∀ p ∈ pageParts x.va n, ∀ i, i < p.2 →
    let b := p.1 - x.va + i
    let k := s.keyAt w.core w.ctx p.1 false + i
    if (s.boltOf w.core k).isSome && !asked.contains (k / 256) then bits x.value.toNat (8 * b) 8 = (s.loadByte w.core w.slot k).val.toNat else (b, k) ∈ x.miss

/-- R83, R89, R90, R365: nothing is in the way of a memory instruction's data slot: where it names a port, the port is bound for `n` bytes, its
bindings have not ended, its accesses pass, and neither a home nor a FENCE.rel holds them. -/
structure DataReady (s : State) (w : Who) (act : Mask) (x : BitVec 10) (write : Bool) (n : Nat) : Prop where
  fields : w.dataPortBad act x write n = false
  lanes  : s.portFails w act x write = []
  asks   : s.asksStall (s.portAsks w act [] x write) = false
  fence  : Fld.isPort x = true → w.g.fence = none

/-- R83, R184, R185: the fragment checks of a load with a base pair pass, and so do those of its data slot. -/
structure LoadReady (s : State) (w : Who) (f : FmtM) : Prop where
  issues : Issues s w
  twin   : w.t.twin = none
  some   : w.act f.g ≠ 0
  size   : f.size.toNat ≤ 4
  base   : w.checkSrc (w.act f.g) f.base 2 Tg.dword = .ok ()
  data   : DataReady s w (w.act f.g) f.data true f.bytes
  tag    : w.dataPortTag (w.act f.g) f.data (placeTag f.size.toNat (f.mod.getLsbD 3)) = .ok ()
  inside : f.beyond w (sizeLines f.size.toNat) = false

/-- The engine of a chain may take the entry at the chain's next position, and no home holds its read (R365): it reads as the 64 bytes `b`, which
leaves `u` (R269, R271, R347). -/
structure EntryRead (s u : State) (c : ChainRef) (b : List Byte) : Prop where
  takes : s.mayTake (s.chain c) = true
  good  : chainGood c = true
  probe : s.probe (engineOf c) (s.chain c).ctx ((s.chain c).slot (s.chain c).nxt) 64 .load false false = none
  free  : s.asksStall (s.engineWaits (engineOf c) (s.chain c).ctx false
    (s.partsAt (engineOf c) (s.chain c).ctx ((s.chain c).slot (s.chain c).nxt) 64)) = false
  entry : ∃ tv, s.engineRead c (s.chain c).ctx ((s.chain c).slot (s.chain c).nxt) 64 = (u, b, tv, [])

/-- That entry is a well-formed one of type `ty`, which its engine accepts; one that fences waits for none before it (R272 to R275); its stamp is
the context's (R274, R346). -/
structure EntryAt (s u : State) (c : ChainRef) (ty : Nat) (b : List Byte) : Prop where
  read   : EntryRead s u c b
  header : hdrGood c (leField b 0 8) = true
  type   : bits (leField b 0 8) 0 8 = ty
  known  : accepts c ty = true
  alone  : fnOf (leField b 0 8) = true → (s.chain c).started = []
  fresh  : (s.chain c).genOf (s.chain c).nxt = (s.ctx (s.chain c).ctx).gen

/-- The entry has started, in the state `v` that its movement left: the position is taken, and the entry waits for `a` and for its writes' Tv
(R273); `handle` names the tile-table entry of a COPYH (R277), and `seq` the chain's last append (R344). Nothing else changes from `v` to `t`. -/
def StartedAs (s v t : State) (c : ChainRef) (b : List Byte) (tv : Nat) (a : Await) (body : List Byte)
    (handle : Option (Nat × Nat × Nat × Nat) := none) (seq : Nat := (s.chain c).seq) : Prop :=
  let x := s.chain c
  t.chain c = { x with
    seq := seq, nxt := x.nxt + 1, started := x.started ++ [⟨x.nxt, BitVec.ofNat 64 (leField b 0 8), tv, x.genOf x.nxt, a, body, handle⟩] }
  ∧ (∀ k, k ≠ chainKey c → Table.find t.chains k = Table.find v.chains k) ∧ t = { v with chains := t.chains }

/-- The chain stops at its next position, at once where every earlier entry has completed and in `u` its stop word need not wait (R347, R365); else
it will when both is so (R273; that it waits so is log entry 32). No entry from there on is started. -/
def ChainStops (s u t : State) (c : ChainRef) (z : Stop) : Prop :=
  let x := s.chain c
  let before := x.started.filter (fun e => decide (e.pos < x.nxt))
  t.chain c = if before = [] ∧ u.cwWaits c x = false then { x with stopped := true, started := [] }
    else { x with started := before ++ [⟨x.nxt, 0, 0, 0, .fail z, [], none⟩] }

/-- The walk for the completion word of a chain meets no poisoned table entry, which would lose the context (R311). -/
def WordSound (s : State) (c : ChainRef) : Prop :=
  ∀ e, s.probe (engineOf c) (s.chain c).ctx (s.chain c).cwaddr 8 .store true false = some e → lossCause e.cause = false

/-- What an entry awaits once its bytes are written: the acknowledgements of those that went to fabric pages (R394). -/
def Move.await (m : Move) : Await := if m.fabric.isEmpty then .ready else .fabric m.fabric

/-- The predicate registers of `g'` are those of `g` but for predicate `p`, which is `v` in the lanes of `ls` (R234). -/
def PredIs (g g' : Group) (p : Nat) (ls v : Mask) : Prop :=
  g'.pred p = (g.pred p &&& ~~~ls) ||| (v &&& ls)

/-- The lanes of a mask in which a condition holds. -/
def IsWhere (m ls : Mask) (c : Nat → Bool) : Prop := ∀ l, l < 32 → m.getLsbD l = (ls.getLsbD l && c l)

/-- R33, R305: a parked remnant whose instruction is tried again. -/
def Fragment.readied (f : Fragment) : Fragment := { f with st := .ready, cause := 0, noInstr := false, iwords := 0, addr := 0, blocks := [], raised := 0 }

/-- A fragment stands at an instruction of its block, or at a header that it has not entered. -/
def Fragment.inBlock (f : Fragment) : Prop := f.entered = true → f.idx < Hdr.length f.hdr

/-- R387: a request of `who` is refused: an error word stands for it in the mailbox, and nothing else changes. The word's value is free. -/
def RefusedTo (s t : State) (who : Nat) : Prop := ∃ e, t = { s with mailbox := s.mailbox ++ [(who, e)], free := s.free + 1 }

/-- Two spans of bytes share none. -/
def Apart (a n b m : Nat) : Prop := a + n ≤ b ∨ b + m ≤ a

/-- The keys of the pointers by which the level-0 entry of an address is found, from a level down (R156). -/
def pointerKeys (s : State) (va : Nat) : Nat → Nat → List Nat
  | 0, _ => []
  | l + 1, table =>
    let k := table + 8 * bits va (12 + 9 * (l + 1)) 9
    let e := BitVec.ofNat 64 (s.mem.readNat k 8)
    k :: pointerKeys s va l (keyOf (Pte.tier e) (Pte.pa e))

/-- The pages of a container's segments with the entries that service firmware has prepared for them: address, key and value (R392). -/
def State.preparedPages (s : State) (c : Nat) (xs : List Segment) : List (Nat × Nat × Dword) :=
  xs.flatMap (fun x => x.pages.filterMap (fun va => (s.pageEntry c va).map (fun e => (va, e.1, e.2))))

/-- Different pages have entries of their own, and no entry of a page is a pointer by which another's is found. -/
def State.EntriesApart (s : State) (c : Nat) (ps : List (Nat × Nat × Dword)) : Prop :=
  ∀ a ∈ ps, ∀ b ∈ ps, (a.1 ≠ b.1 → Apart a.2.1 8 b.2.1 8) ∧ ∀ p ∈ pointerKeys s a.1 4 (s.ctx c).root, Apart p 8 b.2.1 8

/-- The physical page that an entry maps. -/
def frameOf (e : Dword) : Nat := keyOf (Pte.tier e) (Pte.pa e)

/-- Different pages lie in different physical pages, and none holds an entry of one, nor a pointer to it. -/
def State.FramesApart (s : State) (c : Nat) (ps : List (Nat × Nat × Dword)) : Prop :=
  ∀ a ∈ ps, ∀ b ∈ ps, (a.1 ≠ b.1 → Apart (frameOf a.2.2) 4096 (frameOf b.2.2) 4096) ∧ Apart (frameOf a.2.2) 4096 b.2.1 8
    ∧ ∀ p ∈ pointerKeys s a.1 4 (s.ctx c).root, Apart p 8 (frameOf b.2.2) 4096

/-- No byte of memory but the `n` from key `k` on changes. -/
def OnlyBytes (s t : State) (k n : Nat) : Prop := ∀ j, j < k ∨ k + n ≤ j → t.mem.read j = s.mem.read j

/-- Lanes `m` of a group have left it: no fragment of it holds one of them (R23, R24). -/
def LanesGone (t : State) (core slot : Nat) (m : Mask) : Prop :=
  ∀ fi f, fi < 64 → t.frag? core fi = some f → f.slot = slot → f.mask &&& m = 0

end Sys2Proof.Machine
end

