-- ==== Sys2Proof/Certificates/Slice0/Obligations.lean ====
section
/-! DEFINITION. Certificates/Slice0/Obligations.lean: the statements about the machine, one for each entry of OBLIGATIONS.json. -/

open Sys2Proof Sys2Proof.Machine

-- Vector instructions on registers (R121 to R154). Each says that the instruction completes, what its destination holds, and, by `VecResult`,
-- that nothing else changes.

/-- R130: the integer arithmetic instructions. -/
def Obligations.IntegerArithmetic : Prop :=
  ∀ (f : FmtV) (s : State) (w : Who) (fm : Fmt) (n : Nat),
    let a := w.elemInt s fm f.a
    let b := w.elemInt s fm f.b
    let c := w.elemInt s fm f.c
    (VecReady s w f.g f.etag.toNat Tg.int [.fmt f.a, .fmt f.b] f.d n id fm →
      (∀ r ∈ ([(.iadd f, fun x y => x + y), (.isub f, fun x y => x - y), (.imul f, fun x y => x * y), (.imin f, fun x y => min x y),
          (.imax f, fun x y => max x y)] : List (Instr × (Int → Int → Int))),
        ∃ t, exec r.1 s = .next t ∧ VecResult s t w f.g n 1 (ctlGauge f.c) fm.tag
          (fun l => perElem fm (fun i => storeInt fm.tag (ctlSat f.c) (r.2 (a l i) (b l i)))))
      ∧ ∃ t, exec (.imulh f) s = .next t ∧ VecResult s t w f.g n 1 (ctlGauge f.c) fm.tag
          (fun l => perElem fm (fun i => (wrap (Tg.width fm.tag) (a l i * b l i / (2 ^ Tg.width fm.tag : Nat)), 0))))
    ∧ (VecReady s w f.g f.etag.toNat Tg.int [.fmt f.a] f.d n id fm →
      ∀ r ∈ ([(.iabs f, fun x => (x.natAbs : Int)), (.ineg f, fun x => -x)] : List (Instr × (Int → Int))),
        ∃ t, exec r.1 s = .next t ∧ VecResult s t w f.g n 1 (ctlGauge f.c) fm.tag
          (fun l => perElem fm (fun i => storeInt fm.tag (ctlSat f.c) (r.2 (a l i)))))
    ∧ (VecReady s w f.g f.etag.toNat Tg.int [.fmt f.a, .fmt f.b, .fmt f.c] f.d n id fm →
      ∃ t, exec (.imad f) s = .next t ∧ VecResult s t w f.g n 1 0 fm.tag
        (fun l => perElem fm (fun i => (wrap (Tg.width fm.tag) (a l i * b l i + c l i), 0))))

/-- R131 to R133: the instructions on bit patterns, and what the element operations of width `w` are, bit by bit. -/
def Obligations.IntegerBits : Prop :=
  (∀ (f : FmtV) (s : State) (w : Who) (fm : Fmt) (n : Nat),
     let a := w.elem s fm f.a
     let b := w.elem s fm f.b
     let W := Tg.width fm.tag
     (VecReady s w f.g f.etag.toNat Tg.bits [.fmt f.a, .fmt f.b] f.d n id fm →
       ∀ r ∈ ([(.and f, fun x y => x &&& y), (.or f, fun x y => x ||| y), (.xor f, fun x y => x ^^^ y)] : List (Instr × (Nat → Nat → Nat))),
         ∃ t, exec r.1 s = .next t ∧ VecResult s t w f.g n 1 0 fm.tag (fun l => perElem fm (fun i => (r.2 (a l i) (b l i), 0))))
     ∧ (VecReady s w f.g f.etag.toNat Tg.shift [.fmt f.a, .fmt f.b] f.d n id fm →
       ∀ r ∈ ([(.shl f, fun x k => x * 2 ^ (k % W) % 2 ^ W), (.shr f, fun x k => x / 2 ^ (k % W)),
           (.sar f, fun x k => wrap W (signed W x / 2 ^ (k % W))), (.rotl f, rotlBits W),
           (.clmul f, fun x y => clmulBits W x y % 2 ^ W), (.clmulh f, fun x y => clmulBits W x y / 2 ^ W)]
           : List (Instr × (Nat → Nat → Nat))),
         ∃ t, exec r.1 s = .next t ∧ VecResult s t w f.g n 1 0 fm.tag (fun l => perElem fm (fun i => (r.2 (a l i) (b l i), 0))))
     ∧ (VecReady s w f.g f.etag.toNat Tg.bits [.fmt f.a] f.d n id fm →
       ∀ r ∈ ([(.not f, notBits W), (.brev f, brevBits W)] : List (Instr × (Nat → Nat))),
         ∃ t, exec r.1 s = .next t ∧ VecResult s t w f.g n 1 0 fm.tag (fun l => perElem fm (fun i => (r.2 (a l i), 0))))
     ∧ (VecReady s w f.g f.etag.toNat Tg.bits [.fmt f.a] f.d n countTag fm →
       ∀ r ∈ ([(.popc f, popcBits W), (.clz f, clzBits W)] : List (Instr × (Nat → Nat))),
         ∃ t, exec r.1 s = .next t ∧ VecResult s t w f.g n 1 0 (if Tg.int fm.tag then fm.tag else Tg.n32)
           (fun l => perElem fm (fun i => (r.2 (a l i), 0)))))
  ∧ ∀ w a b k : Nat, 0 < w → a < 2 ^ w → b < 2 ^ w →
      (k < w → (notBits w a).testBit k = !a.testBit k)
      ∧ (k < w → (rotlBits w a b).testBit ((k + b) % w) = a.testBit k)
      ∧ (k < w → (brevBits w a).testBit (w - 1 - k) = a.testBit k)
      ∧ popcBits w a = ((List.range w).filter a.testBit).length
      ∧ (∀ j, j < w → w - clzBits w a ≤ j → a.testBit j = false)
      ∧ (a ≠ 0 → a.testBit (w - 1 - clzBits w a) = true)
      ∧ ((clmulBits w a b).testBit k
          = (((List.range (k + 1)).filter (fun j => a.testBit j && b.testBit (k - j))).length % 2 == 1))

/-- R134, R138: fields and the byte dot product; and what the field operations of width `w` are, bit by bit. That `sr.one` as a source of DOT4 is 1
in each byte is the model's choice (log entry 22). -/
def Obligations.IntegerFields : Prop :=
  (∀ (f : FmtV) (s : State) (w : Who) (fm : Fmt) (n : Nat),
    let W := Tg.width fm.tag
    (VecReady s w f.g f.etag.toNat Tg.shift [.fmt f.a, .line f.b Tg.word] f.d n id fm →
      ∃ t, exec (.bfx f) s = .next t ∧ VecResult s t w f.g n 1 0 fm.tag
        (fun l => perElem fm (fun i => (bfxBits fm.tag W (w.elem s fm f.a l i) (w.word s f.b l), 0))))
    ∧ (VecReady s w f.g f.etag.toNat Tg.shift [.fmt f.a, .line f.b Tg.word, .fmt f.c] f.d n id fm →
      ∃ t, exec (.bfi f) s = .next t ∧ VecResult s t w f.g n 1 0 fm.tag
        (fun l => perElem fm (fun i => (bfiBits W (w.elem s fm f.a l i) (w.word s f.b l) (w.elem s fm f.c l i), 0))))
    ∧ (VecReady s w f.g 31 Tg.any (dot4Op f w).uses f.d n (dot4Op f w).resTag fm (dot4Op f w).known →
      let act := w.act f.g
      let byteAt : BitVec 10 → Nat → Nat → Int := fun x l i =>
        ival (w.lineTag act x) 8 (bits (if x = 0x3CB then 0x01010101 else w.word s x l) (8 * i) 8)
      ∃ t, exec (.dot4 f) s = .next t ∧ VecResult s t w f.g n 1 0 (if Fld.isSpecial f.c then Tg.i32 else w.lineTag act f.c)
        (fun l => [(wrap 32 (ival (w.lineTag act f.c) 32 (w.word s f.c l)
          + byteAt f.a l 0 * byteAt f.b l 0 + byteAt f.a l 1 * byteAt f.b l 1
          + byteAt f.a l 2 * byteAt f.b l 2 + byteAt f.a l 3 * byteAt f.b l 3), 0)])))
  ∧ ∀ t w a x c k : Nat, 0 < w → a < 2 ^ w → c < 2 ^ w → k < w →
      let pos := bits x 0 8
      let len := bits x 8 8
      let top := min (pos + len) w
      ((bfxBits t w a x).testBit k = if w ≤ pos ∨ len = 0 then false
        else if pos + k < top then a.testBit (pos + k) else (Tg.signed t && a.testBit (top - 1)))
      ∧ (bfiBits w a x c).testBit k = if len ≠ 0 ∧ pos ≤ k ∧ k < top then a.testBit (k - pos) else c.testBit k

/-- R93, R135 to R137: MOV, selection, and the instructions that read other lanes. -/
def Obligations.CrossLane : Prop :=
  ∀ (f : FmtV) (s : State) (w : Who) (fm : Fmt) (n : Nat),
    let whole : Nat → List (Nat × BitVec 9) := fun x => (elemsOf fm.tag x).map (fun e => (e, 0))
    let val : BitVec 10 → Nat → Nat := fun x l => w.srcVal s x fm.tag fm.wide [] l
    (VecReady s w f.g f.etag.toNat Tg.any [.fmt f.a] f.d n id fm →
      ∃ t, exec (.mov f) s = .next t ∧ VecResult s t w f.g n 1 0 fm.tag (fun l => whole (val f.a l)))
    ∧ (VecReady s w f.g f.etag.toNat Tg.any [.fmt f.a, .fmt f.b] f.d n id fm →
      ∃ t, exec (.sel f) s = .next t ∧ VecResult s t w f.g n 1 0 fm.tag
        (fun l => whole (if (w.g.guard ⟨f.c.getLsbD 4, f.c.extractLsb' 0 4⟩).getLsbD l then val f.a l else val f.b l)))
    ∧ (VecReady s w f.g f.etag.toNat Tg.any [.fmt f.a, .line f.b Tg.word] f.d n id fm →
      ∃ t, exec (.shuf f) s = .next t ∧ VecResult s t w f.g n 1 0 fm.tag (fun l => whole (val f.a (w.word s f.b l % 32))))
    ∧ (VecReady s w f.g f.etag.toNat Tg.any [.fmt f.a] f.d n id fm →
      ∃ t, exec (.bcast f) s = .next t ∧ VecResult s t w f.g n 1 0 fm.tag (fun _ => whole (val f.a (f.c.toNat % 32))))
    ∧ (VecReady s w f.g f.etag.toNat (if f.c.toNat % 8 ≤ 2 then Tg.int else Tg.bits) [.fmt f.a] f.d n id fm →
      ∃ t, exec (.ireduce f) s = .next t ∧ VecResult s t w f.g n 1 0 fm.tag (fun _ => perElem fm (fun i =>
        ireduceBits fm.tag (f.c.toNat % 8) (f.c.getLsbD 6) ((Mask.lanes (w.act f.g)).map (fun l => w.elem s fm f.a l i)))))

/-- R140 to R145, R147: the float instructions that work element by element: sources through `fin`, an exact operation, `fout`. -/
def Obligations.FloatArithmetic : Prop :=
  ∀ (f : FmtV) (s : State) (w : Who) (fm : Fmt) (n : Nat),
    let F := fmtOf fm.tag
    let rm := w.g.rm f.rm.toNat
    let ftz := w.g.ftz
    let src : BitVec 10 → Nat → Nat → FV × BitVec 9 := fun x l i => fin F ftz (w.elem s fm x l i)
    let out : Exact → BitVec 9 → Nat × BitVec 9 := fun x fl => ((fout F rm ftz x).1, (fout F rm ftz x).2 ||| fl)
    (VecReady s w f.g f.etag.toNat Tg.flt [.fmt f.a, .fmt f.b] f.d n id fm →
      ∀ r ∈ ([(.fadd f, fun x y => exactOf (x.add y)), (.fsub f, fun x y => exactOf (x.add y.neg)), (.fmul f, fun x y => exactOf (x.mul y)),
          (.fmin f, fun x y => ⟨FV.pick false x y, false, 0⟩), (.fmax f, fun x y => ⟨FV.pick true x y, false, 0⟩), (.fdiv f, FV.div)]
          : List (Instr × (FV → FV → Exact))),
        ∃ t, exec r.1 s = .next t ∧ VecResult s t w f.g n 1 (ctlGauge f.c) fm.tag (fun l => perElem fm (fun i =>
          out (r.2 (src f.a l i).1 (src f.b l i).1) ((src f.a l i).2 ||| (src f.b l i).2))))
    ∧ (VecReady s w f.g f.etag.toNat Tg.flt [.fmt f.a] f.d n id fm →
      (∀ r ∈ ([(.fabs f, fun x => ⟨x.abs, false, 0⟩), (.fneg f, fun x => ⟨x.neg, false, 0⟩), (.frcp f, fun x => (FV.fin false 1 0).div x),
          (.frsq f, FV.rsqrt), (.fsqrt f, FV.sqrt)] : List (Instr × (FV → Exact))),
        ∃ t, exec r.1 s = .next t ∧ VecResult s t w f.g n 1 (ctlGauge f.c) fm.tag
          (fun l => perElem fm (fun i => out (r.2 (src f.a l i).1) (src f.a l i).2)))
      ∧ ∀ r ∈ ([(.fexp2 f, fexp2 F rm), (.flog2 f, flog2 F rm), (.fsinpi f, ftrig false F rm), (.fcospi f, ftrig true F rm),
          (.frnd f, fun x => F.roundFV rm (x.integral rm))] : List (Instr × (FV → Nat × BitVec 9))),
        ∃ t, exec r.1 s = .next t ∧ VecResult s t w f.g n 1 (ctlGauge f.c) fm.tag (fun l => perElem fm (fun i =>
          let y := flush F ftz (r.2 (src f.a l i).1)
          (y.1, y.2 ||| (src f.a l i).2))))
    ∧ (VecReady s w f.g f.etag.toNat Tg.flt [.fmt f.a, .fmt f.b, .fmt f.c] f.d n id fm →
      ∃ t, exec (.ffma f) s = .next t ∧ VecResult s t w f.g n 1 0 fm.tag (fun l => perElem fm (fun i =>
        out ((src f.a l i).1.fma (src f.b l i).1 (src f.c l i).1) ((src f.a l i).2 ||| (src f.b l i).2 ||| (src f.c l i).2))))

/-- R146, R148 to R150: classification, scaling, the two-element dot product and the reduction over lanes. That `sr.one` as the addend of FDOT2 is
1.0 in F32 is the model's choice (log entry 22). -/
def Obligations.FloatOthers : Prop :=
  ∀ (f : FmtV) (s : State) (w : Who) (fm : Fmt) (n : Nat),
    let F := fmtOf fm.tag
    let rm := w.g.rm f.rm.toNat
    let ftz := w.g.ftz
    let src : BitVec 10 → Nat → Nat → FV × BitVec 9 := fun x l i => fin F ftz (w.elem s fm x l i)
    (VecReady s w f.g f.etag.toNat Tg.flt [.fmt f.a] f.d n classTag fm →
      ∃ t, exec (.fclass f) s = .next t ∧ VecResult s t w f.g n 1 0 (classTag fm.tag)
        (fun l => perElem fm (fun i => (classBits F (w.elem s fm f.a l i), 0))))
    ∧ (VecReady s w f.g f.etag.toNat Tg.flt [.fmt f.a, .line f.b (· == Tg.i32)] f.d n id fm →
      ∃ t, exec (.fscale f) s = .next t ∧ VecResult s t w f.g n 1 (ctlGauge f.c) fm.tag (fun l => perElem fm (fun i =>
        let y := fout F rm ftz ⟨(src f.a l i).1.scale (signed 32 (w.word s f.b l)), false, 0⟩
        (y.1, y.2 ||| (src f.a l i).2))))
    ∧ (VecReady s w f.g f.etag.toNat (fun t => t == Tg.f16 || t == Tg.bf16) [.fmt f.a, .fmt f.b, .line f.c (· == Tg.f32)] f.d n
        (fun _ => Tg.f32) fm (fun _ => true) →
      let c : Nat → FV × BitVec 9 := fun l => fin F32 ftz (if f.c = 0x3CB then 0x3F800000 else w.word s f.c l)
      let p : Nat → Nat → FV × BitVec 9 := fun l i => (src f.a l i).1.mul (src f.b l i).1
      ∃ t, exec (.fdot2 f) s = .next t ∧ VecResult s t w f.g n 1 0 Tg.f32 (fun l =>
        let y := fout F32 rm ftz (FV.sum [(c l).1, (p l 0).1, (p l 1).1])
        [(y.1, y.2 ||| (src f.a l 0).2 ||| (src f.a l 1).2 ||| (src f.b l 0).2 ||| (src f.b l 1).2 ||| (c l).2 ||| (p l 0).2 ||| (p l 1).2)]))
    ∧ (VecReady s w f.g f.etag.toNat Tg.flt [.fmt f.a] f.d n id fm →
      let act := w.act f.g
      ∃ t, exec (.freduce f) s = .next t ∧ VecResult s t w f.g n 1 0 fm.tag (fun _ => perElem fm (fun i =>
        match tree (combine F rm ftz f.c.toNat) (lanes32.map (fun l => if act.getLsbD l then some (src f.a l i) else none)) with
        | none => (0, 0)
        | some r => ((F.roundFV 1 r.1).1, r.2))))

/-- R151 to R154: the immediate instructions. `k` is IMM16 extended by Z. -/
def Obligations.Immediates : Prop :=
  ∀ (f : FmtI) (ext : Iword) (s : State) (w : Who) (fm : Fmt) (n : Nat),
    let k : Nat := if f.z then f.imm.toNat else wrap 64 f.imm.toInt
    let W := Tg.width fm.tag
    let t0 := if f.etag = 31 then Tg.i32 else f.etag.toNat
    let t1 := if f.etag = 31 then Tg.i64 else f.etag.toNat
    let a := w.elem s fm f.a
    (VecReady s w f.g t0 Tg.any [] f.d n id fm →
      ∃ t, exec (.movi f) s = .next t ∧ VecResult s t w f.g n 1 0 t0 (fun _ => perElem fm (fun _ =>
        ((if t0 = Tg.f16 ∨ t0 = Tg.bf16 then f.imm.toNat else if t0 = Tg.f32 then f.imm.toNat * 2 ^ 16
          else if t0 = Tg.f64 then f.imm.toNat * 2 ^ 48 else k) % 2 ^ W, 0))))
    ∧ (VecReady s w f.g t1 Tg.any [] f.d n id fm →
      ∃ t, exec (.moviW f ext) s = .next t ∧ VecResult s t w f.g n 2 0 t1 (fun _ => perElem fm (fun _ => (ext.toNat % 2 ^ W, 0))))
    ∧ (VecReady s w f.g f.etag.toNat Tg.int [.fmt f.a] f.d n id fm →
      ∀ r ∈ ([(.iaddi f, fun x => (x + k) % 2 ^ W), (.imuli f, fun x => x * k % 2 ^ W)] : List (Instr × (Nat → Nat))),
        ∃ t, exec r.1 s = .next t ∧ VecResult s t w f.g n 1 0 fm.tag (fun l => perElem fm (fun i => (r.2 (a l i), 0))))
    ∧ (VecReady s w f.g f.etag.toNat Tg.bits [.fmt f.a] f.d n id fm →
      ∀ r ∈ ([(.andi f, fun x => x &&& (k % 2 ^ W)), (.ori f, fun x => x ||| (k % 2 ^ W)), (.xori f, fun x => x ^^^ (k % 2 ^ W))]
          : List (Instr × (Nat → Nat))),
        ∃ t, exec r.1 s = .next t ∧ VecResult s t w f.g n 1 0 fm.tag (fun l => perElem fm (fun i => (r.2 (a l i), 0))))
    ∧ (VecReady s w f.g f.etag.toNat Tg.shift [.fmt f.a] f.d n id fm →
      let sh := f.imm.toNat % 64 % W
      ∀ r ∈ ([(.shli f, fun x => x * 2 ^ sh % 2 ^ W), (.shri f, fun x => x / 2 ^ sh), (.sari f, fun x => wrap W (signed W x / 2 ^ sh))]
          : List (Instr × (Nat → Nat))),
        ∃ t, exec r.1 s = .next t ∧ VecResult s t w f.g n 1 0 fm.tag (fun l => perElem fm (fun i => (r.2 (a l i), 0))))
    ∧ (VecReady s w f.g Tg.n64 Tg.any [.pair f.a (fun t => Tg.dword t && (f.etag == 31 || t == f.etag.toNat))] f.d n (fun _ => Tg.n64) fm (fun _ => true) →
      ∃ t, exec (.lea f) s = .next t ∧ VecResult s t w f.g n 1 0 Tg.n64 (fun l => [((w.dword s f.a l + k) % 2 ^ 64, 0)]))

/-- R90, R93, R124, R168: a vector instruction whose slots name stream ports: each read port's bindings in the active lanes supply one element and
move on once, a write port's move on once, and a register destination takes the results. MOV from a register to a write port stores each active
lane's unit at its binding's address. -/
def Obligations.StreamForms : Prop :=
  (∀ (i : Instr) (iw : Nat) (op : VecOp) (s : State) (w : Who) (fm : Fmt) (p : Plan), Issues s w → exec i s = s.issueVec i iw op →
     w.vecCheck (w.act op.g) op.etag op.accept op.uses op.d op.resTag op.known = .ok fm → vecPlan s op w = .ok p → Passes s w op.g iw p →
     let act := w.act op.g
     let ports := portsOf (op.uses.map Use.field)
     let r := s.loadPorts w act ports
     let rt := op.resTag fm.tag
     let out := (op.eval (op.input s w fm r.2.1 act)).map (gaugeLane (if op.gauge = 0 then none else some (s.gauge w.core op.gauge)) rt)
     r.2.2 = [] → (out.map (fun y => y.1.lane)).Nodup →
     ∃ t u g', exec i s = .next t ∧ Went u t w g' iw
       ∧ (∀ k l, l < 32 → g'.binding k l = if (k ∈ ports ∧ act.getLsbD l) ∨ (operandOf op.d = .port k ∧ l ∈ out.map (fun y => y.1.lane))
           then (w.g.binding k l).map Binding.advance else w.g.binding k l)
       ∧ (∀ n, operandOf op.d = .v n → ∀ y ∈ out, y.1.lane < 32 →
           g'.unit n (Tg.wide rt) y.1.lane = unitOf rt y.1.elems % (if Tg.wide rt then 2 ^ 64 else 2 ^ 32)))
  ∧ ∀ (f : FmtV) (s : State) (w : Who) (fm : Fmt) (p : Plan) (n k : Nat) (b : Nat → Binding), Issues s w →
      w.vecCheck (w.act f.g) f.etag.toNat Tg.any [.fmt f.a] f.d id = .ok fm → vecPlan s (movOp f) w = .ok p → Passes s w f.g 1 p →
      operandOf f.a = .v n → operandOf f.d = .port k → (∀ l, (w.act f.g).getLsbD l = true → w.g.binding k l = some (b l)) →
      (∀ l, (w.act f.g).getLsbD l = true → PagesReady s w (b l).addr (b l).size) →
      ∃ t, exec (.mov f) s = .next t ∧ Stands t w 1
        ∧ StoredBy s t w (w.act f.g) (fun l => (b l).addr) (fun l => leBytes (w.g.unit n fm.wide l) (b l).size)

/-- R111 to R115: CVT, between registers and where its source or its destination is a stream port (R90), CVTS and SCALESEL. -/
def Obligations.Conversions : Prop :=
  ∀ (f : FmtV) (s : State) (w : Who), Issues s w →
    let act := w.act f.g
    let rm := w.g.rm f.rm.toNat
    let dt := f.c.toNat
    (∀ st d, cvtCheck f w = .ok st → operandOf f.d = .v d → Fld.isPort f.a = false →
      let n := cvtElems st dt
      let lines := cvtUnits dt n * Tg.unitLines dt
      let r : Nat → List (Nat × BitVec 9) := fun l => (w.cvtSource s f.a st n [] l).map (convert st dt rm w.g.ftz)
      w.beyondField f.a (cvtUnits st n * Tg.unitLines st) = false → w.beyondField f.d lines = false →
      ∃ t g', exec (.cvt f) s = .next t ∧ Went s t w g' 1
        ∧ WroteLines (w.g.orFlags ((Mask.lanes act).foldl (fun a l => (r l).foldl (fun a e => a ||| e.2) a) 0)) g' d lines dt act
            (fun l => ((chunks (Tg.epl dt) ((r l).map Prod.fst) (cvtUnits dt n)).map (unitOf dt)).flatMap (slotsOf dt)))
    ∧ (∀ st p, cvtCheck f w = .ok st → cvtPlan s f w = .ok p → Passes s w f.g 1 p →
      let n := cvtElems st dt
      let u := s.loadPorts w act (portsOf [f.a])
      let r : Nat → List (Nat × BitVec 9) := fun l => (w.cvtSource s f.a st n u.2.1 l).map (convert st dt rm w.g.ftz)
      let units : Nat → List Nat := fun l => (chunks (Tg.epl dt) ((r l).map Prod.fst) (cvtUnits dt n)).map (unitOf dt)
      u.2.2 = [] →
      ∃ t v g', exec (.cvt f) s = .next t ∧ Went v t w g' 1 ∧ (Fld.isPort f.d = false → v = u.1)
        ∧ (∀ k l, l < 32 → g'.binding k l = if act.getLsbD l ∧ (operandOf f.a = .port k ∨ operandOf f.d = .port k)
            then (w.g.binding k l).map Binding.advance else w.g.binding k l)
        ∧ (∀ d, operandOf f.d = .v d → ∀ l j, act.getLsbD l = true → j < cvtUnits dt n * Tg.unitLines dt →
            (g'.line (d + j)).slot l = ((units l).flatMap (slotsOf dt)).getD j 0)
        ∧ ∀ k (b : Nat → Binding), operandOf f.d = .port k → Fld.isPort f.a = false →
            (∀ l, act.getLsbD l = true → w.g.binding k l = some (b l) ∧ PagesReady s w (b l).addr (b l).size) →
            StoredBy s t w act (fun l => (b l).addr) (fun l => leBytes ((units l).headD 0) (b l).size))
    ∧ (LinesReady w (cvtsOp s f w) →
      let tag := dt % 32
      let sh : Nat → Int := fun l => min 127 (max (-127) (signed 32 (w.lineSlot s f.b Tg.i32 0 l).toNat))
      let r : Nat → List (Nat × BitVec 9) := fun l => (w.block s f l).map (fun v =>
        let y := j8Round tag rm (v.1.scale (sh l))
        (y.1, y.2 ||| v.2))
      let lost : Nat → Nat := fun l => ((w.block s f l).filter (fun v =>
        match v.1 with | .fin _ m _ => m != 0 && (j8Round tag rm (v.1.scale (sh l))).1 == 0 | _ => false)).length
      ∃ t g1 g', exec (.cvts f) s = .next t ∧ Went s t w g' 1
        ∧ WroteLines (w.g.orFlags ((Mask.lanes act).foldl (fun a l => a ||| (r l).foldl (fun a e => a ||| e.2) 0) 0)) g1 f.d.toNat 8 tag act
            (fun l => (chunks 4 ((r l).map Prod.fst) 8).map (fun c => BitVec.ofNat 32 (unitOf tag c)))
        ∧ g' = { g1 with ufc := g'.ufc }
        ∧ ∀ l, l < 32 → Table.getD g'.ufc 0 l = if act.getLsbD l then
            (if f.c.getLsbD 5 then min 0xFFFF (Table.getD w.g.ufc 0 l + lost l) else lost l) else Table.getD w.g.ufc 0 l)
    ∧ (LinesReady w (scaleselOp s f w) →
      ∃ t g', exec (.scalesel f) s = .next t ∧ Went s t w g' 1
        ∧ WroteLines w.g g' f.d.toNat 1 Tg.i32 act (fun l =>
            let k := bits w.g.uft.toNat 0 4
            match ((w.block s f l).map Prod.fst).filterMap FV.exponent with
            | [] => [0]
            | e :: es => [BitVec.ofInt 32 (min 127 (max (-127) ((if dt = 13 then 8 else 16) - es.foldl max e
                + min 2 (Table.getD w.g.ufc 0 l / 2 ^ k))))]))

/-- R116 to R120: tags, packing and bit planes. -/
def Obligations.TagsAndPlanes : Prop :=
  ∀ (f : FmtV) (s : State) (w : Who), Issues s w →
    let act := w.act f.g
    let d := f.d.toNat
    let a := f.a.toNat
    let c := f.c.toNat
    let W := packWidth f.c
    let t0 := w.spanTag f.a f.etag.toNat
    (w.beyond d (c / 32 + 1) = false →
      ∃ t g', exec (.tag f) s = .next t ∧ Went s t w g' 1 ∧ g' = { w.g with win := g'.win }
        ∧ (∀ m, (g'.line m).bits = (w.g.line m).bits)
        ∧ ∀ m, g'.tag m = if act ≠ 0 ∧ d ≤ m ∧ m ≤ d + c / 32 then c % 32 else w.g.tag m)
    ∧ (LinesReady w (tagrOp f w) → w.beyond a c = false →
      ∃ t g', exec (.tagr f) s = .next t ∧ Went s t w g' 1
        ∧ WroteLines w.g g' d 1 Tg.n32 act (fun l => [BitVec.ofNat 32 (if l < c then w.g.tag (a + l) else 31)]))
    ∧ (LinesReady w (packOp s f w) →
      ∃ t g', ∃ v : Nat → Slot, exec (.pack f) s = .next t ∧ Went s t w g' 1 ∧ WroteLines w.g g' d 1 (packTag W t0) act (fun l => [v l])
        ∧ ∀ l i, act.getLsbD l = true → i < 32 / W → bits (v l).toNat (W * i) W = (w.lineSlot s f.a Tg.i32 i l).toNat % 2 ^ W)
    ∧ (LinesReady w (unpackOp s f w) →
      ∃ t g', exec (.unpack f) s = .next t ∧ Went s t w g' 1
        ∧ WroteLines w.g g' d (32 / W) (if t0 = 0 then 0 else if Tg.signed t0 then Tg.i32 else Tg.n32) act (fun l =>
            (List.range (32 / W)).map (fun i =>
              let e := bits (w.lineSlot s f.a t0 0 l).toNat (W * i) W
              if f.c.getLsbD 2 then BitVec.ofInt 32 (signed W e) else BitVec.ofNat 32 e)))
    ∧ (LinesReady w (bpsplitOp f w) →
      ∃ t g', ∃ v : Nat → List Slot, exec (.bpsplit f) s = .next t ∧ Went s t w g' 1 ∧ WroteLines w.g g' d c (13 + c) act v
        ∧ ∀ l p b, act.getLsbD l = true → p < c → b < 32 →
            ((v l).getD p 0).getLsbD b = (w.g.elemByte a (32 * l + b)).testBit (7 - p))
    ∧ (LinesReady w (bpjoinOp f w) → w.planesRead f ≤ 8 →
      ∃ t g', ∃ v : Nat → List Slot, exec (.bpjoin f) s = .next t ∧ Went s t w g' 1 ∧ WroteLines w.g g' d 8 Tg.i8 act v
        ∧ ∀ l p b q, act.getLsbD l = true → p < 8 → b < 4 → q < 256 →
            (∀ k, k < 8 → q.testBit (7 - k)
              = (decide (k < w.planesRead f) && (w.g.line (a + k)).bits.getLsbD (128 * p + 4 * l + b))) →
            bits ((v l).getD p 0).toNat (8 * b) 8 = wrap 8 (planeValue (w.planesRead f) q))

-- Register space, predicates, control registers.

/-- R94, R95: RGET reads, and RPUT writes, the register whose number each lane's index line gives. -/
def Obligations.IndexedRegisters : Prop :=
  ∀ (f : FmtV) (s : State) (w : Who) (p : Plan) (n : Nat), Issues s w → Fld.isPort f.a = false → Fld.isPort f.b = false →
    let wide := f.c == 1
    let act := w.act f.g
    (operandOf f.d = .v n → rgetPlan s f w = .ok p → Passes s w f.g 1 p →
      ∃ t g', exec (.rget f) s = .next t ∧ Went s t w g' 1
        ∧ Wrote w.g g' n wide
            (if f.etag = 31 then w.commonTag ((Mask.lanes act).map (fun l => (w.index s f.a l).toNat)) wide else f.etag.toNat) act
            (fun l => w.g.unit (w.index s f.a l).toNat wide l))
    ∧ (rputPlan s f w = .ok p → Passes s w f.g 1 p →
      let at_ : Nat → Nat := fun l => (w.index s f.b l).toNat
      ∃ t g', exec (.rput f) s = .next t ∧ Went s t w g' 1 ∧ g' = { w.g with win := g'.win }
        ∧ (∀ l, act.getLsbD l = true → g'.unit (at_ l) wide l = w.srcVal s f.a (rputTag f w) wide [] l % (if wide then 2 ^ 64 else 2 ^ 32)
            ∧ g'.tag (at_ l) = rputTag f w % 32)
        ∧ (∀ m l, l < 32 → (act.getLsbD l = true → m ≠ at_ l ∧ (wide = true → m ≠ at_ l + 1)) → (g'.line m).slot l = (w.g.line m).slot l))

/-- R86, R88, R96, R97: binding a stream port, removing a binding, what SSTAT reads of one; and where a stream's cursor stands after `k` elements,
counted from a fresh binding: the first index runs fastest, and the binding has ended when all elements have been consumed. -/
def Obligations.StreamBindings : Prop :=
  (∀ (f : FmtV) (s : State) (w : Who) (p : Plan) (n : Nat), Issues s w →
     let act := w.act f.g
     (sbindPlan s f w = .ok p → Passes s w f.g 1 p → wellFormed (.sbind f) = true →
       ∃ t g', exec (.sbind f) s = .next t ∧ Went s t w g' 1 ∧ g' = { w.g with streams := g'.streams }
         ∧ ∀ k l, l < 32 → g'.binding k l
             = if k = f.d.toNat - 0x3E0 ∧ act.getLsbD l = true then
                 (if Fld.isZero f.a then none else some (bindingOf (w.g.line f.b.toNat) (w.dword s f.a l)))
               else w.g.binding k l)
     ∧ (operandOf f.d = .v n → w.beyond n 2 = false →
       ∃ t g', exec (.sstat f) s = .next t ∧ Went s t w g' 1
         ∧ Wrote w.g g' n true Tg.n64 act (fun l => sstatValue f.c.toNat (w.g.binding (f.a.toNat - 0x3E0) l))))
  ∧ ∀ (b : Binding) (k : Nat), b.i0 = 0 → b.i1 = 0 → b.i2 = 0 → b.ended = false → 0 < b.n0 → 0 < b.n1 → 0 < b.n2 →
      let c := Nat.repeat Binding.advance k b
      (k < b.n0 * b.n1 * b.n2 → c.ended = false ∧ c.position = k ∧ c.i0 = k % b.n0 ∧ c.i1 = k / b.n0 % b.n1 ∧ c.i2 = k / (b.n0 * b.n1))
      ∧ (k = b.n0 * b.n1 * b.n2 → c.ended = true ∧ c.position = k)

/-- R234 to R236: a comparison writes its condition, ANDed with PA, to PD and the complement, ANDed with PA, to PE. -/
def Obligations.Comparisons : Prop :=
  ∀ (f : FmtP) (s : State) (w : Who) (fm : Fmt), Issues s w → f.pd ≠ 15 → f.pe ≠ f.pd →
    w.beyondField f.a (if fm.wide then 2 else 1) = false → w.beyondField f.b (if fm.wide then 2 else 1) = false →
    let act := w.act f.g
    let a : Nat → Nat := fun l => w.srcVal s f.a fm.tag fm.wide [] l
    let b : Nat → Nat := fun l => w.srcVal s f.b fm.tag fm.wide [] l
    let writes : Instr → (Nat → Bool) → BitVec 9 → Prop := fun i c fl =>
      ∃ t g' m, exec i s = .next t ∧ Went s t w g' 1 ∧ IsWhere m act c
        ∧ PredIs w.g g' f.pd.toNat act (m &&& w.g.pred f.pa.toNat)
        ∧ (f.pe ≠ 15 → PredIs w.g g' f.pe.toNat act (~~~m &&& w.g.pred f.pa.toNat))
        ∧ (∀ p, p ≠ f.pd.toNat → p ≠ f.pe.toNat → g'.pred p = w.g.pred p)
        ∧ g' = { w.g.orFlags fl with preds := g'.preds }
    (w.vecCheck act f.etag.toNat Tg.icmp [.fmt f.a, .fmt f.b] 0 (fun _ => 0) = .ok fm →
      writes (.icmp f) (fun l => icmpCond f.cond.toNat fm.tag (a l) (b l)) 0)
    ∧ (w.vecCheck act f.etag.toNat (fun t => t == Tg.f32 || t == Tg.f64) [.fmt f.a, .fmt f.b] 0 (fun _ => 0) = .ok fm →
      let r : Nat → Bool × BitVec 9 := fun l => fcmpLane f.cond.toNat w.g.ftz fm.tag (a l) (b l)
      writes (.fcmp f) (fun l => (r l).1) ((Mask.lanes act).foldl (fun x l => x ||| (r l).2) 0))

/-- R237 to R239: predicate logic, the vote over lanes, and setting predicates. -/
def Obligations.PredicateLogic : Prop :=
  ∀ (f : FmtP) (s : State) (w : Who), Issues s w → f.pd ≠ 15 →
    let act := w.act f.g
    let inv : Nat → Mask → Mask := fun k x => if f.cond.getLsbD k then ~~~x else x
    let pa := w.g.pred f.pa.toNat
    let pb := w.g.pred f.pb.toNat
    let writes : Instr → Mask → Prop := fun i v =>
      ∃ t g', exec i s = .next t ∧ Went s t w g' 1 ∧ PredIs w.g g' f.pd.toNat act v
        ∧ (∀ p, p ≠ f.pd.toNat → g'.pred p = w.g.pred p) ∧ g' = { w.g with preds := g'.preds }
    writes (.pand f) (inv 0 pa &&& inv 1 pb) ∧ writes (.por f) (inv 0 pa ||| inv 1 pb) ∧ writes (.pxor f) (inv 0 pa ^^^ inv 1 pb)
    ∧ writes (.pnot f) (~~~pa) ∧ writes (.pmov f) pa
    ∧ writes (.pany f) (if (f.cond = 0 ∧ pa &&& act ≠ 0) ∨ (f.cond = 1 ∧ pa &&& act = act) ∨ (2 ≤ f.cond.toNat ∧ pa &&& act = 0)
        then BitVec.allOnes 32 else 0)
    ∧ (f.cond ≠ 2 → writes (.pset f) (if f.cond = 1 then BitVec.allOnes 32 else 0))
    ∧ (f.cond = 2 → w.checkSrc act f.a 1 (fun t => Tg.maskLine t && (f.etag == 31 || t == f.etag.toNat)) = .ok () →
        w.beyondField f.a 1 = false → ∀ l, Mask.leader act = some l → writes (.pset f) (BitVec.ofNat 32 (w.word s f.a l)))

/-- R218, R316 to R319, R322: reading a control register, the clock (which waits for a FENCE.rel before it) and the error ring's counts; and the consumer count, which ERRQ's `ack` moves on
to the leader's source where that lies past it and the producer count has reached it. -/
def Obligations.ControlReads : Prop :=
  (∀ (f : FmtS) (s : State) (w : Who) (n : Nat), Issues s w → operandOf f.d = .v n → w.beyond n 2 = false →
     let act := w.act f.g
     let c := f.csr.toNat
     (c ≤ 4 ∨ c = 0x10 →
       ∃ t g', exec (.csrr f) s = .next t ∧ Went s t w g' 1
         ∧ Wrote w.g g' n (c == 3 || c == 0x10) (if c == 3 || c == 0x10 then Tg.n64 else Tg.n32) act
             (fun _ => if c = 0 then w.g.mode.toNat else if c = 1 then w.g.flags.toNat else if c = 2 then w.g.status.toNat
               else if c = 3 then w.g.mendReg.toNat else if c = 4 then w.g.uft.toNat else w.t.arg.toNat))
     ∧ (w.g.fence = none → ∃ t g', exec (.clock f) s = .next t ∧ Went s t w g' 1
         ∧ Wrote w.g g' n true Tg.n64 act (fun _ => (if f.mod = 1 then w.g.horizon else s.time) % 2 ^ 64))
     ∧ (∀ sc, w.g.fence = some sc → s.relReady w.g sc = false → act ≠ 0 →
         exec (.clock f) s = .next (s.updGroup w.core w.slot (fun g => { g with held := some (w.fi, .clock f) })))
     ∧ (∀ r, (s.ctx w.ctx).ring = some r → f.mod.toNat % 8 < 5 →
       let k := f.mod.toNat % 8
       ∃ t g', exec (.errq f) s = .next t ∧ Went (if k = 0 ∧ act ≠ 0 then s.selfInvalidate w.core else s) t w g' 1
         ∧ Wrote w.g g' n (decide (k ≤ 2)) (if k ≤ 2 then Tg.n64 else Tg.n32) act
             (fun _ => if k = 0 then r.prod else if k = 1 then r.cons else if k = 2 then r.base.toNat else if k = 3 then r.n else r.drop)))
  ∧ ∀ (f : FmtS) (s : State) (w : Who) (p : Plan) (l : Nat) (r : Ring), Issues s w → f.mod = 5 → errqPlan s f w = .ok p → Passes s w f.g 1 p →
      Mask.leader (w.act f.g) = some l → (s.ctx w.ctx).ring = some r →
      let x := w.dword s f.a l
      ∃ t u, exec (.errq f) s = .next t ∧ Went u t w w.g 1 ∧ u = { s with ctxs := u.ctxs }
        ∧ ∀ c, u.ctx c = if c = w.ctx then { s.ctx c with ring := some (if r.cons < x ∧ x ≤ r.prod then { r with cons := x } else r) } else s.ctx c

/-- R317, R319: what CSRW, CSRS and CSRC leave in a control register of the group, from the leader's source; and what a write of `gs.mode` leaves in
each of its bits. -/
def Obligations.ControlWrites : Prop :=
  (∀ (f : FmtS) (s : State) (w : Who) (l : Nat), Issues s w → f.csr.toNat ≤ 4 → Mask.leader (w.act f.g) = some l →
     let c := f.csr.toNat
     let x := if c = 3 then w.dword s f.a l else w.word s f.a l
     w.checkSrc (w.act f.g) f.a (if c = 3 then 2 else 1) (if c = 3 then Tg.dword else Tg.word) = .ok () →
     w.beyondField f.a (if c = 3 then 2 else 1) = false →
     ∀ r ∈ ([(.csrw f, fun _ => x), (.csrs f, fun old => old ||| x), (.csrc f, fun old => old - (old &&& x))] : List (Instr × (Nat → Nat))),
       (c = 2 → r.1 = .csrc f) →
       ∃ t g', exec r.1 s = .next t ∧ Went s t w g' 1
         ∧ g' = (if c = 0 then { w.g with mode := modeWrite s w.g.mode (BitVec.ofNat 32 (r.2 w.g.mode.toNat)) }
           else if c = 1 then { w.g with flags := BitVec.ofNat 32 (r.2 w.g.flags.toNat % 2 ^ 9) }
           else if c = 2 then { w.g with status := w.g.status &&& (0x4 ||| (0x3 &&& BitVec.ofNat 32 (r.2 w.g.status.toNat))) }
           else if c = 3 then { w.g with mendReg := BitVec.ofNat 64 (r.2 w.g.mendReg.toNat % 2 ^ 57) }
           else { w.g with uft := BitVec.ofNat 32 (r.2 w.g.uft.toNat % 16) }))
  ∧ ∀ (s : State) (old new : BitVec 32) (k : Nat),
      let m := modeWrite s old new
      (16 ≤ k ∧ k ≤ 24 ∧ k ≠ 21 ∧ k ≠ 24 → m.getLsbD k = new.getLsbD k)
      ∧ (k = 2 → m.getLsbD k = new.getLsbD k)
      ∧ (k = 3 → m.getLsbD k = (new.getLsbD k && s.feature 6))
      ∧ (4 ≤ k ∧ k ≤ 15 ∨ k = 21 ∨ 24 ≤ k → m.getLsbD k = false)
      ∧ m.extractLsb' 0 2 = (if new.extractLsb' 0 2 = 3 then old.extractLsb' 0 2 else new.extractLsb' 0 2)

/-- R304, R319: an access to a service register, and a write of a register that an instruction may not write, parks the fragment with
GF_PRIVILEGE. -/
def Obligations.Privilege : Prop :=
  ∀ (f : FmtS) (s : State) (w : Who), Issues s w → w.t.twin = none →
    let c := f.csr.toNat
    (0x800 ≤ c → ∃ t, exec (.csrr f) s = .next t ∧ ParksWith s t w 1 Cause.privilege)
    ∧ (0x800 ≤ c → w.checkEither f.a = .ok () →
        ∀ i ∈ [Instr.csrw f, .csrs f, .csrc f], ∃ t, exec i s = .next t ∧ ParksWith s t w 1 Cause.privilege)
    ∧ (c = 0x10 → w.checkSrc (w.act f.g) f.a 2 Tg.dword = .ok () →
        ∀ i ∈ [Instr.csrw f, .csrs f, .csrc f], ∃ t, exec i s = .next t ∧ ParksWith s t w 1 Cause.privilege)
    ∧ (c = 2 → w.checkSrc (w.act f.g) f.a 1 Tg.word = .ok () →
        ∀ i ∈ [Instr.csrw f, .csrs f], ∃ t, exec i s = .next t ∧ ParksWith s t w 1 Cause.privilege)

-- Control (R219 to R233, R320, R321).

/-- R219 to R226: branches and calls whose targets pass send each lane whose guard is true to its target's header and the others on; CALL leaves the
fall-through header's address in its pair. A lane whose target fails its check becomes a remnant of the cause that the check names; in the second
clause every lane does. -/
def Obligations.Branches : Prop :=
  (∀ (f : FmtC) (e0 e1 : Iword) (s : State) (w : Who), Issues s w →
     let act := w.act f.g
     let jumps : Instr → Nat → (Nat → List Nat) → (Nat → Nat) → (State → State → Prop) → Prop := fun i n as tgt res =>
       (∀ l, act.getLsbD l = true → s.checkTarget w.core w.ctx (tgt l) = none) →
       (destsOf ((Mask.lanes act).map (fun l => (l, tgt l))) act (w.others f.g) (w.f.next n)).length ≤ (s.pool w.core).length + 1 →
       ∃ t, exec i s = .next t ∧ (∀ l, act.getLsbD l = true → LaneAt t w l (tgt l) 0)
         ∧ (∀ l, (w.others f.g).getLsbD l = true → LaneAt t w l (w.f.next n).1 (w.f.next n).2)
         ∧ res (s.touchTargets w ((Mask.lanes act).flatMap as)) t
     let plain : State → State → Prop := fun u t => Moved u t w w.g
     let dest : Nat := w.target (offC f.off)
     let pairs := [e0.extractLsb' 0 32, e0.extractLsb' 32 32, e1.extractLsb' 0 32, e1.extractLsb' 32 32]
     let brm : Nat → Nat := fun l => w.target (brmOffset w.g (offC f.off) l pairs)
     let entry : Nat → Nat := fun l => wrap 64 ((dest : Int) + 8 * jtabIndex s f w l)
     let tab : Nat → Nat := fun l => (s.fetchWord w.core w.ctx (entry l)).toNat
     jumps (.br f) 1 (fun _ => [dest]) (fun _ => dest) plain
     ∧ jumps (.brm f e0 e1) 3 (fun l => [brm l]) brm plain
     ∧ (w.checkSrc act f.reg 1 Tg.word = .ok () → w.beyondField f.reg 1 = false →
         (∀ l, act.getLsbD l = true → 0 ≤ jtabIndex s f w l ∧ jtabIndex s f w l < f.aux.toNat
           ∧ s.fetchFail w.core w.ctx (entry l) = none) →
         jumps (.jtab f) 1 (fun l => [entry l, tab l]) tab plain)
     ∧ (w.checkSrc act f.reg 2 Tg.dword = .ok () → w.beyondField f.reg 2 = false →
         jumps (.jind f) 1 (fun l => [w.dword s f.reg l]) (fun l => w.dword s f.reg l) plain
         ∧ jumps (.ret f) 1 (fun l => [w.dword s f.reg l]) (fun l => w.dword s f.reg l) plain)
     ∧ (∀ n, operandOf f.reg = .v n → w.beyond n 2 = false →
         jumps (.call f) 1 (fun _ => [dest]) (fun _ => dest)
           (fun u t => ∃ g', Moved u t w g' ∧ Wrote w.g g' n true Tg.n64 act (fun _ => w.f.fallThrough))))
  ∧ ∀ (f : FmtC) (s : State) (w : Who) (e : LaneFail) (j : Nat) (rest : List Nat), Issues s w → w.t.twin = none →
      w.act f.g = w.f.mask → s.checkTarget w.core w.ctx (w.target (offC f.off)) = some e → e.cause < 0x080 → w.g.mendReg = 0 →
      s.pool w.core = j :: rest →
      ∃ t f', exec (.br f) s = .next t ∧ t.frag? w.core w.fi = none ∧ t.frag? w.core j = some f'
        ∧ f'.mask = w.f.mask ∧ f'.st = .parked ∧ f'.cause = e.cause ∧ f'.blk = w.f.blk ∧ f'.idx = w.f.idx ∧ f'.addr = e.addr
        ∧ GroupIs t w w.g

/-- R25, R26, R229, R230: at a barrier the lanes whose guard is true arrive and sleep at the next iword, and the others go on; the barriers of the
team and its cluster that are then complete complete. In a mending fragment the instruction is illegal. A barrier over some groups, and over saved
teams of the cluster, completes only when every lane of theirs that has not exited has arrived; then its arrived sets are empty, no fragment of
these groups sleeps at it, and it has completed for each saved team where it is kept (R324). -/
def Obligations.Barriers : Prop :=
  (∀ (f : FmtC) (s : State) (w : Who), Issues s w →
     let act := w.act f.g
     ∀ r ∈ ([(.bar f, f.aux.toNat, 1, .bar f.aux.toNat), (.barc f, 8, 2, .barc)] : List (Instr × Nat × Nat × Sleep)),
       (w.f.mend = true → w.t.twin = none → ∃ t, exec r.1 s = .next t ∧ ParksWith s t w 1 Cause.illegalOpcode)
       ∧ (w.f.mend = false → act ≠ 0 → s.relReady w.g r.2.2.1 = true → s.fenceReady w.g = true → (w.others f.g ≠ 0 → s.pool w.core ≠ []) →
         ∃ u f', exec r.1 s = .next (u.barriers w.g.tid)
           ∧ Moved s u w { w.g with fence := none, arr := Table.setD w.g.arr 0 r.2.1 (Table.getD w.g.arr 0 r.2.1 ||| act) }
           ∧ u.frag? w.core w.fi = some f' ∧ f' = { w.f with mask := act, idx := w.f.idx + 1, st := .asleep r.2.2.2 }
           ∧ ∀ l, (w.others f.g).getLsbD l = true → LaneAt u w l (w.f.next 1).1 (w.f.next 1).2))
  ∧ ∀ (s : State) (gs : List (Nat × Group)) (ks : List (Nat × SavedTeam)) (n : Nat), n ≤ 8 →
      let t := s.barrierOver gs ks n
      ((∃ e ∈ gs, Table.getD e.2.arr 0 n ≠ e.2.live) ∨ (∃ k ∈ ks, k.2.arrived = false) → t = s)
      ∧ ((∀ e ∈ gs, Table.find s.groups e.1 = some e.2 ∧ Table.getD e.2.arr 0 n = e.2.live) → (∀ k ∈ ks, k.2.arrived = true) →
        (gs.map Prod.fst).Nodup → (ks.map Prod.fst).Nodup →
        (∀ e ∈ gs, ∃ g', Table.find t.groups e.1 = some g' ∧ Table.find g'.arr n = none
          ∧ ∀ fi f, t.frag? (e.1 / 16) fi = some f → fi < 64 → f.slot = e.1 % 16 → f.st ≠ .asleep (if n = 8 then .barc else .bar n))
        ∧ ∀ k ∈ ks, Table.find t.saved k.1 = some k.2.pass)

/-- R23, R26, R227, R228: lanes that exit, or that KILL removes, are of no fragment of their group afterwards, and of its live set no more;
a group that no lane remains in ends. -/
def Obligations.ExitAndKill : Prop :=
  ∀ (f : FmtC) (s : State) (w : Who), Issues s w → w.f.slot = w.slot → w.fi < 64 →
    let gone : Instr → Mask → Prop := fun i m =>
      ∃ t, exec i s = .next t
        ∧ (∀ fi f', fi < 64 → t.frag? w.core fi = some f' → f'.slot = w.slot → f'.mask &&& m = 0)
        ∧ (w.g.live &&& ~~~m = 0 → t.group? w.core w.slot = none)
        ∧ ∀ g', t.group? w.core w.slot = some g' → g'.live = w.g.live &&& ~~~m
    (w.act f.g ≠ 0 → gone (.exit f) (w.act f.g))
    ∧ (∀ l, Mask.leader (w.act f.g) = some l → w.checkSrc (w.act f.g) f.reg 1 Tg.maskLine = .ok () → w.beyondField f.reg 1 = false →
        BitVec.ofNat 32 (w.word s f.reg l) ≠ 0 → gone (.kill f) (BitVec.ofNat 32 (w.word s f.reg l)))

/-- R22, R231 to R233, R320: NOP, TFENCE with no raised flag, YIELD, FRAGQ and REJOIN. -/
def Obligations.ControlOthers : Prop :=
  ∀ (f : FmtC) (s : State) (w : Who) (n : Nat), Issues s w →
    let act := w.act f.g
    (∃ t, exec (.nop f) s = .next t ∧ Went s t w w.g 1)
    ∧ (w.g.raised = 0 → ∃ t, exec (.tfence f) s = .next t ∧ Went s t w w.g 1)
    ∧ (∃ t, exec (.yield f) s = .next t ∧ Went s t w w.g 1
        ∧ (act ≠ 0 → w.f.idx + 1 < Hdr.length w.f.hdr → w.g.run = some w.fi →
            (∃ e ∈ s.fragsOf w.core w.slot, e.1 ≠ w.fi ∧ e.2.eligible w.g = true ∧ Table.find w.g.passes e.1 = none) →
            ∃ g' r, t.group? w.core w.slot = some g' ∧ g'.run = some r ∧ r ≠ w.fi))
    ∧ (operandOf f.reg = .v n → w.beyond n 1 = false →
        ∃ t g', exec (.fragq f) s = .next t ∧ Went s t w g' 1
          ∧ Wrote w.g g' n false (if f.aux = 4 ∨ f.aux = 5 then Tg.n32 else Tg.mask) act (fun _ => fragqValue s w f.aux.toNat))
    ∧ (∀ dest, w.f.mend = true → w.rejoinTarget f = some dest → s.checkTarget w.core w.ctx dest = none → act ≠ 0 →
        (w.others f.g ≠ 0 → s.pool w.core ≠ []) →
        ∃ t, exec (.rejoin f) s = .next t ∧ Moved (s.touchTargets w [dest]) t w w.g
          ∧ (∀ l, act.getLsbD l = true → ∃ fi f', t.frag? w.core fi = some f' ∧ f'.mask.getLsbD l = true ∧ f'.blk = dest ∧ f'.idx = 0
              ∧ f'.mend = false)
          ∧ ∀ l, (w.others f.g).getLsbD l = true → LaneAt t w l (w.f.next 1).1 (w.f.next 1).2)

/-- R29, R320, R321: TRAP, and TFENCE where an enabled flag is set, park the lanes whose guard is true as one remnant on the lowest free pool
entry, with the user cause or the lowest raised flag's cause; the other lanes go on. -/
def Obligations.Traps : Prop :=
  ∀ (f : FmtC) (s : State) (w : Who) (j : Nat) (rest : List Nat), Issues s w → w.t.twin = none → w.act f.g ≠ 0 → s.pool w.core = j :: rest →
    let parks : Instr → Fragment → Prop := fun i r =>
      ∃ t, exec i s = .next t ∧ t.frag? w.core j = some r ∧ GroupIs t w w.g
        ∧ (w.others f.g = 0 → t.frag? w.core w.fi = none)
        ∧ ∀ l, (w.others f.g).getLsbD l = true → LaneAt t w l (w.f.next 1).1 (w.f.next 1).2
    (w.beyondField f.reg 1 = false → parks (.trap f) (w.remnant s.time (w.act f.g) (Cause.userBase + f.aux.toNat % 32) 0))
    ∧ (w.g.raised ≠ 0 → parks (.tfence f) (w.remnant s.time (w.act f.g) (Cause.arithBase + lowestFlag w.g.raised) w.g.raised))

/-- R28 to R32, R304: taking a lane fault: the failing lanes of one cause become a remnant on the lowest free pool entry. If the program may
resolve the cause, a mend block is set, the block's header allows it and the fragment is not mending already, the remnant enters the mend
block and keeps the cause and the faulting place; otherwise it parks with the cause. A fragment-class cause that an instruction's fragment checks
find parks the whole issuing fragment, whatever the guards; nothing of the instruction commits. -/
def Obligations.Faults : Prop :=
  (∀ (s : State) (w : Who) (fs : List (Nat × LaneFail)) (e : Nat × LaneFail) (aux j : Nat) (rest : List Nat), Issues s w →
     e ∈ fs → (∀ x ∈ fs, x.2.cause = e.2.cause) → s.pool w.core = j :: rest →
     let c := e.2.cause
     let mends := userResolvable c = true ∧ w.f.mend = false ∧ w.g.mendReg ≠ 0 ∧ Hdr.mend w.f.hdr = true
     let t := s.split w fs aux
     ∃ f', t.frag? w.core j = some f' ∧ f'.mask = Mask.of (fs.map Prod.fst)
       ∧ (mends ∧ s.checkTarget w.core w.ctx w.g.mendReg.toNat = none →
           f'.st = .ready ∧ f'.mend = true ∧ f'.mcause = c ∧ f'.oblk = w.f.blk ∧ f'.oidx = w.f.idx
           ∧ f'.reconv = Hdr.reconv w.f.hdr ∧ f'.blk = w.g.mendReg.toNat ∧ f'.idx = 0 ∧ t = { s with frags := t.frags })
       ∧ (¬ mends ∨ s.checkTarget w.core w.ctx w.g.mendReg.toNat ≠ none →
           f'.st = .parked ∧ f'.cause = c ∧ f'.mend = w.f.mend ∧ f'.blk = w.f.blk ∧ f'.idx = w.f.idx))
  ∧ ∀ (i : Instr) (gd : Guard) (n c : Nat) (plan : Who → Except Nat Plan) (s : State) (w : Who), Issues s w → w.t.twin = none →
      exec i s = s.issue i gd n plan → plan w = .error c → 0x041 ≤ c → c ≤ 0x04B →
      ∃ t, exec i s = .next t ∧ ParksWith s t w n c

/-- R20, R43 to R45: a fragment that stands at a header which its core may fetch enters the block, and becomes one with the fragments of its group that
stand there ready and not mending; where the word is no valid header it parks with GF_BAD_HEADER. `u` is the device with that group chosen to move. -/
def Obligations.BlockEntry : Prop :=
  ∀ (s u v : State) (w : Who) (ts : List Turn), s.script = .issue w.core w.slot :: ts → Moves { s with script := ts } w → w.f.entered = false →
    w.t.twin = none →
    u = { s with script := ts, cur := some ⟨w.core, w.slot, w.fi⟩, lastSlot := Table.put s.lastSlot w.core w.slot,
                 issued := Table.put s.issued w.core (w.slot :: Table.getD s.issued [] w.core) } →
    u.fetchFail w.core w.ctx w.f.blk = none → v = u.fetchIword w.core w.ctx w.f.blk →
    let h := v.fetchWord w.core w.ctx w.f.blk
    ∃ t, step s = .next t.tick
      ∧ (Hdr.valid h = false → ParksWith v t w w.f.iwords Cause.badHeader)
      ∧ (Hdr.valid h = true → t = { v with groups := t.groups, frags := t.frags, fgens := t.fgens } ∧ GroupIs t w w.g
          ∧ (∃ fi f, t.frag? w.core fi = some f ∧ f.blk = w.f.blk ∧ f.idx = w.f.idx ∧ w.f.mask &&& ~~~f.mask = 0)
          ∧ ((∀ e ∈ s.fragsOf w.core w.slot, e.1 ≠ w.fi → e.2.mergeable w.f.blk = false) →
              t = v.putFrag w.core w.fi { w.f with entered := true, hdr := h }))

-- Memory (R166 to R192, R213 to R215).

/-- R90, R173, R184, R185, R196, R205, R207, R208, R214: LD, LDU, LDT and LDA whose checks pass go out, and the group holds each as outstanding: LD with a part for each
active lane, of the lane's address; LDU with the leader's access alone, for every active lane; LDT with the elements that the lanes name, which are read
at the return; LDA, whose accesses are aligned, with every byte read. A byte that the core's L1 holds is read at once, and the others at the return.
The oldest outstanding load of a group returns, where no home holds a request of its fetch: what its core lacks is fetched, its bytes that are
still to be read are read, and, unless one of them is poisoned, each lane's value goes to the lines that it names, or through the write
port, and the horizon rises to the stores that it saw early. That a group's loads return oldest first and read at the return (log entry 19), that
LDA's accesses drop what the core's copies hold when it issues (log entry 27) and that LDT reads when it returns (log entry 62) are the model's choice. -/
def Obligations.Loads : Prop :=
  (∀ (f : FmtM) (s : State) (w : Who), LoadReady s w f →
     let act := w.act f.g
     let ls := Mask.lanes act
     let va : Nat → Nat := fun l => w.memAddr s f f.off20 l
     let sent : Instr → List (Nat × Nat) → Prop := fun i asked =>
       ∃ t u earlier q, exec i s = .next t ∧ Went u t w { w.g with loads := earlier ++ [q] } 1
         ∧ u = { s with tlb := u.tlb, mem := u.mem, time := u.time, badBlocks := u.badBlocks, badSyms := u.badSyms, hbmStacks := u.hbmStacks }
         ∧ s.time ≤ u.time
         ∧ earlier.map (fun p => { p with parts := [] }) = w.g.outstanding
         ∧ q = { q with data := f.data, size := f.size.toNat, signed := f.mod.getLsbD 3, acq := none, ctx := w.ctx }
         ∧ q.parts.map (fun x => (x.lane, x.va)) = asked
         ∧ ((∀ l, act.getLsbD l = true → ReadReady s w (va l) f.bytes) →
             let v : State := { s with time := u.time }
             u = v ∧ ∀ x ∈ q.parts, HeldOrMissing v w ((v.maskAsks w.core w.ctx q.accs).map (fun a => a.2.frame)) x f.bytes)
     ((∀ l, act.getLsbD l = true → s.probe w.core w.ctx (va l) f.bytes .load false true = none) → sent (.ld f) (ls.map (fun l => (l, va l))))
     ∧ (∀ l0, Mask.leader act = some l0 → s.probe w.core w.ctx (va l0) f.bytes .load false true = none →
         sent (.ldu f) (ls.map (fun l => (l, va l0))))
     ∧ (Fld.isPort f.data = false → (∀ l, act.getLsbD l = true → s.probe w.core w.ctx (va l) f.bytes .load true true = none) →
         s.asksStall (s.asksFor none w [] (ls.map (fun l => (l, va l, f.bytes)))) = false →
         (s.narrow w (f.mod.toNat % 8)).2 = false → w.g.mixchk = false →
         ∃ t u earlier q, exec (.lda f) s = .next t ∧ Went u t w { w.g with loads := earlier ++ [q] } 1
           ∧ Fetched { s with strongs := u.strongs } u w ∧ earlier.map (fun p => { p with parts := [] }) = w.g.outstanding
           ∧ q = ⟨f.data, f.size.toNat, f.mod.getLsbD 3, some (f.mod.toNat % 8), w.ctx, [], [], q.parts⟩
           ∧ q.parts.map (fun x => (x.lane, x.va)) = ls.map (fun l => (l, va l)) ∧ (∀ x ∈ q.parts, x.miss = [])
           ∧ ((∀ l, act.getLsbD l = true → ReadReady s w (va l) f.bytes ∧ s.mixed (s.keyAt w.core w.ctx (va l) false) f.bytes = false) →
               ∀ x ∈ q.parts, ∀ i, i < f.bytes →
                 bits x.value.toNat (8 * i) 8 = (u.loadByte w.core w.slot (s.keyAt w.core w.ctx x.va false + i)).val.toNat)))
  ∧ (∀ (f : FmtM) (s : State) (w : Who), Issues s w → w.act f.g ≠ 0 → DataReady s w (w.act f.g) f.data true f.bytes →
      w.t.twin = none ∨ Fld.isPort f.data = false → handleCheck f w = .ok () → f.handleBeyond w = false →
      w.dataPortTag (w.act f.g) f.data (placeTag f.size.toNat (f.mod.getLsbD 3)) = .ok () →
      (∀ l, (w.act f.g).getLsbD l = true → (w.tileElement s f l).isSome = true) →
      ∃ t, exec (.ldt f) s = .next t
        ∧ Went s t w { w.g with loads := w.g.loads ++ [⟨f.data, f.size.toNat, f.mod.getLsbD 3, none, w.ctx, [], [],
            (Mask.lanes (w.act f.g)).map (fun l => handlePart l ((w.tileElement s f l).getD 0) f.bytes)⟩] } 1)
  ∧ ∀ (s : State) (core slot : Nat) (g : Group) (tm : Team) (q : PendingLoad) (rest : List PendingLoad),
      s.group? core slot = some g → Table.find s.teams g.tid = some tm → g.loads = q :: rest →
      (q.parts.map (·.lane)).Nodup → (∀ x ∈ q.parts, x.lane < 32) →
      (∀ x ∈ q.parts, x.miss = [])
        ∨ ((s.waitUncached core q.ctx q.accs).fetchAsks core q.ctx q.accs q.spans).any (s.waitUncached core q.ctx q.accs).stalled = false →
      ∃ u r, HomeOnly { s with time := u.time } u ∧ s.time ≤ u.time ∧ ((∀ x ∈ q.parts, x.miss = []) → u = s)
        ∧ r = { q with parts := q.parts.map (LanePart.read u core slot (fun _ => true)) } ∧ (∀ x ∈ r.parts, x.miss = [])
        ∧ ((∀ x ∈ r.parts, x.poison = []) →
          let h := r.parts.foldl (fun m x => max m x.tv) g.horizon
          (∀ n, operandOf q.data = .v n →
            ∃ t g', exec (.loadReturn core slot) s = .next t ∧ t.group? core slot = some g'
              ∧ (∀ x ∈ r.parts, ∀ k, k < sizeLines q.size →
                  (g'.line (n + k)).slot x.lane = (placeSlots q.size q.signed x.value.toNat).getD k 0 ∧ g'.tag (n + k) = placeTag q.size q.signed)
              ∧ (∀ m l, l < 32 → (∀ x ∈ q.parts, x.lane ≠ l) → (g'.line m).slot l = (g.line m).slot l)
              ∧ (∀ m, m < n ∨ n + sizeLines q.size ≤ m → g'.line m = g.line m)
              ∧ g' = { g with win := g'.win, loads := rest, horizon := h }
              ∧ t = { u with groups := t.groups, bolts := t.bolts } ∧ (q.acq = none → t.bolts = u.bolts)
              ∧ ∀ k, k ≠ slotKey core slot → Table.find t.groups k = Table.find s.groups k)
          ∧ (∀ p w, operandOf q.data = .port p → q.acq = none → w.core = core → w.slot = slot → w.t = tm →
            (∀ x ∈ q.parts, ∃ b, g.binding p x.lane = some b ∧ PagesReady u w b.addr b.size) →
            let at_ : Nat → Nat := fun l => ((g.binding p l).map (·.addr)).getD 0
            let size : Nat → Nat := fun l => ((g.binding p l).map (·.size)).getD 0
            ∃ t g', exec (.loadReturn core slot) s = .next t ∧ t.group? core slot = some g'
              ∧ StoredBy u t w (Mask.of (q.parts.map (·.lane))) at_
                  (fun l => leBytes (((r.parts.find? (fun x => x.lane == l)).map (fun x => x.value.toNat)).getD 0) (size l))
              ∧ g' = { g with streams := g'.streams, loads := g'.loads, horizon := g'.horizon, unacked := g'.unacked } ∧ h ≤ g'.horizon
              ∧ (∀ l, (∃ x ∈ q.parts, x.lane = l) → g'.binding p l = (g.binding p l).map Binding.advance)
              ∧ g'.loads.map (fun x => { x with parts := [] }) = rest.map (fun x => { x with parts := [] })
              ∧ ∀ k, k ≠ slotKey core slot → Table.find t.groups k = Table.find s.groups k))

/-- R168, R169, R185, R187, R196, R204 to R206: stores whose lanes pass their checks, to pages that the core's TLB holds ready, leave their bytes in
memory and nothing else of it; the group's registers keep their values. STT writes elements of handles, and no addressed memory. A load of a
core sees a store that a lane of the core has made within one frame, at once. -/
def Obligations.Stores : Prop :=
  (∀ (f : FmtM) (s : State) (w : Who) (p : Plan), Issues s w → Fld.isPort f.data = false →
     let act := w.act f.g
     let va : Nat → Nat := fun l => w.memAddr s f f.off20 l
     let bs : Nat → List Byte := fun l => leBytes (w.storeValue s f.data f.size.toNat [] l) f.bytes
     (∀ l, act.getLsbD l = true → PagesReady s w (va l) f.bytes) →
     let stores : Instr → Prop := fun i =>
       ∃ t g', exec i s = .next t ∧ StoredBy s t w act va bs ∧ GroupIs t w g' ∧ Stands t w 1
         ∧ g' = { w.g with horizon := g'.horizon, unacked := g'.unacked, status := g'.status, loads := g'.loads }
         ∧ g'.outstanding = w.g.outstanding ∧ w.g.horizon ≤ g'.horizon ∧ (∀ k, k ≠ slotKey w.core w.slot → Table.find t.groups k = Table.find s.groups k)
         ∧ t.scratch = s.scratch ∧ t.tlb = s.tlb ∧ t.teams = s.teams ∧ t.sems = s.sems ∧ t.handles = s.handles
     (stPlan s f w = .ok p → Passes s w f.g 1 p → stores (.st f))
     ∧ (stlPlan s f w = .ok p → Passes s w f.g 1 p → w.g.mixchk = false → stores (.stl f)))
  ∧ (∀ (f : FmtM) (s : State) (w : Who) (p : Plan), Issues s w → Fld.isPort f.data = false → sttPlan s f w = .ok p → Passes s w f.g 1 p →
       let act := w.act f.g
       let at_ : Nat → Nat := fun l => (w.tileElement s f l).getD 0
       ∃ t u g', exec (.stt f) s = .next t ∧ Went u t w g' 1 ∧ u = { s with scratch := u.scratch, flight := u.flight, free := u.free }
         ∧ g' = { w.g with horizon := g'.horizon, loads := g'.loads } ∧ g'.outstanding = w.g.outstanding ∧ w.g.horizon ≤ g'.horizon
         ∧ (∀ j, (∀ l, act.getLsbD l = true → j < at_ l ∨ at_ l + f.bytes ≤ j) → u.scratch.read j = s.scratch.read j)
         ∧ (∀ l i, act.getLsbD l = true → i < f.bytes → (∀ l', act.getLsbD l' = true → l < l' → at_ l' + f.bytes ≤ at_ l ∨ at_ l + f.bytes ≤ at_ l') →
             u.scratch.read (at_ l + i) = (leBytes (w.storeValue s f.data f.size.toNat [] l) f.bytes).getD i 0))
  ∧ ∀ (s : State) (kind : StoreKind) (a : Agent) (ctx key slot : Nat) (bs : List Byte) (i : Nat),
      a.core < 720 → key % 256 + bs.length ≤ 256 → s.dropsStore key = false → i < bs.length →
      (((s.storeFrame kind a ctx key 0 bs).1.loadByte a.core slot (key + i)).1) = bs.getD i 0

/-- R166, R188, R189, R195: an atomic instruction whose lanes pass their checks performs in its active lanes in ascending order, and each receives its
old value in the data register or pair, whose tag stays; a CAS of 16 bytes compares four lines with the location and stores the four after
them. One lane's atomic on a page that the core holds ready, where no mixed sizes meet, answers
the old value and leaves the new one, or leaves memory as it is where nothing is stored. -/
def Obligations.Atomics : Prop :=
  (∀ (f : FmtM) (s : State) (w : Who) (p : Plan) (l0 : Nat), Issues s w → operandOf f.data = .v f.data.toNat →
     f.size.toNat = 2 ∨ f.size.toNat = 3 → Mask.leader (w.act f.g) = some l0 → (s.narrow w f.mod.toNat).2 = false →
     let act := w.act f.g
     let d := f.data.toNat
     let wide := f.size == 3
     let n := if wide then 8 else 4
     let x : Nat → Nat := fun l => w.g.unit d wide l
     let atomic : Instr → Int → (Nat → Nat → Option Nat) → Prop := fun i off op =>
       let va := w.memAddr s f off
       let v := s.holdAll w n va (Mask.lanes act)
       v.atomPoison w n va (Mask.lanes act) = [] →
       let r := v.atomLanes w n va op (Mask.lanes act)
       ∃ t g', exec i s = .next t ∧ t.group? w.core w.slot = some g'
         ∧ (∀ v ∈ r.2, g'.unit d wide v.1 = v.2 % 256 ^ n) ∧ r.2.map Prod.fst = Mask.lanes act
         ∧ (∀ m l, l < 32 → (m ≠ d ∧ (wide = true → m ≠ d + 1)) ∨ act.getLsbD l = false → (g'.line m).slot l = (w.g.line m).slot l)
         ∧ g'.tag d = w.g.tag d ∧ g'.preds = w.g.preds ∧ g'.mode = w.g.mode ∧ g'.flags = w.g.flags ∧ t.mem = r.1.mem
     (atomOpPlan s f w = .ok p → Passes s w f.g 1 p → atomic (.atom f) f.off16 (fun l old => some (atomNew f.op (8 * n) old (x l))))
     ∧ (atomfPlan s f w = .ok p → Passes s w f.g 1 p →
         atomic (.atomf f) f.off16 (fun l old => some (atomfNew f.op (if wide then F64 else F32) old (x l))))
     ∧ (casPlan s f w = .ok p → Passes s w f.g 1 p →
         atomic (.cas f) f.off20 (fun l old => if old = x l then some (w.g.unit (d + if wide then 2 else 1) wide l) else none)))
  ∧ (∀ (f : FmtM) (s : State) (w : Who) (p : Plan) (l0 : Nat), Issues s w → operandOf f.data = .v f.data.toNat → f.size.toNat = 4 →
      Mask.leader (w.act f.g) = some l0 → (s.narrow w f.mod.toNat).2 = false → casPlan s f w = .ok p → Passes s w f.g 1 p →
      let act := w.act f.g
      let d := f.data.toNat
      let quad : Nat → Nat → Nat := fun n l => w.g.unit n true l + 2 ^ 64 * w.g.unit (n + 2) true l
      let va := w.memAddr s f f.off20
      let v := s.holdAll w 16 va (Mask.lanes act)
      v.atomPoison w 16 va (Mask.lanes act) = [] →
      let r := v.atomLanes w 16 va (fun l old => if old = quad d l then some (quad (d + 4) l) else none) (Mask.lanes act)
      ∃ t g', exec (.cas f) s = .next t ∧ t.group? w.core w.slot = some g'
        ∧ (∀ x ∈ r.2, g'.unit d true x.1 + 2 ^ 64 * g'.unit (d + 2) true x.1 = x.2 % 2 ^ 128) ∧ r.2.map Prod.fst = Mask.lanes act
        ∧ (∀ m l, l < 32 → m < d ∨ d + 4 ≤ m ∨ act.getLsbD l = false → (g'.line m).slot l = (w.g.line m).slot l)
        ∧ (∀ m, g'.tag m = w.g.tag m) ∧ g'.preds = w.g.preds ∧ g'.mode = w.g.mode ∧ g'.flags = w.g.flags ∧ t.mem = r.1.mem)
  ∧ ∀ (s : State) (w : Who) (l va n : Nat) (op : Nat → Option Nat), s.group? w.core w.slot = some w.g → w.g.mixchk = false → n = 4 ∨ n = 8 ∨ n = 16 →
      va % n = 0 → va < 2 ^ 57 → PagesReady s w va n → s.mixed (s.keyAt w.core w.ctx va true) n = false → s.dropsStore (s.keyAt w.core w.ctx va true) = false →
      s.keyAt w.core w.ctx va true % n = 0 →
      let key := s.keyAt w.core w.ctx va true
      let r := s.atomLane w l va n op
      r.2 = s.mem.readNat key n
      ∧ (∀ x, op r.2 = some x → r.1.mem.readNat key n = x % 256 ^ n)
      ∧ (op r.2 = none → r.1.mem = s.mem)
      ∧ ∀ j, j < key ∨ key + n ≤ j → r.1.mem.read j = s.mem.read j

/-- R186, R190, R191: PREF only fetches; FLUSH and INV begin over the leader's range, cut at the end of the space, and do nothing where it is empty;
ZERO clears whole frames, and nothing where its range is empty. -/
def Obligations.RangeInstructions : Prop :=
  ∀ (f : FmtM) (s : State) (w : Who), Issues s w →
    let act := w.act f.g
    (w.checkSrc act f.base 2 Tg.dword = .ok () → w.beyondField f.base 2 = false →
      ∃ t u, exec (.pref f) s = .next t ∧ Went u t w w.g 1
        ∧ HomeOnly { s with free := u.free, mem := u.mem, tlb := u.tlb, reading := u.reading } u
        ∧ ((∀ l, act.getLsbD l = true → ReadReady s w (w.memAddr s f f.off20 l) f.bytes) → u.mem = s.mem ∧ u.tlb = s.tlb))
    ∧ ∀ l0, Mask.leader act = some l0 → w.t.twin = none → rangeCheck f w = .ok () → f.beyond w (if f.size = 3 then 2 else 1) = false →
      let start := w.memAddr s f f.off20 l0
      let len := if f.size = 3 then w.dword s f.data l0 else w.word s f.data l0
      (∀ r ∈ ([(.flush f, false), (.inv f, true)] : List (Instr × Bool)),
        ∃ t, exec r.1 s = .next t
          ∧ Went s t w (if len = 0 then w.g else { w.g with rangeOp := some ⟨r.2, f.mod.toNat % 8, start, min len (2 ^ 57 - start)⟩ }) 1)
      ∧ (len ≠ 0 → start % 256 = 0 → len % 256 = 0 → s.probe w.core w.ctx start len .zero false true = none → w.g.fence = none →
          s.asksStall (s.asksFor (some .zero) w [] [(l0, start, len)]) = false →
          (∀ q, q < len / 256 → PagesReady s w (start + 256 * q) 256) →
          ∃ t g', exec (.zero f) s = .next t ∧ GroupIs t w g' ∧ Stands t w 1
            ∧ g' = { w.g with horizon := g'.horizon, unacked := g'.unacked, loads := g'.loads } ∧ g'.outstanding = w.g.outstanding
            ∧ w.g.horizon ≤ g'.horizon ∧ t.tlb = s.tlb ∧ t.scratch = s.scratch ∧ t.teams = s.teams
            ∧ (∀ k, k ≠ slotKey w.core w.slot → Table.find t.groups k = Table.find s.groups k)
            ∧ (∀ j, (∀ q i, q < len / 256 → ¬ ByteAt s w (start + 256 * q) 256 i j) → t.mem.read j = s.mem.read j)
            ∧ ∀ q i j, q < len / 256 → ByteAt s w (start + 256 * q) 256 i j → (∀ k, k / 256 = j / 256 → s.dropsStore k = false) →
                t.mem.read j = 0)
      ∧ (len = 0 → w.g.fence = none → ∃ t, exec (.zero f) s = .next t ∧ Went s t w w.g 1)

/-- R182, R192, R277: TALLOC gives its active lanes a handle and clears its storage, or 0xFF and a false predicate where there is no room; TFREE frees
the entry, whose generation moves on. That a holder which stands on no core, being saved or ended, gives 0xFF too is the model's choice (log
entry 69). -/
def Obligations.Handles : Prop :=
  ∀ (f : FmtE) (s : State) (w : Who) (l0 : Nat), Issues s w → Mask.leader (w.act f.g) = some l0 →
    let act := w.act f.g
    (f.n.toNat = 1 ∨ (f.n.toNat = 2 ∧ w.checkSrc act f.c 1 Tg.word = .ok () ∧ w.beyondField f.c 1 = false
        ∧ s.hasTeam w.t (w.word s f.c l0) = true) →
      w.checkSrc act f.b 1 Tg.word = .ok () → w.beyondField f.b 1 = false → operandOf f.a = .v f.a.toNat → w.beyond f.a.toNat 1 = false →
      f.mod.toNat / 4 ≠ 15 →
      let holder := if f.n.toNat = 1 then some (w.g.tid, w.t) else s.holderTeam w.t (w.word s f.c l0)
      let shape := w.word s f.b l0
      let r := holder.bind (fun h =>
        s.allocate f.n.toNat h.1 h.2 w.t.cluster (bits shape 16 16) (bits shape 0 16) (2 ^ (f.mod.toNat % 4)))
      ∃ t g1 g', exec (.talloc f) s = .next t
        ∧ Went (match r with | some x => x.1 | none => s) t w g' 1
        ∧ Wrote w.g g1 f.a.toNat false Tg.n32 act (fun _ => match r with | some x => x.2 | none => 0xFF)
        ∧ PredIs g1 g' (f.mod.toNat / 4) act (if r.isSome then BitVec.allOnes 32 else 0)
        ∧ (∀ q, q ≠ f.mod.toNat / 4 → g'.pred q = w.g.pred q) ∧ g' = { g1 with preds := g'.preds })
    ∧ (∀ e, w.checkSrc act f.a 1 Tg.word = .ok () → w.beyondField f.a 1 = false →
        s.handleOf w.core w.g.tid w.t (w.word s f.a l0) = some e →
        ∃ t u g', exec (.tfree f) s = .next t ∧ Went u t w g' 1
          ∧ u = ((s.settleHandle (e.1 / 256) e.2).freeHandle (e.1 / 256) (e.1 % 256)).failNamed (e.2.name (e.1 % 256))
          ∧ g' = { w.g with loads := g'.loads } ∧ g'.outstanding = w.g.outstanding ∧ Table.find u.handles e.1 = none
          ∧ Table.getD u.hgens 0 e.1 = (Table.getD s.hgens 0 e.1 + 1) % 16)

-- Matrix (R243 to R268).

/-- R246, R253, R256, R266, R373: TDESC sets one tile or accumulator from a line whose words keep the rules, and parks with GF_TILE_SHAPE where they
do not; GSET sets one gauge of the core, and of its twin, and GGET reads one. -/
def Obligations.TileState : Prop :=
  ∀ (f : FmtT) (s : State) (w : Who), Issues s w →
    let act := w.act f.g
    let x := f.x.toNat
    let y := f.y.toNat
    let word : Nat → Nat := fun i => ((w.g.line y).slot i).toNat
    (w.checkLines y 1 Tg.word = .ok () → y < w.g.lines →
      (∀ d, f.mod ≠ 1 → parseTile (word 0) (word 1) (word 2) (word 3) = some d → act ≠ 0 →
        ∃ t g', exec (.tdesc f) s = .next t ∧ Went s t w g' 1 ∧ g' = { w.g with tiles := g'.tiles } ∧ g'.tile x = d
          ∧ (∀ m, m ≠ x → g'.tile m = w.g.tile m)
          ∧ d.off = word 0 % 2 ^ 17 ∧ d.off % 16 = 0 ∧ 1 ≤ d.rows ∧ d.rows ≤ 32 ∧ d.rowBytes % 16 = 0 ∧ d.off + d.rows * d.rowBytes ≤ 122880)
      ∧ (∀ o, f.mod = 1 → parseAcc (word 0) = some o → act ≠ 0 →
        ∃ t g', exec (.tdesc f) s = .next t ∧ Went s t w g' 1 ∧ g' = { w.g with accs := g'.accs } ∧ g'.acc x = o
          ∧ (∀ m, m ≠ x → g'.acc m = w.g.acc m) ∧ o = word 0 ∧ o % 128 = 0 ∧ o + 8192 ≤ 122880)
      ∧ ((f.mod ≠ 1 ∧ parseTile (word 0) (word 1) (word 2) (word 3) = none) ∨ (f.mod = 1 ∧ parseAcc (word 0) = none) →
        w.t.twin = none → ∃ t, exec (.tdesc f) s = .next t ∧ ParksWith s t w 1 Cause.tileShape))
    ∧ (∀ p, gsetPlan f w = .ok p → w.beyond y 1 = false → act ≠ 0 →
      ∃ t u, exec (.gset f) s = .next t ∧ Went u t w w.g 1 ∧ u = { s with gauges := u.gauges }
        ∧ (∀ c, c = w.core ∨ w.t.twin = some c →
            u.gauge c x = ⟨(w.g.line y).slot 0, (w.g.line y).slot 1, f.mod.getLsbD 2, f.mod.extractLsb' 0 2, 0⟩)
        ∧ ∀ k, k ≠ semKey w.core x → (∀ c, w.t.twin = some c → k ≠ semKey c x) → Table.find u.gauges k = Table.find s.gauges k)
    ∧ (w.beyond x 1 = false →
      let q := s.gauge w.core y
      ∃ t g', exec (.gget f) s = .next t ∧ Went s t w g' 1
        ∧ WroteLines w.g g' x 1 0 act (fun l => [if l = 0 then q.lo else if l = 1 then q.hi else if l = 2 then BitVec.ofNat 32 q.hits
            else if l = 3 then BitVec.ofNat 32 (q.act.toNat + 4 * q.int.toNat) else 0]))

/-- R254, R257 to R259: the active lanes that own a row read it from memory, a handle or zero through the tile's gauge, or write it to memory or a
handle. -/
def Obligations.TileRows : Prop :=
  ∀ (f : FmtT) (s : State) (w : Who) (p : Plan), Issues s w →
    let d := w.g.tile f.x.toNat
    let ls := rowLanes (w.act f.g) d.rows
    let own : Mask := w.act f.g &&& BitVec.ofNat 32 (2 ^ d.rows - 1)
    let key : Nat → Nat := fun l => (w.handleRow s f d l).getD 0
    (d.rowBytes % Tg.bytes d.tag = 0 →
      (tloadPlan s f w = .ok p → Passes s w f.g 1 p → f.mod.getLsbD 3 = false →
        let r := s.loadLanes w (ls.map (fun l => (l, w.dword s f.y l, d.rowBytes))) (f.mod.toNat % 8)
        (∀ v ∈ r.2, v.2.2.2 = []) →
        ∃ t u g', exec (.tload f) s = .next t ∧ Went u t w g' 1 ∧ u = { r.1 with gauges := u.gauges } ∧ Fetched s r.1 w
          ∧ TileWrote u r.1 w { w.g with horizon := g'.horizon, loads := g'.loads } g' d ls
              (fun l => ((r.2.find? (fun v => v.1 == l)).map (fun v => v.2.1)).getD []))
      ∧ (tfromhPlan s f w = .ok p → Passes s w f.g 1 p →
        ∃ t u g', exec (.tfromh f) s = .next t ∧ Went u t w g' 1 ∧ u = { s with gauges := u.gauges }
          ∧ TileWrote u s w { w.g with horizon := g'.horizon } g' d ls (fun l => (s.readHandle w.core w.slot (key l) d.rowBytes).1))
      ∧ (f.mod ≠ 1 → d.rows ≠ 0 → w.tileBeyond d = false →
        ∃ t u g', exec (.tzero f) s = .next t ∧ Went u t w g' 1 ∧ u = { s with gauges := u.gauges }
          ∧ TileWrote u s w w.g g' d ls (fun _ => List.replicate d.rowBytes 0)))
    ∧ (let n := (d.k + 31) / 32
      let at_ : Nat → Nat := fun l => d.sclOff + d.stride * l
      let apart : Nat → Prop := fun b => ∀ l ∈ ls, (b < d.rowAt l ∨ d.rowAt l + d.rowBytes ≤ b) ∧ (b < at_ l ∨ at_ l + max n d.stride ≤ b)
      (tloadPlan s f w = .ok p → Passes s w f.g 1 p → f.mod.getLsbD 3 = true → d.rowBytes % Tg.bytes d.tag = 0 →
        let r := s.loadLanes w (ls.flatMap (rowAccs s w f d)) (f.mod.toNat % 8)
        (∀ v ∈ r.2, v.2.2.2 = []) →
        ∃ t u g', exec (.tload f) s = .next t ∧ Went u t w g' 1 ∧ u = { r.1 with gauges := u.gauges } ∧ Fetched s r.1 w
          ∧ (∀ l ∈ ls, (∀ k ∈ ls, l < k → d.rowAt k + d.rowBytes ≤ at_ l ∨ at_ l + n ≤ d.rowAt k) →
              g'.bytes (at_ l) n = (((r.2.filter (fun v => v.1 == l)).getLast?.map (fun v => v.2.1)).getD []))
          ∧ (ls ≠ [] → ∀ j, j < d.scaleLines → g'.tag (d.sclOff / 128 + j) = Tg.i8) ∧ ∀ b, apart b → g'.byte b = w.g.byte b)
      ∧ (f.mod = 1 → d.se = true → d.rows ≠ 0 → w.tileBeyond d = false →
        ∃ t u g', exec (.tzero f) s = .next t ∧ Went u t w g' 1 ∧ u = { s with gauges := u.gauges }
          ∧ (∀ l ∈ ls, g'.bytes (at_ l) d.stride = List.replicate d.stride 0)
          ∧ (ls ≠ [] → ∀ j, j < d.scaleLines → g'.tag (d.sclOff / 128 + j) = Tg.i8) ∧ ∀ b, apart b → g'.byte b = w.g.byte b)
      ∧ (tstorePlan s f w = .ok p → Passes s w f.g 1 p → f.mod.getLsbD 3 = true →
        (∀ l, own.getLsbD l = true → PagesReady s w (w.dword s f.y l) d.rowBytes ∧ PagesReady s w (w.dword s f.z l) n) →
        ∃ t g', exec (.tstore f) s = .next t ∧ GroupIs t w g' ∧ Stands t w 1
          ∧ g' = { w.g with horizon := g'.horizon, unacked := g'.unacked, loads := g'.loads } ∧ g'.outstanding = w.g.outstanding
          ∧ w.g.horizon ≤ g'.horizon ∧ ∀ j, (∀ l, own.getLsbD l = true → ∀ i, ¬ ByteAt s w (w.dword s f.y l) d.rowBytes i j ∧ ¬ ByteAt s w (w.dword s f.z l) n i j) →
              t.mem.read j = s.mem.read j))
    ∧ (tstorePlan s f w = .ok p → Passes s w f.g 1 p → f.mod.getLsbD 3 = false →
      (∀ l, own.getLsbD l = true → PagesReady s w (w.dword s f.y l) d.rowBytes) →
      ∃ t g', exec (.tstore f) s = .next t ∧ GroupIs t w g' ∧ Stands t w 1
        ∧ StoredBy s t w own (w.dword s f.y) (fun l => w.g.bytes (d.rowAt l) d.rowBytes)
        ∧ g' = { w.g with horizon := g'.horizon, unacked := g'.unacked, loads := g'.loads } ∧ g'.outstanding = w.g.outstanding
        ∧ w.g.horizon ≤ g'.horizon)
    ∧ (ttohPlan s f w = .ok p → Passes s w f.g 1 p →
      ∃ t u g', exec (.ttoh f) s = .next t ∧ Went u t w g' 1 ∧ u = { s with scratch := u.scratch, flight := u.flight, free := u.free }
        ∧ g' = { w.g with horizon := g'.horizon, loads := g'.loads } ∧ g'.outstanding = w.g.outstanding ∧ w.g.horizon ≤ g'.horizon
        ∧ (∀ j, (∀ l ∈ ls, j < key l ∨ key l + d.rowBytes ≤ j) → u.scratch.read j = s.scratch.read j)
        ∧ ∀ l ∈ ls, (∀ k ∈ ls, l < k → key k + d.rowBytes ≤ key l ∨ key l + d.rowBytes ≤ key k) →
            u.scratch.reads (key l) d.rowBytes = w.g.bytes (d.rowAt l) d.rowBytes)

/-- R105, R261, R264: ACCZ, ACCGET and ACCPUT on the rows of an accumulator that the active lanes own. -/
def Obligations.Accumulators : Prop :=
  ∀ (f : FmtT) (s : State) (w : Who), Issues s w →
    let act := w.act f.g
    let off := w.g.acc f.x.toNat
    let rows : Group → Nat → Prop := fun g' tag =>
      (∀ b, (∀ i, act.getLsbD i = true → b < off + 256 * i ∨ off + 256 * i + 256 ≤ b) → g'.byte b = w.g.byte b)
      ∧ (act ≠ 0 → ∀ j, j < 64 → g'.tag (off / 128 + j) = tag)
      ∧ ∀ m, m < off / 128 ∨ off / 128 + 64 ≤ m → g'.tag m = w.g.tag m
    (w.accBeyond off = false →
      ∃ t g', exec (.accz f) s = .next t ∧ Went s t w g' 1 ∧ g' = { w.g with win := g'.win }
        ∧ rows g' (if f.mod = 1 then Tg.a56f else Tg.a56i)
        ∧ ∀ i, act.getLsbD i = true → g'.bytes (off + 256 * i) 256 = List.replicate 256 0)
    ∧ (let a := w.g.acc f.y.toNat
      let kind := f.mod.toNat % 4
      let cnt := if kind = 0 then 64 else 32
      let t0 := w.g.tag (a / 128)
      let rm := w.g.rm (bits f.mod.toNat 2 2)
      w.checkAcc a = .ok () → w.accBeyond a = false → w.beyond f.x.toNat cnt = false →
      ∃ t g' fl, exec (.accget f) s = .next t ∧ Went s t w g' 1
        ∧ WroteLines (w.g.orFlags fl) g' f.x.toNat cnt (if kind = 0 then t0 else if kind = 1 then Tg.f32 else Tg.i32) act (fun i =>
            (List.range 32).flatMap (fun j =>
              let x := w.g.accSlot a i j
              if kind = 0 then [BitVec.ofNat 32 x, BitVec.ofNat 32 (x / 2 ^ 32)]
              else if kind = 1 then [BitVec.ofNat 32 (flush F32 w.g.ftz (F32.roundFV rm (accValue t0 x))).1]
              else if t0 = Tg.a56i then [BitVec.ofNat 32 (storeInt Tg.i32 true (signed 56 x)).1]
              else [BitVec.ofNat 32 (toInt Tg.i32 rm (accValue t0 x)).1])))
    ∧ (let n := f.y.toNat
      let cnt := if f.mod = 0 then 64 else 32
      let t0 := w.g.tag n
      let src : Nat → Nat → Nat := fun i j =>
        if f.mod = 0 then ((w.g.line (n + 2 * j)).slot i).toNat + 2 ^ 32 * ((w.g.line (n + 2 * j + 1)).slot i).toNat
        else ((w.g.line (n + j)).slot i).toNat
      w.checkLines n cnt (accputOk f.mod.toNat) = .ok () → w.beyond n cnt = false → w.accBeyond off = false →
      ∃ t g' fl, exec (.accput f) s = .next t ∧ Went s t w g' 1 ∧ g' = { w.g.orFlags fl with win := g'.win }
        ∧ rows g' (if f.mod = 0 then t0 else if f.mod = 1 then Tg.a56f else Tg.a56i)
        ∧ ∀ i j, act.getLsbD i = true → j < 32 → leNat (g'.bytes (off + 256 * i + 8 * j) 8)
            = if f.mod = 0 then src i j % 2 ^ 56 else if f.mod = 1 then (A56F.roundFV 1 (F32.value (src i j))).1 % 2 ^ 64
              else wrap 56 (ival t0 32 (src i j)))

/-- R248, R252, R260, R263, R265: an MMA, DRAIN or TTRANS whose checks pass joins its core's queue; the engine performs the oldest one of its
core, in the rows that were active when it issued. -/
def Obligations.MatrixQueue : Prop :=
  (∀ (f : FmtT) (s : State) (w : Who) (p : Plan), Issues s w →
    let act := w.act f.g
    let joins : Instr → Option Gauge → Prop := fun i q =>
      ∃ t u, exec i s = .next t ∧ Went u t w w.g 1 ∧ u = { s with mq := u.mq }
        ∧ Table.getD u.mq [] w.core = Table.getD s.mq [] w.core ++ [⟨w.slot, i, act, q, w.f.iaddr, s.fragId w.core w.fi⟩]
        ∧ ∀ c, c ≠ w.core → Table.getD u.mq [] c = Table.getD s.mq [] c
    (mmaPlan f w = .ok p → Passes s w f.g 1 p → joins (.mma f) none)
    ∧ (drainPlan s f w = .ok p → Passes s w f.g 1 p → joins (.drain f) (s.tileGauge w.core (w.g.tile f.y.toNat)))
    ∧ (ttransPlan s f w = .ok p → Passes s w f.g 1 p → joins (.ttrans f) (s.tileGauge w.core (w.g.tile f.x.toNat))))
  ∧ ∀ (f : FmtT) (core : Nat) (s : State) (m : MatrixOp) (rest : List MatrixOp) (g : Group) (tm : Team),
    Table.getD s.mq [] core = m :: rest → s.group? core m.slot = some g → Table.find s.teams g.tid = some tm →
    let x := g.tile f.x.toNat
    let y := g.tile f.y.toNat
    let z := g.tile f.z.toNat
    let does : (Group → Prop) → Prop := fun post =>
      ∃ t g', exec (.matrixEngineIssue core) s = .next t ∧ Table.getD t.mq [] core = rest ∧ t.group? core m.slot = some g' ∧ post g'
        ∧ g' = { g with win := g'.win, flags := g'.flags } ∧ t.scratch = s.scratch ∧ t.teams = s.teams
    (m.instr = .mma f → y.rows ≤ 32 → z.rows ≤ 32 →
      let off := g.acc f.x.toNat
      let chunk := match mmaPairing y z with | some q => q.2 | none => 32
      does (fun g' => (∀ k, g'.tag k = g.tag k)
        ∧ ∀ i j, i < 32 → j < 32 → leNat (g'.bytes (off + 256 * i + 8 * j) 8)
            = if m.rows.getLsbD i ∧ i < y.rows ∧ j < z.rows then
                (mmaSlot g y z (g.tag (off / 128)) chunk i j ((y.k + chunk - 1) / chunk) 0 (g.accSlot off i j, 0)).1 % 2 ^ 64
              else leNat (g.bytes (off + 256 * i + 8 * j) 8)))
    ∧ (m.instr = .drain f → Tg.bp y.tag = false → y.rowBytes % Tg.bytes y.tag = 0 →
      does (fun g' => (∀ i, m.rows.getLsbD i = true → i < y.rows → g'.bytes (y.rowAt i) y.rowBytes
            = bytesOfElems y.tag ((List.range y.k).map (fun j => (drainElem g f m.gauge i j).1)))
          ∧ ∀ b, (∀ i, m.rows.getLsbD i = true → i < y.rows → b < y.rowAt i ∨ y.rowAt i + y.rowBytes ≤ b) → g'.byte b = g.byte b))
    ∧ (m.instr = .ttrans f → Tg.bp x.tag = false → x.rowBytes % Tg.bytes x.tag = 0 →
      let n := Tg.bytes x.tag
      does (fun g' => (∀ i, m.rows.getLsbD i = true → i < x.rows → g'.bytes (x.rowAt i) x.rowBytes
            = (gaugeRow m.gauge x.tag ((List.range x.k).flatMap (fun j => g.bytes (y.rowAt j + i * n) n))).1)
          ∧ ∀ b, (∀ i, m.rows.getLsbD i = true → i < x.rows → b < x.rowAt i ∨ x.rowAt i + x.rowBytes ≤ b) → g'.byte b = g.byte b))

-- Engines and synchronization (R161, R212, R216, R217, R269 to R274, R280, R281, R285, R291 to R299, R385).

/-- R269 to R274, R293, R294: CPUT stores 64 bytes from lanes 0 to 15; CTAIL opens a chain from its control block, and moves the tail of an
open one; a tail that may not move parks the fragment with GF_CHAIN, and one that need not changes nothing. -/
def Obligations.ChainInstructions : Prop :=
  ∀ (f : FmtE) (s : State) (w : Who) (p : Plan), Issues s w → w.act f.g ≠ 0 →
    let l := w.lead f.g
    let va := w.dword s f.a l
    let c := chainOf w f
    let x := s.chain c
    (cputPlan s f w = .ok p → Passes s w f.g 1 p → PagesReady s w va 64 →
      ∃ t g', exec (.cput f) s = .next t ∧ GroupIs t w g' ∧ Stands t w 1
        ∧ StoredBy s t w (Mask.one l) (fun _ => va) (fun _ => (List.range 16).flatMap (fun k => leBytes (w.word s f.b k) 4))
        ∧ g' = { w.g with horizon := g'.horizon, unacked := g'.unacked, loads := g'.loads } ∧ g'.outstanding = w.g.outstanding)
    ∧ (ctailOpenPlan s f w = .ok p → Passes s w f.g 1 p →
      let r := s.leaderRead w l va 64
      let b : Nat → Nat → Nat := fun lo n => leField r.2.1 lo n
      r.2.2 = [] →
      ∃ t u g', exec (.ctailOpen f) s = .next t ∧ Went u t w g' 1 ∧ Fetched s r.1 w ∧ u = { r.1 with chains := u.chains }
        ∧ g' = { w.g with horizon := g'.horizon, loads := g'.loads } ∧ g'.outstanding = w.g.outstanding ∧ w.g.horizon ≤ g'.horizon
        ∧ u.chain c = { Chain.closed with
            isOpen := true, holder := w.holds c, ctx := w.ctx, base := b 0 8, logn := b 8 1, cwaddr := b 16 8, start := b 24 8, tail := b 24 8,
            done := b 24 8, nxt := b 24 8 }
        ∧ ∀ k, k ≠ chainKey c → Table.find u.chains k = Table.find s.chains k)
    ∧ (w.checkSrc (w.act f.g) f.a 2 Tg.dword = .ok () → w.beyondField f.a 2 = false → w.t.twin = none →
      (x.isOpen = true → x.holder = w.holds c → x.closing = false →
        (x.tail < va → va - x.done ≤ 2 ^ x.logn → s.relReady w.g 1 = true → w.g.fence = none →
          ∃ t u, exec (.ctail f) s = .next t ∧ Went u t w w.g 1 ∧ u = { s with chains := u.chains }
            ∧ u.chain c = { x with tail := va, stamps := x.stamps ++ [(va, (s.ctx w.ctx).gen, w.g.tid)] }
            ∧ ∀ k, k ≠ chainKey c → Table.find u.chains k = Table.find s.chains k)
        ∧ (va ≤ x.tail → ∃ t, exec (.ctail f) s = .next t ∧ Went s t w w.g 1)
        ∧ (x.tail < va → 2 ^ x.logn < va - x.done → ∃ t, exec (.ctail f) s = .next t ∧ ParksWith s t w 1 Cause.chain))
      ∧ (x.isOpen = false ∨ x.holder ≠ w.holds c ∨ x.closing = true →
        ∃ t, exec (.ctail f) s = .next t ∧ ParksWith s t w 1 Cause.chain))

/-- R280, R281, R295, R348: where no wake is due at the semaphore, SEMADD adds a signed amount, saturating, and SEMWAIT goes on where the counter reaches its threshold, taking the threshold off
with DEC, and sleeps where it does not; SEMREAD reads the counter. Waiters are served in order of arrival: one whose threshold the counter meets, as
those before it left it, is taken, and with DEC takes its threshold; the others stay in their order. SEMWAIT's acquire is made at the semaphore's own
scope, and at `.dev` where an increment by an engine at `.dev` stands in the counter: which increments satisfy a wait once several have been
added is the model's choice (log entry 26). -/
def Obligations.Semaphores : Prop :=
  (∀ (f : FmtE) (s : State) (w : Who) (p : Plan) (k : Nat), Issues s w → w.act f.g ≠ 0 → w.sem s f = some (.live k) →
     let old := Table.getD s.sems 0 k
     let thr := w.word s f.a (w.lead f.g)
     let amt := signed 32 thr
     let dec := f.mod.getLsbD 1
     let scope := if f.mod.getLsbD 0 then 2 else 1
     (semaddPlan s f w = .ok p → Passes s w f.g 1 p → (serveWaiters k old s.semq).2.1 = [] →
       ∃ t u, exec (.semadd f) s = .next t ∧ Went u t w w.g 1 ∧ u = { s with sems := u.sems }
         ∧ ((Table.getD u.sems 0 k : Nat) : Int) = max 0 (min (2 ^ 32 - 1) (old + amt))
         ∧ ∀ j, j ≠ k → Table.getD u.sems 0 j = Table.getD s.sems 0 j)
     ∧ (semwaitPlan s f w = .ok p → Passes s w f.g 1 p → (serveWaiters k old s.semq).2.1 = [] →
       (thr ≤ old →
         ∃ t u, exec (.semwait f) s = .next t ∧ Went u t w w.g 1
           ∧ u = ({ s with sems := u.sems } : State).acquire w.core (if s.devSems.contains k then 3 else scope)
           ∧ Table.getD u.sems 0 k = (if dec then old - thr else old)
           ∧ ∀ j, j ≠ k → Table.getD u.sems 0 j = Table.getD s.sems 0 j)
       ∧ (old < thr →
         ∃ t, exec (.semwait f) s = .next t
           ∧ Moved { s with semq := s.semq ++ [⟨.frag w.core w.fi, k, thr, dec, f.mod.getLsbD 0, s.order⟩], order := s.order + 1 } t w w.g
           ∧ t.frag? w.core w.fi = some { w.f with mask := w.act f.g, idx := w.f.idx + 1, st := .asleep (.sem k thr dec) }
           ∧ ∀ l, (w.others f.g).getLsbD l = true → LaneAt t w l (w.f.next 1).1 (w.f.next 1).2))
     ∧ (∀ n, semreadPlan s f w = .ok p → Passes s w f.g 1 p → operandOf f.a = .v n →
       ∃ t g', exec (.semread f) s = .next t ∧ Went s t w g' 1 ∧ Wrote w.g g' n false Tg.n32 (w.act f.g) (fun _ => old)))
  ∧ ∀ (key c : Nat) (q : SemWait) (qs : List SemWait),
      let r := serveWaiters key c (q :: qs)
      let met := q.key = key ∧ q.thr ≤ c
      let n := serveWaiters key (if met ∧ q.dec = true then c - q.thr else c) qs
      r.1 = n.1 ∧ r.2.1 = (if met then q :: n.2.1 else n.2.1) ∧ r.2.2 = (if met then n.2.2 else q :: n.2.2)
        ∧ r.1 ≤ c ∧ (r.2.1 ++ r.2.2).Perm (q :: qs)

/-- R212, R216, R217, R285, R296 to R299: PUBLISH, ENQ, SVC, MWAIT, COLLABORT and FENCE. -/
def Obligations.EngineRequests : Prop :=
  ∀ (f : FmtE) (s : State) (w : Who) (p : Plan), Issues s w → w.act f.g ≠ 0 →
    let l := w.lead f.g
    let va := w.dword s f.a l
    let len := w.word s f.b l
    (publishPlan s f w = .ok p → Passes s w f.g 1 p →
      (len = 0 → ∃ t, exec (.publish f) s = .next t ∧ Went s t w w.g 1)
      ∧ (len ≠ 0 → (s.narrow w f.mod.toNat).2 = false →
        ∃ t, exec (.publish f) s = .next t
          ∧ Went { s with invals := s.invals ++ [⟨w.ctx, va, len, some (slotKey w.core w.slot)⟩] } t w w.g 1))
    ∧ (enqPlan s f w = .ok p → Passes s w f.g 1 p →
      let r := s.leaderRead w l va 128
      let d := r.2.1
      let held := Table.getD s.credits 0 (creditKey w.ctx va)
      r.2.2 = [] →
      ∃ t u g', exec (.enq f) s = .next t ∧ Went u t w g' 1 ∧ Fetched s r.1 w
        ∧ u = { r.1 with nodes := u.nodes, order := u.order, credits := u.credits }
        ∧ (s.poolAccepts = true →
            (∃ n, Table.find u.nodes s.order = some n ∧ n.ctx = w.ctx ∧ n.addr = va ∧ n.desc = d ∧ n.origin = w.core ∧ n.team = some w.g.tid
              ∧ n.pred = leField d 12 2 - held ∧ n.st = (if leField d 12 2 ≤ held then .ready else .waiting))
            ∧ u.order = s.order + 1 ∧ Table.find u.credits (creditKey w.ctx va) = none)
        ∧ (s.poolAccepts = false → u.nodes = s.nodes ∧ u.credits = s.credits ∧ u.order = s.order)
        ∧ (f.mod.toNat < 15 → PredIs w.g g' f.mod.toNat (w.act f.g) (if s.poolAccepts then BitVec.allOnes 32 else 0))
        ∧ g' = { w.g with preds := g'.preds, horizon := g'.horizon, loads := g'.loads } ∧ g'.outstanding = w.g.outstanding)
    ∧ (svcPlan s f w = .ok p → Passes s w f.g 1 p →
      ∃ t u, exec (.svc f) s = .next t ∧ Went u t w w.g 1 ∧ u = { s with ctxs := u.ctxs }
        ∧ u.ctx w.ctx = { s.ctx w.ctx with
            svcq := (s.ctx w.ctx).svcq ++ [⟨BitVec.ofNat 32 len, BitVec.ofNat 64 va, BitVec.ofNat 64 (w.dword s f.c l), false⟩] }
        ∧ ∀ c, c ≠ w.ctx → u.ctx c = s.ctx c)
    ∧ (mwaitPlan s f w = .ok p → Passes s w f.g 1 p →
      let n := if f.mod = 1 then 8 else 4
      let r := s.armRead w l va n
      let expected := if f.mod = 1 then w.dword s f.b l else len
      let tmo := w.word s f.c l
      let frame := s.keyAt w.core w.ctx va false / 256
      let after : Group → Prop := fun g' =>
        g' = { w.g with horizon := g'.horizon, loads := g'.loads } ∧ g'.outstanding = w.g.outstanding ∧ w.g.horizon ≤ g'.horizon
      r.2.2 = [] → Fetched s r.1 w
      ∧ (leNat r.2.1 ≠ expected → ∃ t g', exec (.mwait f) s = .next t ∧ Went r.1 t w g' 1 ∧ after g')
      ∧ (leNat r.2.1 = expected → ∃ t g', exec (.mwait f) s = .next t ∧ Moved r.1 t w g' ∧ after g'
        ∧ t.frag? w.core w.fi = some { w.f with
            mask := w.act f.g, idx := w.f.idx + 1,
            st := .asleep (.mwait frame (if tmo = 0 then none else some (r.1.time + tmo)) (r.1.armed w (w.act f.g) frame)) }
        ∧ ∀ l, (w.others f.g).getLsbD l = true → LaneAt t w l (w.f.next 1).1 (w.f.next 1).2))
    ∧ (∀ q, collabortPlan s f w = .ok p → Passes s w f.g 1 p →
      let group := w.word s f.a l % 65536
      Table.find s.colls (collKey w.ctx group) = some q →
      ∃ t, exec (.collabort f) s = .next t
        ∧ Table.find t.colls (collKey w.ctx group) = some { q with attempt := q.attempt + 1, inbox := [], tokens := q.tokens + (q.ranks - 1) }
        ∧ ∀ k, k ≠ collKey w.ctx group → Table.find t.colls k = Table.find s.colls k)
    ∧ (fencePlan s f w = .ok p → Passes s w f.g 1 p → (s.narrow w (f.mod.toNat % 8)).2 = false →
      let sc := (s.narrow w (f.mod.toNat % 8)).1
      (f.mod.toNat / 8 = 2 → ∃ t, exec (.fence f) s = .next t ∧ Went s t w (w.g.fenced sc) 1)
      ∧ (f.mod.toNat / 8 ≠ 2 →
          ∃ t u, exec (.fence f) s = .next t ∧ Went u t w w.g 1 ∧ u = { s with bolts := u.bolts }
            ∧ ∀ b, b ∈ u.bolts ↔ b ∈ s.bolts ∧ ¬ (2 ≤ sc ∧ b.cache = w.core ∧ b.owned = false ∧ b.fill < s.time)))

-- Chain entries (R269 to R279, R339 to R344, R346 to R348, R384, R394).

/-- R273 to R278, R346, R347: the entries of copy chains. An entry whose header breaks the layout, or of a type that the engine does not accept, stops
the chain; one whose stamp is stale starts and does nothing. An engine's write to a page that its context may store to, and whose translation
needs no new bit, leaves its bytes there and nothing else in memory. That a stop waits for the entries before it as an entry that has failed (log
entry 32), and that a COPY moves in pieces of 256 bytes counted from its start (log entry 34), are the model's choice. -/
def Obligations.ChainEntries : Prop :=
  (∀ (s u : State) (c : ChainRef) (b : List Byte), EntryRead s u c b →
     let x := s.chain c
     let f : Nat → Nat → Nat := fun lo n => leField b lo n
     let types : List (Instr × Nat) := [(.nopEntry c, 0), (.copyEntry c, 1), (.copy3d c, 2), (.copyh c, 3), (.signal c, 4), (.waitsem c, 5),
       (.link c, 6)]
     (hdrGood c (f 0 8) = false ∨ accepts c (bits (f 0 8) 0 8) = false → WordSound u c →
       ∀ r ∈ types, ∃ t, exec r.1 s = .next t ∧ ChainStops s u t c { cause := Cause.chain })
     ∧ (hdrGood c (f 0 8) = true → accepts c (bits (f 0 8) 0 8) = true → (fnOf (f 0 8) = true → x.started = []) → x.genOf x.nxt ≠ (s.ctx x.ctx).gen →
       ∀ r ∈ types, bits (f 0 8) 0 8 = r.2 → ∃ t, exec r.1 s = .next t ∧ StartedAs s u t c b u.time .ready [])
     ∧ (∀ r ∈ ([(.nopEntry c, 0), (.signal c, 4)] : List (Instr × Nat)), EntryAt s u c r.2 b →
       (f 8 56 = 0 → ∃ t, exec r.1 s = .next t ∧ StartedAs s u t c b u.time .ready [])
       ∧ (f 8 56 ≠ 0 → WordSound u c → ∃ t, exec r.1 s = .next t ∧ ChainStops s u t c { cause := Cause.chain }))
     ∧ (EntryAt s u c 1 b → f 24 8 ≤ 2 ^ 40 → f 32 4 ≤ 1 → f 36 28 = 0 →
       let m := (Move.start u).row u c x.ctx (f 8 8) (f 16 8) (f 24 8) (f 32 4 == 1)
       (m.over = false → ∃ t, exec (.copyEntry c) s = .next t ∧ StartedAs s m.s t c b (max u.time m.tv) m.await [])
       ∧ (∀ z, m.lost = [] → m.held = [] → m.fail = some z → lossCause z.cause = false → WordSound m.s c →
           ∃ t, exec (.copyEntry c) s = .next t ∧ ChainStops s m.s t c z))
     ∧ (EntryAt s u c 2 b → 1 ≤ f 24 4 → f 24 4 ≤ 2 ^ 24 → f 28 2 ≠ 0 → f 30 2 ≠ 0 → f 48 4 ≤ 1 → f 52 12 = 0 →
       let at_ : Nat → Nat → Nat → Nat → Nat → Nat := fun base f1 f2 i j => wrap 64 ((f base 8 : Int) + i * signed 32 (f f1 4) + j * signed 32 (f f2 4))
       let m := (List.range (f 28 2 * f 30 2)).foldl (fun m k =>
         let i := k % f 28 2
         let j := k / f 28 2
         m.row u c x.ctx (at_ 8 32 36 i j) (at_ 16 40 44 i j) (f 24 4) (f 48 4 == 1)) (Move.start u)
       m.over = false → ∃ t, exec (.copy3d c) s = .next t ∧ StartedAs s m.s t c b (max u.time m.tv) m.await [])
     ∧ (∀ p, EntryAt s u c 3 b → (CopyH.of b).good b = true → u.storeOf x.holder (f 16 4) = some p →
         (bits (f 40 4) 2 1 = 1 ∨ f 32 4 % p.entry.es = 0) →
       let m := (List.range (f 28 4)).foldl (fun m i =>
         if m.over then m else if bits (f 40 4) 2 1 = 1 then m.bpRow c x (CopyH.of b) i else m.plainRow c x (CopyH.of b) i) (Move.start u)
       m.over = false → ∃ t, exec (.copyh c) s = .next t
         ∧ StartedAs s m.s t c b (max u.time m.tv) m.await [] (some p.name))
     ∧ (∀ k, EntryAt s u c 5 b → semRefGood c (f 8 2) = true → f 10 2 = 0 → f 16 1 ≤ 1 → f 17 47 = 0 → u.entrySem c (f 8 2) = some (.live k) →
         (serveWaiters k (Table.getD u.sems 0 k) u.semq).2.1 = [] →
       let old := Table.getD u.sems 0 k
       (f 12 4 ≤ old → ∃ t v, exec (.waitsem c) s = .next t ∧ StartedAs s v t c b u.time .ready [] ∧ v = { u with sems := v.sems }
         ∧ Table.getD v.sems 0 k = (if f 16 1 = 1 then old - f 12 4 else old) ∧ ∀ j, j ≠ k → Table.getD v.sems 0 j = Table.getD u.sems 0 j)
       ∧ (old < f 12 4 → ∃ t v, exec (.waitsem c) s = .next t ∧ StartedAs s v t c b u.time .sem []
           ∧ v = { u with
               sems := v.sems, semq := u.semq ++ [⟨.chain c, k, f 12 4, f 16 1 == 1, bits (f 8 2) 15 1 == 1, u.order⟩], order := u.order + 1 }
           ∧ ∀ j, Table.getD v.sems 0 j = Table.getD u.sems 0 j))
     ∧ (EntryAt s u c 6 b → f 8 8 % 64 = 0 → 1 ≤ f 16 1 → f 16 1 ≤ 16 → f 17 47 = 0 →
       ∃ t, exec (.link c) s = .next t ∧ StartedAs s u t c b u.time .ready b))
  ∧ ∀ (m : Move) (c : ChainRef) (ctx va : Nat) (bs : List Byte), m.over = false → bs ≠ [] → pageParts va bs.length = [(va, bs.length)] →
      m.s.probe (engineOf c) ctx va bs.length .store false false = none → m.s.touch (engineOf c) ctx va true = m.s →
      let key := m.s.keyAt (engineOf c) ctx va true
      let r := m.write c ctx va bs false
      m.s.asksStall (m.s.engineWaits (engineOf c) ctx true [(key, bs.length)]) = false → (∀ k, k / 256 = key / 256 ∨ k / 256 = (key + bs.length - 1) / 256 → m.s.dropsStore k = false) → bs.length ≤ 256 →
      r.over = false ∧ m.tv ≤ r.tv ∧ (∀ i, i < bs.length → r.s.mem.read (key + i) = bs.getD i 0)
        ∧ ∀ j, j < key ∨ key + bs.length ≤ j → r.s.mem.read j = m.s.mem.read j

/-- R273, R278, R346, R348: the oldest started entry of a chain completes once its writes have performed: Cc moves past it, a LINK changes the ring,
CW writes the count, SG adds; a stale entry's completions are discarded and counted. An SG follows every completion word of its chain: device time
reaches their Tv first. A CW store that fails stops the chain at its entry, which is not counted, and no SG is made. -/
def Obligations.EntryCompletion : Prop :=
  ∀ (s : State) (c : ChainRef) (e : Started) (rest : List Started),
    let x := s.chain c
    let h := e.hdr.toNat
    x.started = e :: rest → x.closing = false → s.mayComplete c e = true → (s.ctx x.ctx).mode = .live →
    let moves : State → Nat → Prop := fun t now =>
      (t.chain c = (if bits h 0 8 = 6 then
          { x with done := e.pos + 1, started := rest, start := e.pos + 1, base := leField e.body 8 8, logn := leField e.body 16 1 }
        else { x with done := e.pos + 1, started := rest }))
      ∧ (∀ k, k ≠ chainKey c → Table.find t.chains k = Table.find s.chains k) ∧ t.time = now
    let now := max s.time e.tv
    let ws : State → List Flight := fun t => t.cwFlights c x
    let signals : Nat → Prop := fun k => (Table.find s.teams (x.team c)).isSome = true ∧ s.entrySem c (bits h 16 16) = some (.live k)
      ∧ s.semEnded (x.team c) (bits h 31 1 == 1) (bits h 24 7) = false
    let adds : State → Nat → Prop := fun t k =>
      Table.getD t.sems 0 k = min (2 ^ 32 - 1) (Table.getD s.sems 0 k + bits h 32 16) ∧ ∀ j, j ≠ k → Table.getD t.sems 0 j = Table.getD s.sems 0 j
    let words : Prop := s.cwWaits c x = false ∧ x.cwaddr ≠ 0 ∧ x.cwaddr % 8 = 0 ∧ s.probe (engineOf c) x.ctx x.cwaddr 8 .store true false = none
      ∧ (∀ r, s.touch (engineOf c) x.ctx x.cwaddr r = s) ∧ s.keyAt (engineOf c) x.ctx x.cwaddr true % 8 = 0
      ∧ s.dropsStore (s.keyAt (engineOf c) x.ctx x.cwaddr true) = false ∧ e.pos < 2 ^ 64 - 1 ∧ now = s.time
    let wrote : State → Prop := fun t =>
      let key := s.keyAt (engineOf c) x.ctx x.cwaddr true
      t.mem.readNat key 8 = e.pos + 1 ∧ ∀ j, j < key ∨ key + 8 ≤ j → t.mem.read j = s.mem.read j
    (e.gen = (s.ctx x.ctx).gen → bits h 8 1 = 0 → bits h 9 1 = 0 →
      ∃ t, exec (.entryComplete c) s = .next t ∧ moves t now ∧ t = { s with time := t.time, chains := t.chains })
    ∧ (∀ k, e.gen = (s.ctx x.ctx).gen → bits h 8 1 = 0 → bits h 9 1 = 1 → signals k → (∀ f ∈ ws { s with time := now }, s.switched f.key = false) →
      ∃ t, exec (.entryComplete c) s = .next t ∧ moves t ((ws { s with time := now }).foldl (fun m f => max m f.tv) now)
        ∧ t = { s with time := t.time, chains := t.chains, sems := t.sems, devSems := t.devSems } ∧ adds t k)
    ∧ (e.gen = (s.ctx x.ctx).gen → bits h 8 1 = 1 → bits h 9 1 = 0 → words →
      ∃ t, exec (.entryComplete c) s = .next t ∧ moves t now ∧ wrote t)
    ∧ (∀ k, e.gen = (s.ctx x.ctx).gen → bits h 8 1 = 1 → bits h 9 1 = 1 → signals k → words →
        s.switched (s.keyAt (engineOf c) x.ctx x.cwaddr true) = false → (∀ f ∈ ws s, s.switched f.key = false) →
      ∃ t, exec (.entryComplete c) s = .next t ∧ moves t t.time ∧ s.time ≤ t.time ∧ ws t = [] ∧ wrote t ∧ adds t k)
    ∧ (∀ z, e.gen = (s.ctx x.ctx).gen → bits h 8 1 = 1 → s.cwWaits c x = false → x.cwaddr ≠ 0 →
        s.probe (engineOf c) x.ctx x.cwaddr 8 .store true false = some z → lossCause z.cause = false → now = s.time →
      ∃ t, exec (.entryComplete c) s = .next t ∧ t.chain c = { x with stopped := true, started := rest.filter (fun q => decide (q.pos < e.pos)) }
        ∧ t.sems = s.sems ∧ ∀ k, k ≠ chainKey c → Table.find t.chains k = Table.find s.chains k)
    ∧ (e.gen ≠ (s.ctx x.ctx).gen → bits h 8 1 = 0 ∨ s.cwWaits c x = false →
      ∃ t, exec (.entryComplete c) s = .next t ∧ moves t now ∧ t = { s with time := t.time, chains := t.chains, tens := t.tens }
        ∧ t.ten (s.ctx x.ctx).ten = { s.ten (s.ctx x.ctx).ten with discard := (s.ten (s.ctx x.ctx).ten).discard + 1 })

/-- R279, R340 to R344, R384, R385, R393, R394: the entries of Press chains, of collective chains and of service chains, and the acknowledgements that an
entry's writes to fabric pages wait for, one for each write. That a stop waits for the entries before it (log entry 32), what an append skips and how
it takes the space of trimmed records (log entry 36), and how the data of collectives arrives (log entry 37) are the model's choice. -/
def Obligations.PressAndCollectives : Prop :=
  ∀ (s u : State) (c : ChainRef) (b : List Byte),
    let x := s.chain c
    let f : Nat → Nat → Nat := fun lo n => leField b lo n
    let st := streamOf c
    (EntryAt s u c 0x10 b → 256 ≤ f 16 4 → f 16 4 ≤ 2 ^ 20 → f 16 4 % 256 = 0 → f 24 8 % 8 = 0 → f 20 4 = 0 → f 32 32 = 0 →
      let r := (List.range (f 16 4 / 256)).foldl (fun (acc : Move × List Byte) i =>
        let q := acc.1.read c x.ctx (wrap 64 (f 8 8 + 256 * i : Nat)) 256
        (q.1, acc.2 ++ q.2)) (Move.start u, [])
      r.1.over = false →
      let y := r.1.s.stream st
      let n := 256 + f 16 4
      let skip := if y.len < y.nextOff + n then y.len - y.nextOff else 0
      let off := if y.len < y.nextOff + n then 0 else y.nextOff
      let taken : PressRec → Bool := fun q => q.meets (y.len - skip) y.len || q.meets off (off + n)
      let kept := (y.recs.flatMap (fun q => q.left (y.len - skip) y.len)).flatMap (fun q => q.left off (off + n))
      let z := (r.1.s.reuse st (y.len - skip) y.len).reuse st off (off + n)
      (y.recs.any taken = false → z = r.1.s)
      ∧ (skip + n ≤ y.room → y.recs.any (fun q => q.meets off (off + n)) = true → y.pa + 4096 + y.len ≤ 2 ^ 52 →
          ∀ i, i < n → z.mem.read (flashKey (y.pa + (4096 + off)) + i) = 0xFF)
      ∧ (skip + n ≤ y.room →
        ∃ v, v = { z with streams := v.streams, chains := v.chains } ∧ v.chain c = { x with seq := y.last + 1 }
          ∧ v.stream st = { y with
              last := y.last + 1, nextOff := off + n,
              recs := kept ++ [⟨y.last + 1, off, skip, pressHeader st (y.last + 1) u.time r.2 ++ r.2⟩] }
          ∧ (∀ k, k ≠ st → v.stream k = r.1.s.stream k)
          ∧ (∀ k, k ≠ chainKey c → Table.find v.chains k = Table.find s.chains k)
          ∧ (let m : Move := if f 24 8 = 0 then { r.1 with s := v }
                else ({ r.1 with s := v } : Move).write c x.ctx (f 24 8) (leBytes (y.last + 1) 8) false
            m.over = false → ∃ t, exec (.pressAppend c) s = .next t
              ∧ StartedAs s m.s t c b (max u.time m.tv) m.await [] (seq := y.last + 1)))
      ∧ (y.room < skip + n → WordSound r.1.s c →
          ∃ t, exec (.pressAppend c) s = .next t ∧ ChainStops s r.1.s t c { cause := Cause.chain, detail := 1 }))
    ∧ (EntryAt s u c 0x11 b → f 8 56 = 0 →
      ∃ t, exec (.pressSync c) s = .next t ∧ StartedAs s u t c b u.time (.sync x.seq) [])
    ∧ (EntryAt s u c 0x12 b → f 16 48 = 0 →
      let y := u.stream st
      let keep := f 8 8
      (keep ≤ y.trimseq → keep ≤ y.dseq + 1 → ∃ t, exec (.pressTrim c) s = .next t ∧ StartedAs s u t c b u.time .ready [])
      ∧ (y.dseq + 1 < keep → WordSound u c → ∃ t, exec (.pressTrim c) s = .next t ∧ ChainStops s u t c { cause := Cause.chain })
      ∧ (y.trimseq < keep → keep ≤ y.dseq + 1 →
        let z : Stream := { y with trimseq := keep, head := match y.recs.find? (fun r => r.seq == keep && decide (r.seq ≤ y.dseq)) with
          | some r => r.off
          | none => y.tailoff }
        let r := (u.setStream st z).pressStore z 8 (leBytes keep 8 ++ leBytes z.head 8)
        ∃ t, exec (.pressTrim c) s = .next t ∧ StartedAs s r.1 t c b (max u.time r.2) .ready [] ∧ t.stream st = z
          ∧ ∀ k, k ≠ st → t.stream k = u.stream k))
    ∧ (∀ r ∈ ([(.collAllreduce c, 0x20), (.collAllgather c, 0x21), (.collRedscat c, 0x22), (.collAlltoall c, 0x23), (.collBcast c, 0x24)]
        : List (Instr × Nat)), EntryAt s u c r.2 b →
      ((∀ g, Table.find u.colls (collKey x.ctx (f 8 2)) = some g → CollOp.of b g.ranks = none) → WordSound u c →
          ∃ t, exec r.1 s = .next t ∧ ChainStops s u t c { cause := Cause.chain })
      ∧ ∀ g o, Table.find u.colls (collKey x.ctx (f 8 2)) = some g → CollOp.of b g.ranks = some o →
      o.root < g.ranks ∧ (f 10 2 ≠ g.attempt.toNat → WordSound u c → ∃ t, exec r.1 s = .next t ∧ ChainStops s u t c { cause := Cause.collAbort })
      ∧ (f 10 2 = g.attempt.toNat → o.ready g = false →
          ∃ t, exec r.1 s = .next t ∧ StartedAs s u t c b u.time (.coll (f 8 2) (f 10 2)) b)
      ∧ (f 10 2 = g.attempt.toNat → o.ready g = true → x.started = [] →
          let q := (Move.start u).readAll c x.ctx (f 16 8) (o.reads g * o.w)
          let m := q.1.writeAll c x.ctx (f 24 8) (o.result g q.2)
          q.1.over = false → m.over = false →
          ∃ t v, exec r.1 s = .next t ∧ StartedAs s v t c b (max u.time m.tv) m.await b ∧ v = { m.s with colls := v.colls }))
    ∧ (∀ reply : SvcReply, EntryAt s u c 0x30 b → f 12 4 = 0 → f 24 8 % 8 = 0 → f 32 32 = 0 →
      let v := (reply.writes.foldl (fun s w => s.firmwareWrite w.1 w.2) u).raiseVectors x.ctx reply.vectors
      let m := (Move.start v).write c x.ctx (f 24 8) (leBytes reply.word.toNat 8) false
      (s.fw.pending = false → m.over = false →
        ∃ t, exec (.svcreq c reply) s = .next t ∧ StartedAs s m.s t c b (max u.time m.tv) m.await [])
      ∧ (s.fw.pending = true → exec (.svcreq c reply) s = .next s))
    ∧ (let acks : Flight → Prop := fun a => (∃ e ∈ x.started, ∃ ids, e.await = .fabric ids ∧ a.id ∈ ids) ∧ s.time < a.tv ∧ s.reaches a.key = true
      (∀ pre a post, s.flight = pre ++ a :: post → acks a → (∀ q ∈ pre, ¬ acks q) →
        exec (.fabricWriteAck c) s = .next { s with flight := s.flight.map (fun q => if q.id = a.id then { q with tv := s.time } else q) })
      ∧ ((∀ a ∈ s.flight, ¬ acks a) → exec (.fabricWriteAck c) s = .next s)
      ∧ ∀ e ids, e.await = .fabric ids → (s.mayComplete c e = true ↔ ∀ a ∈ s.flight, a.id ∈ ids → s.waiting a = false))

-- Events inside a core, and service (R18, R25, R33, R160, R163, R190, R205, R206, R217, R281, R289, R295, R304, R305, R309, R310, R314, R346).

/-- R25, R160, R163, R190, R205, R206, R216, R217, R281, R295, R304, R311, R348, R403: a semaphore's waiters that its counter satisfies are served in order of
arrival, and a fragment among them wakes owing an acquire; a fragment asleep in MWAIT wakes at the store that performs, at its deadline, or
spuriously (each stands inside its block here). A held release is tried again once its group's horizon has come, or, where it has, once its stores
through the switch are acknowledged; a FENCE.rel then performs; a table walk sets A and installs its
translation, or loses the context where it meets poison; the next lease of a frame's read copies runs out; a halted group is tried again; a FLUSH
or INV ends. -/
def Obligations.CoreEvents : Prop :=
  (∀ (s : State) (core sem : Nat),
     let k := semKey core sem
     let r := serveWaiters k (Table.getD s.sems 0 k) s.semq
     ∃ t, exec (.semaphoreWake core sem) s = .next t ∧ t.semq = r.2.2 ∧ Table.getD t.sems 0 k = r.1
       ∧ (∀ j, j ≠ k → Table.getD t.sems 0 j = Table.getD s.sems 0 j) ∧ t.mem = s.mem ∧ t.time = s.time
       ∧ (∀ q c fi f, r.2.1 = [q] → q.who = .frag c fi → s.frag? c fi = some f → f.entered = true → f.idx < Hdr.length f.hdr →
           t.frag? c fi = some { f with
             st := .ready, acq := joinAcq f.acq (some (if s.devSems.contains k then 3 else if q.remote then 2 else 1)) })
       ∧ ∀ q c, r.2.1 = [q] → q.who = .chain c →
           t.chain c = { s.chain c with
             started := (s.chain c).started.map (fun e => if e.await = .sem then { e with await := .ready, tv := s.time } else e) })
  ∧ (∀ (s : State) (core fi n : Nat) (f : Fragment) (dl fire : Option Nat), s.frag? core fi = some f → f.st = .asleep (.mwait n dl fire) →
       f.entered = true → f.idx < Hdr.length f.hdr →
       let wakes : Instr → Nat → Prop := fun i now =>
         ∃ t, exec i s = .next t ∧ t = { s with time := now, frags := t.frags, groups := t.groups } ∧ t.frag? core fi = some { f with st := .ready }
           ∧ ∀ k, k ≠ fragKey core fi → Table.find t.frags k = Table.find s.frags k
       (∀ x, fire = some x → wakes (.mwaitWake core fi) (max s.time x))
       ∧ (∀ x, dl = some x → wakes (.mwaitTimeout core fi) (max s.time x))
       ∧ wakes (.spuriousWake core fi) s.time)
  ∧ (∀ (s : State) (core slot fi : Nat) (g : Group) (f : Fragment) (tm : Team) (i : Instr) (fm : FmtM) (fc : FmtC) (fe : FmtE) (fs : FmtS),
     s.group? core slot = some g → g.held = some (fi, i) → g.loads = [] → g.fence = none → s.frag? core fi = some f →
     Table.find s.teams g.tid = some tm →
     i ∈ [Instr.stl fm, .atom fm, .atomf fm, .cas fm, .bar fc, .barc fc, .ctail fe, .ctailOpen fe, .semadd fe, .publish fe, .enq fe, .svc fe,
       .fence fe, .errq fs] →
     let mine := s.flight.filter (fun f => f.core == core && f.slot == slot && s.switched f.key)
     let reached := mine.all (fun f => s.reaches f.key)
     let u : State := { s with
       time := if s.time < g.horizon then g.horizon else if reached then mine.foldl (fun m f => max m f.tv) s.time else s.time,
       cur := some ⟨core, slot, fi⟩,
       groups := Table.put s.groups (slotKey core slot) { g with
         unacked := if g.horizon ≤ s.time ∧ reached = true then 0 else g.unacked, held := none } }
     ∃ t, exec (.releasePerform core slot) s = .next t ∧ exec i u = .next t)
  ∧ (∀ (s : State) (core slot sc : Nat) (g : Group), s.group? core slot = some g → g.held = none → g.fence = some sc → g.loads = [] →
     g.horizon ≤ s.time → (∀ f ∈ s.flight, f.core = core → f.slot = slot → s.switched f.key = true → s.reaches f.key = true) →
     ∃ t, exec (.releasePerform core slot) s = .next t ∧ t = { s with time := t.time, groups := t.groups } ∧ s.time ≤ t.time
       ∧ t.group? core slot = some { g with unacked := 0, fence := none }
       ∧ (∀ f ∈ s.flight, f.core = core → f.slot = slot → s.switched f.key = true → f.tv ≤ t.time)
       ∧ ∀ k, k ≠ slotKey core slot → Table.find t.groups k = Table.find s.groups k)
  ∧ (∀ (s : State) (core ctx pte base size : Nat) (va val : Dword), s.walk ctx va.toNat = .leaf pte base size val → core < 720 →
       ∃ t, exec (.tableWalkComplete core ctx va) s = .next t
         ∧ t = { s with mem := t.mem, tlb := t.tlb, badBlocks := t.badBlocks, badSyms := t.badSyms, hbmStacks := t.hbmStacks }
         ∧ t.tlbHit core ctx va.toNat = some ⟨1, core, ctx, base, size, pte, val ||| BitVec.ofNat 64 (2 ^ 52)⟩
         ∧ t.mem.readNat pte 8 = s.mem.readNat pte 8 ||| 2 ^ 52 ∧ OnlyBytes s t pte 8)
  ∧ (∀ (s : State) (core ctx c : Nat) (va : Dword), s.walk ctx va.toNat = .poisoned c → (s.ctx ctx).mode = .live →
       ∃ t, exec (.tableWalkComplete core ctx va) s = .next t ∧ (t.ctx ctx).mode = .lost ∧ (t.ctx ctx).cause = c
         ∧ (t.ctx ctx).gen = ((s.ctx ctx).gen + 1) % 2 ^ 16)
  ∧ (∀ (s : State) (core frame l : Nat),
       let mine : Bolt → Nat → Prop := fun b x => b.cache = core ∧ b.frame = frame ∧ b.owned = false ∧ b.lease = some x
       (∃ b ∈ s.bolts, mine b l) → (∀ b ∈ s.bolts, ∀ x, mine b x → l ≤ x) →
       ∃ t, exec (.leaseExpiry core frame) s = .next t ∧ t = { s with time := max s.time l, bolts := t.bolts }
         ∧ ∀ b, b ∈ t.bolts ↔ b ∈ s.bolts ∧ ¬ ∃ x, mine b x ∧ x ≤ max s.time l)
  ∧ (∀ (s : State) (core slot fi need : Nat) (g : Group) (f : Fragment), s.group? core slot = some g → g.halted = some (fi, need) →
       s.frag? core fi = some f → f.inBlock → need ≤ (s.pool core).length →
       ∃ t g', exec (.fragExhaustedRetry core slot) s = .next t ∧ t.frag? core fi = some f.readied ∧ t.group? core slot = some g'
         ∧ g' = { g with halted := none, run := g'.run, passes := g'.passes }
         ∧ ∀ k, k ≠ fragKey core fi → Table.find t.frags k = Table.find s.frags k)
  ∧ ∀ (s : State) (core slot : Nat) (g : Group) (tm : Team) (op : RangeOp), s.group? core slot = some g → g.rangeOp = some op →
      Table.find s.teams g.tid = some tm → s.asksStall ((s.spans tm.ctx op.start op.len).flatMap (s.flushAsks core tm.ctx op)) = false →
      ∃ t, exec (.flushOrInvComplete core slot) s = .next t ∧ t.group? core slot = some { g with rangeOp := none }
        ∧ HomeOnly { s with groups := t.groups } t ∧ (∀ k, k ≠ slotKey core slot → Table.find t.groups k = Table.find s.groups k)
        ∧ (op.level = 0 → t.frags = s.frags ∧ ∀ sp ∈ s.spans tm.ctx op.start op.len, ∀ k, sp.1 ≤ k → k < sp.1 + sp.2 →
            (op.inv = true → t.boltOf core k = none) ∧ ∀ b, t.boltOf core k = some b → b.owned = false)

/-- R33, R305, R309, R346, R389: what service does with a parked remnant: it retries, resumes past its instruction, is redirected, or its lanes are
killed; of a saved team, at restore, for which its cluster is queued whole. A remnant that has waited too long gets a record. The end of a context
leaves nothing of it; that the context then stands live and empty, and may be used again, is the model's choice (log entry 18). -/
def Obligations.ServiceActions : Prop :=
  (∀ (s : State) (core : Nat) (fid : BitVec 8) (f : Fragment) (g : Group),
     let fi := fid.toNat % 64
     let ctx := s.ctxAt core f.slot
     s.frag? core fi = some f → f.st = .parked → s.fragId core fi = fid.toNat → s.group? core f.slot = some g →
     (f.inBlock → ∃ t, exec (.retry core fid) s = .next t ∧ t.frag? core fi = some f.readied)
     ∧ (f.noInstr = true → exec (.resumePast core fid) s = .next s)
     ∧ (f.noInstr = false → f.entered = true → f.idx + f.iwords < Hdr.length f.hdr →
         ∃ t g', exec (.resumePast core fid) s = .next t ∧ t.frag? core fi = some { f.readied with idx := f.idx + f.iwords }
           ∧ t.group? core f.slot = some g' ∧ g'.flags = g.flags &&& ~~~(f.raised.zeroExtend 32))
     ∧ (∀ dest : Dword, s.checkTarget core ctx dest.toNat = none →
         ∃ t, exec (.redirect core fid dest) s = .next t ∧ ∀ l, f.mask.getLsbD l = true →
           ∃ j f', t.frag? core j = some f' ∧ f'.mask.getLsbD l = true ∧ f'.blk = dest.toNat ∧ f'.idx = 0 ∧ f'.st = .ready ∧ f'.mend = false)
     ∧ (∀ (dest : Dword) (e : LaneFail), s.checkTarget core ctx dest.toNat = some e → lossCause e.cause = false →
         ∃ t, exec (.redirect core fid dest) s = .next t ∧ LanesGone t core f.slot f.mask)
     ∧ (∃ t, exec (.serviceKill core fid) s = .next t ∧ LanesGone t core f.slot f.mask
         ∧ ∀ g', t.group? core f.slot = some g' → g'.live = g.live &&& ~~~f.mask)
     ∧ ((s.ctx ctx).limit ≠ 0 →
         ∃ t, exec (.llServiceTimeout core fid) s = .next t ∧ t.frag? core fi = some f ∧ max s.time (f.since + (s.ctx ctx).limit + 1) ≤ t.time
           ∧ ∀ r, (s.ctx ctx).ring = some r → r.prod - r.cons < 2 ^ r.n - 1 → s.poisonIn (r.key + 64 * (r.prod % 2 ^ r.n)) 64 = none →
               (t.ctx ctx).ring = some { r with prod := r.prod + 1, lost := false }
               ∧ ((∀ i, i < 64 → s.dropsStore (r.key + 64 * (r.prod % 2 ^ r.n) + i) = false) → t.mem.readNat (r.key + 64 * (r.prod % 2 ^ r.n) + 8) 2 = Cause.serviceTimeout)))
  ∧ (∀ (s : State) (core tid : Nat) (fid : BitVec 8) (k : SavedTeam) (f : Fragment) (r : Ring), s.parkedAt core fid = none →
       s.savedAt core fid = some (tid, k) → Table.find k.frags (fid.toNat % 64) = some f → (s.ctx k.team.ctx).limit ≠ 0 →
       (s.ctx k.team.ctx).ring = some r → r.prod - r.cons < 2 ^ r.n - 1 → s.poisonIn (r.key + 64 * (r.prod % 2 ^ r.n)) 64 = none →
       ∃ t, exec (.llServiceTimeout core fid) s = .next t ∧ t.saved = s.saved ∧ max s.time (f.since + (s.ctx k.team.ctx).limit + 1) ≤ t.time
         ∧ (t.ctx k.team.ctx).ring = some { r with prod := r.prod + 1, lost := false })
  ∧ (∀ (s : State) (core tid : Nat) (fid : BitVec 8) (dest : Dword) (k : SavedTeam), s.parkedAt core fid = none → s.savedAt core fid = some (tid, k) →
       ∀ r ∈ ([(.retry core fid, .retry), (.resumePast core fid, .resume), (.redirect core fid dest, .redirect dest.toNat), (.serviceKill core fid, .kill)]
           : List (Instr × Resolution)),
         ∃ t, exec r.1 s = .next t ∧ t = { s with saved := t.saved }
           ∧ Table.find t.saved tid = some { k with pending := k.pending ++ [(fid.toNat % 64, r.2)], ready := true }
           ∧ ∀ j, j ≠ tid → Table.find t.saved j = (Table.find s.saved j).map (fun q =>
               if q.team.cluster = k.team.cluster then { q with ready := true } else q))
  ∧ (∀ (s : State) (c : Nat), 1024 ≤ c ∨ (s.ctx c).mode = .free → exec (.terminate c) s = .next s)
  ∧ ∀ (s : State) (c : Nat), c < 1024 → (s.ctx c).mode ≠ .free →
      ∃ t, exec (.terminate c) s = .next t ∧ s.time ≤ t.time
        ∧ ((∀ f ∈ s.flight, f.engines c = true → s.waiting f = false) → t.mem = s.mem ∧ t.time = s.time)
        ∧ (∀ f ∈ t.flight, f.engines c = true → f.tv ≤ t.time)
        ∧ t.ctx c = { s.ctx c with gen := ((s.ctx c).gen + 1) % 2 ^ 16, mode := .live, svcq := [], hostq := [], cause := 0 }
        ∧ (∀ e ∈ t.teams, e.2.ctx ≠ c) ∧ (∀ e ∈ t.saved, e.2.team.ctx ≠ c) ∧ (∀ e ∈ t.nodes, e.2.ctx ≠ c) ∧ (∀ e ∈ t.chains, e.2.ctx ≠ c)
        ∧ (∀ i ∈ t.invals, i.ctx ≠ c) ∧ (∀ o ∈ t.orphans, o.load.ctx ≠ c) ∧ (∀ e ∈ t.groups, ∀ tm, Table.find s.teams e.2.tid = some tm → tm.ctx ≠ c)
        ∧ ∀ j, j ≠ c → t.ctx j = s.ctx j

/-- R229, R289, R303, R310, R314, R375: a team that the Cutter has asked to stop, and one that has been stuck for its descheduling time, leaves its core,
and its groups and fragments are kept; the first is queued for restore. Its groups stand at instruction boundaries here with nothing under way,
it holds no chain, and of its cluster it alone stands on a core; a cluster of more is descheduled whole or not at all. A team of a frozen context
stays. That YIELD's passes end with it is the model's choice (log entry 65). -/
def Obligations.SavingTeams : Prop :=
  ∀ (s : State) (tid : Nat) (tm : Team), Table.find s.teams tid = some tm →
    let slots := s.slotsOf tid tm.core
    let stuck := s.stuckNow tid tm.core = true ∧ (∃ t0, tm.stuck = some t0 ∧ t0 + (s.ctx tm.ctx).descT ≤ s.time) ∧ (s.ctx tm.ctx).mode = .live
    ((s.ctx tm.ctx).mode = .frozen → ∀ i ∈ ([.teamSave tid, .llDesched tid] : List Instr), exec i s = .next s)
    ∧ (¬ stuck → exec (.llDesched tid) s = .next s)
    ∧ (stuck → ∃ t, exec (.llDesched tid) s = .next t ∧ (t = s ∨ ∀ p ∈ s.peersOf tm.cluster, (Table.find t.saved p).isSome = true))
    ∧ ∀ r ∈ ([(.teamSave tid, true, Cause.preempt), (.llDesched tid, false, Cause.desched)] : List (Instr × Bool × Nat)),
      (if r.2.1 then tm.stopping = true ∧ (s.ctx tm.ctx).mode ≠ .frozen else stuck ∧ s.peersOf tm.cluster = [tid]) →
      slots ≠ [] → (∀ k ∈ slots, s.quiesce tm.core k = s ∧ s.stopped tm.core k = true) → s.chainsOf tid tm.core = [] →
      ∃ t k, exec r.1 s = .next t ∧ t.time = s.time ∧ t.mem = s.mem ∧ Table.find t.saved tid = some k ∧ Table.find t.teams tid = none
        ∧ k.team = tm ∧ k.ready = r.2.1 ∧ k.pending = []
        ∧ (∀ e ∈ t.groups, e.2.tid ≠ tid)
        ∧ (∀ j ∈ slots, ∀ g, s.group? tm.core j = some g → Table.find k.groups j = some { g with
            win := g.win.filter (fun e => decide (e.1 < s.keptLines tm.core j g)), horizon := 0, unacked := 0, floor := 0, fence := none, run := none,
            passes := [] })
        ∧ (∀ fi f, fi < 64 → s.frag? tm.core fi = some f → f.slot ∈ slots → Table.find k.frags fi = some f ∧ t.frag? tm.core fi = none)
        ∧ (t.devlog.drop s.devlog.length).map (fun e => (e.cause, e.core)) = [(r.2.2, tm.core)]

-- Translation, flash, the Press (R160 to R162, R165, R212, R269, R309, R336, R337, R339 to R343, R350, R405).

/-- R43, R161, R162, R165, R212, R309, R336, R337: entries are written by service firmware, and executable ones by the loader alone, the instruction
caches giving up what they hold before a page's X changes; a change of mappings
begins an invalidation; at its end no core keeps a translation of the range, and a PUBLISH's exchanges the physical pages of an entry and its
shadow. A block that flash has read is resident, and the lanes parked for it, and for a block that can be read again, retry. -/
def Obligations.TranslationAndFlash : Prop :=
  (∀ (s : State) (loader : Bool) (key : Nat) (v : Dword),
     (Pte.x v = true ∧ loader = false → ∃ t, exec (.mapEntryWrite loader key v) s = .next t ∧ RefusedTo s t 64)
     ∧ (Pte.x v = false ∨ loader = true →
       ∃ t, exec (.mapEntryWrite loader key v) s = .next t ∧ t = { s with mem := t.mem, icache := t.icache } ∧ t.mem.readNat key 8 = v.toNat
         ∧ OnlyBytes s t key 8
         ∧ t.icache = if Pte.x v = true ∨ Pte.x (BitVec.ofNat 64 (s.mem.readNat key 8)) = true then [] else s.icache))
  ∧ (∀ (s : State) (c : Nat) (va len : Dword) (ws : List (Nat × Dword)), (∀ e ∈ ws, Pte.x e.2 = false) →
       ∃ t, exec (.mappingChange c va len ws) s = .next t
         ∧ t = { s with mem := t.mem, icache := t.icache, invals := s.invals ++ [⟨c, va.toNat, len.toNat, none⟩] }
         ∧ (∀ j, (∀ e ∈ ws, j < e.1 ∨ e.1 + 8 ≤ j) → t.mem.read j = s.mem.read j)
         ∧ (ws.Pairwise (fun a b => a.1 + 8 ≤ b.1 ∨ b.1 + 8 ≤ a.1) → ∀ e ∈ ws, t.mem.readNat e.1 8 = e.2.toNat))
  ∧ (∀ (s : State) (c : Nat) (va len : Dword) (i : Inval),
       s.invals.find? (fun i => i.ctx == c && i.start == va.toNat && i.len == len.toNat) = some i →
       ∃ t, exec (.invalidationComplete c va len) s = .next t
         ∧ (∀ j, j ∈ t.invals ↔ j ∈ s.invals ∧ j ≠ i)
         ∧ (∀ e, e ∈ t.tlb ↔ e ∈ s.tlb ∧ ¬ (e.ctx = c ∧ e.base < va.toNat + len.toNat ∧ va.toNat < e.base + e.size))
         ∧ (i.publish = none → t.mem = s.mem)
         ∧ (∀ pte, i.publish.isSome = true → s.shadowed c va.toNat len.toNat = [pte] →
             (∀ b, b < 64 → (t.mem.readNat pte 8).testBit b
                 = (s.mem.readNat (if b = 6 ∨ b = 7 ∨ 12 ≤ b ∧ b < 52 then pte + 4096 else pte) 8).testBit b
               ∧ (t.mem.readNat (pte + 4096) 8).testBit b
                 = (s.mem.readNat (if b = 6 ∨ b = 7 ∨ 12 ≤ b ∧ b < 52 then pte else pte + 4096) 8).testBit b)
             ∧ ∀ j, (j < pte ∨ pte + 8 ≤ j) → (j < pte + 4096 ∨ pte + 4104 ≤ j) → t.mem.read j = s.mem.read j))
  ∧ ∀ (s : State) (b : Nat),
      let parked : Nat → List (Nat × Fragment) := fun c => s.frags.filter (fun e => e.2.st == .parked && e.2.cause == c)
      (s.reading.contains b = true → s.busy.contains b = false →
        ∃ t, exec (.flashBlockArrival b) s = .next t ∧ (∀ x, x ∈ t.resident ↔ x ∈ s.resident ∨ x = b) ∧ (∀ x, x ∈ t.reading ↔ x ∈ s.reading ∧ x ≠ b)
          ∧ t.mem = s.mem
          ∧ ∀ k f, parked Cause.flashWait = [(k, f)] → Table.find s.frags k = some f → f.inBlock → (∃ l ∈ f.blocks, l ≠ [] ∧ ∀ x ∈ l, x = b) →
              Table.find t.frags k = some f.readied)
      ∧ (s.reading.contains b = false ∨ s.busy.contains b = true → exec (.flashBlockArrival b) s = .next s)
      ∧ (∃ t, exec (.blockEraseOrRelocationStart b) s = .next t ∧ t = { s with busy := t.busy } ∧ ∀ x, x ∈ t.busy ↔ x ∈ s.busy ∨ x = b)
      ∧ (∃ t, exec (.blockEraseOrRelocationEnd b) s = .next t ∧ (∀ x, x ∈ t.busy ↔ x ∈ s.busy ∧ x ≠ b) ∧ t.mem = s.mem
          ∧ ∀ k f, parked Cause.flashStall = [(k, f)] → Table.find s.frags k = some f → f.inBlock → (∃ l ∈ f.blocks, b ∈ l) →
              Table.find t.frags k = some f.readied)

/-- R269, R339 to R343, R350, R405: the Press posts a stream's next record, its bytes before the control page that counts it; a stream is bound to a
context over a region of flash, whose log then reads 0xFF where the region is new; a binding ends, and its chain is closed. That the chain's stop waits
for the entries before it (log entry 32), which complete after the close (log entry 44), and that TAILOFF stands at the log's length where a
record ends there (log entry 36), are the model's choice. -/
def Obligations.PressStreams : Prop :=
  (∀ (s : State) (n : Nat),
     let x := s.stream n
     (x.recs.find? (fun r => r.seq == x.dseq + 1) = none → exec (.recordPost n) s = .next s)
     ∧ ∀ r, x.recs.find? (fun r => r.seq == x.dseq + 1) = some r → x.pa + 4096 + x.len ≤ 2 ^ 52 → r.off + r.bytes.length ≤ x.len → r.skip ≤ x.len →
       ∃ t, exec (.recordPost n) s = .next t ∧ s.time ≤ t.time
         ∧ t.stream n = { x with dseq := r.seq, tailoff := r.off + r.bytes.length, head := (t.stream n).head }
         ∧ (∀ j, j ≠ n → t.stream j = s.stream j)
         ∧ (∀ i, i < r.bytes.length → t.mem.read (flashKey (x.pa + (4096 + r.off)) + i) = r.bytes.getD i 0)
         ∧ t.mem.readNat (flashKey x.pa) 8 = r.seq % 2 ^ 64 ∧ t.mem.readNat (flashKey x.pa + 24) 8 = (r.off + r.bytes.length) % 2 ^ 64
         ∧ t.mem.readNat (flashKey x.pa + 16) 8 = (t.stream n).head % 2 ^ 64)
  ∧ (∀ (s : State) (n c va pa len : Nat),
       let x := s.stream n
       (x.ctx.isSome = true ∨ regionGood n va pa len = false ∨ 1024 ≤ c ∨ (s.ctx c).mode = .free → exec (.streamBind n c va pa len) s = .next s)
       ∧ (x.ctx = none → regionGood n va pa len = true → c < 1024 → (s.ctx c).mode ≠ .free →
         ∃ t, exec (.streamBind n c va pa len) s = .next t ∧ (∀ j, j ≠ n → t.stream j = s.stream j)
           ∧ t.stream n = (if x.pa = pa ∧ x.len = len then { x with ctx := some c, va := va }
               else { Stream.fresh with ctx := some c, va := va, pa := pa, len := len })
           ∧ t.mem.readNat (flashKey pa) 8 = (t.stream n).dseq % 2 ^ 64 ∧ t.mem.readNat (flashKey pa + 8) 8 = (t.stream n).trimseq % 2 ^ 64
           ∧ t.mem.readNat (flashKey pa + 24) 8 = (t.stream n).tailoff % 2 ^ 64 ∧ t.mem.readNat (flashKey pa + 32) 8 = len
           ∧ (¬ (x.pa = pa ∧ x.len = len) → ∀ i, i < len → t.mem.read (flashKey (pa + 4096) + i) = 0xFF)))
  ∧ ∀ (s : State) (n : Nat), n < 256 →
      let c := ChainRef.press n
      ((s.stream n).ctx = none → exec (.streamUnbind n) s = .next s)
      ∧ ((s.stream n).ctx.isSome = true →
        ∃ t, exec (.streamUnbind n) s = .next t ∧ t.stream n = { s.stream n with ctx := none } ∧ (t.chain c).isOpen = false
          ∧ ((s.chain c).isOpen = true → (s.chain c).stopped = false → WordSound s c →
              ∃ v, ChainStops s s v c { cause := Cause.chain } ∧ t.chain c = { v.chain c with isOpen := false })
          ∧ ((s.chain c).isOpen = false ∨ (s.chain c).stopped = true → t = { s with chains := t.chains, streams := t.streams }))

-- The Cutter (R282 to R290, R298, R300, R315, R386).

/-- R14, R71, R284 to R287, R386, R390: the host submits a node, or is refused; the Cutter dispatches the node whose turn has come: it fails with its
reason, joins the host's queue, gets a chain of its own, or is placed, a closed grid whole and an open one cluster by cluster; a core admits a team
whole, with groups and fragments at the kernel's entry. That a host submission takes the credits of its address (log entry 31; R285 names ENQ alone),
that one dispatch places a closed grid whole (log entry 41), and that the leader is the lowest live die among those that DIES names (log entry
87), are the model's choice. -/
def Obligations.Dispatch : Prop :=
  (∀ (s : State) (c : Nat) (addr : Dword),
     let d := s.loadVa hostCore 0 c addr.toNat 128
     let good := s.accept.isSome = true ∧ (s.ctx c).mode = .live ∧ addr.toNat % 128 = 0 ∧ s.poolAccepts = true
     let probe := s.probe hostCore c addr.toNat 128 .load false false
     (¬ good ∨ (∃ e, probe = some e ∧ lossCause e.cause = false) → ∃ t, exec (.hostSubmission c addr) s = .next t ∧ RefusedTo s t (s.ctx c).ten)
     ∧ (good → probe = none → d.2.2 = [] →
       let held := Table.getD s.credits 0 (creditKey c addr.toNat)
       ∃ t n, exec (.hostSubmission c addr) s = .next t ∧ Table.find t.nodes s.order = some n ∧ n.ctx = c ∧ n.addr = addr.toNat ∧ n.desc = d.1
         ∧ n.origin = 1023 ∧ n.team = none ∧ n.pred = leField d.1 12 2 - held ∧ n.st = (if leField d.1 12 2 ≤ held then .ready else .waiting)
         ∧ t.order = s.order + 1 ∧ Table.find t.credits (creditKey c addr.toNat) = none
         ∧ t = { s with nodes := t.nodes, order := t.order, credits := t.credits }))
  ∧ (∀ (s : State) (nid : Nat) (n : Node), Table.find s.nodes nid = some n →
       (n.exec = 1 → n.st = .placed →
         ∃ t, exec (.hostNodeDone nid) s = .next t ∧ Table.find t.nodes nid = some { n with st := .done }
           ∧ (t.ctx n.ctx).hostq = (s.ctx n.ctx).hostq.filter (· != nid) ∧ ∀ k, k ≠ nid → Table.find t.nodes k = Table.find s.nodes k)
       ∧ (n.exec ≠ 1 ∨ n.st ≠ .placed → exec (.hostNodeDone nid) s = .next s))
  ∧ (∀ (s : State) (nid origin p : Nat) (n : Node) (k : Pick), Table.find s.nodes nid = some n → (s.ctx n.ctx).mode = .live → n.st = .ready →
       s.pickNode = some (p, k) →
       let becomes : (Node → Node) → (State → Prop) → Prop := fun f more =>
         ∃ t, exec (.nodeDispatch nid origin) s = .next t ∧ (∃ o, Table.find t.nodes nid = some { f n with order := o }) ∧ t.mem = s.mem ∧ more t
       (k.nid ≠ nid ∨ s.outranked p = true → exec (.nodeDispatch nid origin) s = .next s)
       ∧ (k.nid = nid → s.outranked p = false →
         (∀ z, s.verdict n = .fail z → becomes (fun n => { n with st := .done, reason := z.cause, malf := z.malf, psn := z.psn })
           (fun t => t.teams = s.teams ∧ t.groups = s.groups))
         ∧ (∀ ps, s.verdict n = .lost ps → ∃ t, exec (.nodeDispatch nid origin) s = .next t ∧ (t.ctx n.ctx).mode = .lost)
         ∧ (∀ ws, s.verdict n = .good ws →
           (n.exec = 1 → becomes (fun n => { n with st := .placed }) (fun t => (t.ctx n.ctx).hostq = (s.ctx n.ctx).hostq ++ [nid]))
           ∧ (n.exec = 2 → becomes (fun n => { n with st := .placed }) (fun t => t.teams = s.teams ∧
               let x := t.chain (n.ref nid ((s.leaderOf n).getD 0))
               x.isOpen = true ∧ x.ctx = n.ctx ∧ x.base = n.entry ∧ x.nxt = 0 ∧ x.tail = 1 ∧ x.started = []))
           ∧ (∀ u, n.exec = 0 → n.isOpen = false → s.inQuota n (s.seatAll nid n ws 0) = some u →
               becomes (fun n => { n with st := .placed, granted := n.teams, next := n.nclus })
                 (fun t => t.teams = u.teams ∧ t.groups = u.groups ∧ t.frags = u.frags))
           ∧ (∀ u, n.exec = 0 → n.isOpen = true → s.placeCluster nid n origin = some u →
               becomes (fun m => { m with st := .placed, granted := m.granted + m.width, next := m.next + 1, leader := (s.leaderOf m).getD 0 })
                 (fun t => t.teams = u.teams ∧ t.groups = u.groups ∧ t.frags = u.frags)))))
  ∧ (∀ (s : State) (nid origin : Nat) (n : Node), Table.find s.nodes nid = some n → (s.ctx n.ctx).mode = .live → n.st = .placed → n.exec = 0 →
       n.isOpen = true →
       (∀ u, s.placeCluster nid n origin = some u → exec (.nodeDispatch nid origin) s = .next u)
       ∧ (s.placeCluster nid n origin = none → exec (.nodeDispatch nid origin) s = .next s))
  ∧ ∀ (s u : State) (nid core clus num : Nat) (n : Node), s.seat nid n core clus num = some u →
      ∃ tm, Table.find u.teams s.order = some tm ∧ u.order = s.order + 1 ∧ u.mem = s.mem
        ∧ tm.ctx = n.ctx ∧ tm.node = nid ∧ tm.core = core ∧ tm.clus = clus ∧ tm.num = num ∧ tm.gpt = n.gpt ∧ tm.slots.length = n.gpt ∧ tm.slots.Nodup
        ∧ tm.semCnt = n.sems ∧ tm.handles.length = n.handles
        ∧ (∀ k ∈ tm.slots, (s.slotsTaken core).contains k = false) ∧ (∀ i, i < n.sems → (s.semsTaken core).contains (tm.semBase + i) = false)
        ∧ ∀ j k, tm.slots[j]? = some k → k < 16 ∧ u.frag? core k = some (Fragment.first k n.entry)
            ∧ ∃ r, u.group? core k = some { Group.fresh s.order j n.lines n.dup with run := r }

/-- R25, R27, R284, R285, R289, R298, R300, R315, R386, R393: a node that is over leaves the pool, and its completion word or semaphore is written; a
predecessor's completion counts a waiting node down, or leaves a credit; pre-emption asks the chosen teams to stop; the queued teams of a cluster are
put back together where nothing of a lower PRIO goes first, each on its core as it was, but for its core, its RST bit, the wake of MWAIT and the
read copies of the core's L1, which go, and the barriers that stand complete then complete; service writes the reply of the oldest request, unless a
switch of firmware waits and the call was not in service when the switch was asked for. -/
def Obligations.CutterEvents : Prop :=
  (∀ (s : State) (nid : Nat) (n : Node), Table.find s.nodes nid = some n → s.nodeOver nid n = true → (s.ctx n.ctx).mode = .live → n.nsucc = 0 →
     (∀ o ∈ s.orphans, o.node ≠ nid) → s.acked n.acks = true → s.poolUsed ≤ 16384 →
     let reason := if n.reason = 0 ∧ n.lost ≠ 0 then 0x207 else n.reason
     let va := n.doneAt
     let key := s.keyAt hostCore n.ctx va true
     (n.csem = true →
       ∃ t, exec (.nodeComplete nid) s = .next t ∧ Table.find t.nodes nid = none ∧ max s.time n.horizon ≤ t.time
         ∧ (∀ k, k ≠ nid → Table.find t.nodes k = Table.find s.nodes k)
         ∧ (∀ tid j, s.doneTeam n = some tid → n.team.isSome = true → s.teamEnded tid = false → s.semRef tid false 0 (bits va 0 6) = some (.live j) →
             Table.getD t.sems 0 j = min (2 ^ 32 - 1) (Table.getD s.sems 0 j + 1))
         ∧ (n.team.isSome = true → (∀ tid, s.doneTeam n = some tid → s.teamEnded tid = true) → t.sems = s.sems
             ∧ (t.ten (s.ctx n.ctx).ten).dropInc = (s.ten (s.ctx n.ctx).ten).dropInc + 1))
     ∧ (bits va 15 1 = 0 → s.doneTeam n = n.team)
     ∧ (bits va 15 1 = 1 → ∀ e, s.teams.find? (fun e => e.2.cluster == n.cluster && e.2.num == bits va 8 7) = some e → s.doneTeam n = some e.1)
     ∧ (n.csem = false → s.invalidating n.ctx va = false →
       (∀ e, s.probe hostCore n.ctx va 8 .store true false = some e → lossCause e.cause = false) →
       ∃ t, exec (.nodeComplete nid) s = .next t ∧ Table.find t.nodes nid = none ∧ (∀ k, k ≠ nid → Table.find t.nodes k = Table.find s.nodes k)
         ∧ (va ≠ 0 → va % 8 = 0 → s.probe hostCore n.ctx va 8 .store true false = none → (∀ r, s.touch hostCore n.ctx va r = s) →
             key % 8 = 0 → s.dropsStore key = false → (s.ctx n.ctx).ring = none →
             t.mem.readNat key 8 = (reason * 2 ^ 48 + n.lost * 2 ^ 24 + 1) % 2 ^ 64 ∧ OnlyBytes s t key 8)))
  ∧ (∀ (s : State) (c addr : Nat),
       let t := (s.decrement c addr).1
       (∀ k n, s.nodes.find? (fun e => e.2.ctx == c && e.2.addr == addr && e.2.st == .waiting && e.2.pred != 0) = some (k, n) →
         t = { s with nodes := t.nodes } ∧ Table.find t.nodes k = some { n with pred := n.pred - 1 }
           ∧ (∀ j, j ≠ k → Table.find t.nodes j = Table.find s.nodes j) ∧ (s.decrement c addr).2 = (if n.pred ≤ 1 then some k else none))
       ∧ (s.nodes.find? (fun e => e.2.ctx == c && e.2.addr == addr && e.2.st == .waiting && e.2.pred != 0) = none →
         t = { s with credits := t.credits } ∧ (s.decrement c addr).2 = none
           ∧ Table.getD t.credits 0 (creditKey c addr) = Table.getD s.credits 0 (creditKey c addr) + 1))
  ∧ (∀ (s : State) (nid : Nat) (tids : List Nat) (n : Node), Table.find s.nodes nid = some n → n.st = .ready → (s.ctx n.ctx).mode = .live →
       s.placeable nid n = false → tids ≠ [] → s.choiceGood n tids = true →
       ∃ t, exec (.preempt nid tids) s = .next t ∧ t = { s with teams := t.teams }
         ∧ ∀ k, Table.find t.teams k
             = (Table.find s.teams k).map (fun tm => if tids.contains k then { tm with stopping := true } else tm))
  ∧ (∀ (s : State) (tid core : Nat) (k : SavedTeam), Table.find s.saved tid = some k →
       (k.ready = false → exec (.restore tid core) s = .next s)
       ∧ (∀ n, Table.find s.nodes k.team.node = some n → (s.ctx n.ctx).mode = .live → s.outranked (s.prioSaved k) = false →
           (∀ e ∈ s.nodes, e.2.st = .ready → (s.ctx e.2.ctx).mode = .live → s.prioOf e.2 < s.prioSaved k → s.placeable e.1 e.2 = false) →
         (s.inQuota n (s.restoreCluster tid core) = none → exec (.restore tid core) s = .next s)
         ∧ (∀ u, s.inQuota n (s.restoreCluster tid core) = some u → exec (.restore tid core) s = .next u)
         ∧ (k.ready = true → s.queued k.team = [(tid, k)] → rectCore (s.widthOf k.team.node) core k.team.num k.team.num = some core →
             s.canRestore core tid k = true → s.restoreCluster tid core = some (s.restore tid core)))
       ∧ (k.ready = true → s.canRestore core tid k = true → k.pending = [] → k.waits = [] → (k.groups.map Prod.fst).Nodup →
         (k.frags.map Prod.fst).Nodup → (∀ e ∈ k.groups, e.1 < 16) → (∀ e ∈ k.frags, e.1 < 64) → k.sems.length = k.team.semCnt →
         k.team.semBase + k.team.semCnt ≤ 64 →
         ∃ t : State, s.restore tid core = t.barriers tid ∧ Table.find t.saved tid = none ∧ t.mem = s.mem ∧ t.time = s.time
           ∧ Table.find t.teams tid = some { k.team with
               core := core, twin := k.team.twin.map (fun _ => core + 1), stuck := none, stopping := false }
           ∧ (∀ e ∈ k.groups, ∃ g', t.group? core e.1 = some g'
               ∧ g' = { e.2 with status := e.2.status ||| 2, run := g'.run, passes := g'.passes })
           ∧ (∀ e ∈ k.frags, t.frag? core e.1 = some e.2.restored)
           ∧ (∀ b ∈ t.bolts, b.cache = core → b.owned = true)
           ∧ ∀ i, i < k.team.semCnt → Table.getD t.sems 0 (semKey core (k.team.semBase + i)) = k.sems.getD i 0))
  ∧ ∀ (s : State) (c : Nat) (v : Dword) (q : SvcReq) (rest : List SvcReq), (s.ctx c).svcq = q :: rest →
      (s.fw.pending = true → q.old = false → exec (.svcReply c v) s = .next s)
      ∧ (s.fw.pending = false ∨ q.old = true → s.invalidating c q.reply.toNat = false →
      let u : State := s.updCtx c (fun x => { x with svcq := rest })
      let key := u.keyAt hostCore c q.reply.toNat true
      (∀ e, u.probe hostCore c q.reply.toNat 8 .store true false = some e → lossCause e.cause = false) →
      ∃ t, exec (.svcReply c v) s = .next t ∧ (t.ctx c).svcq = rest ∧ (∀ j, j ≠ c → t.ctx j = s.ctx j)
        ∧ (u.probe hostCore c q.reply.toNat 8 .store true false = none → u.touch hostCore c q.reply.toNat true = u → key % 8 = 0 →
            u.dropsStore key = false → t.mem.readNat key 8 = v.toNat ∧ OnlyBytes s t key 8))

-- Homes, ranges, patterns (R353 to R368), management (R11, R387 to R392).

/-- R357, R361, R363 to R365, R371, R383: a frame's home looks an event up in the pattern of the frame: a rule that stalls holds the event, and any other
gives the entry's next state, sharers and awaited acknowledgements; no byte of memory changes. A requester that the home does not know, and at the
switch a further reader of a frame that 64 share, changes nothing; the home die's own cores take no part in a pattern, but at the switch. The switch, when full, first recalls the frame that it has tracked longest. The
oldest push to a die about a frame is written into every read copy of the die that covers it. The pattern keeps no masks here, nothing is held, and
the frame is not the switch's, or is shared already. What EVC, ACK and DATA change beside the table's rule, sharers and awaited agents, is the
model's choice (log entry 23). -/
def Obligations.HomeEvents : Prop :=
  (∀ (s : State) (r : HomeReq),
     let d := s.dir r.frame
     ∀ e ∈ ([(.homeRd r, 0), (.homeRdx r, 1), (.homeUpg r, 2), (.homeWr r, 3), (.homeAt r, 4), (.homeEvc r, 5), (.homeWb r, 6), (.homeAck r, 7),
         (.homeData r, 8), (.homeFl r, 9), (.homeIv r, 10), (.homeZr r, 11)] : List (Instr × Nat)),
       let left := d.awaited.filter (· != r.req)
       let d1 : Dir := if e.2 = 5 then { d with sharers := d.sharers.filter (· != r.req) }
         else if e.2 = 7 ∨ e.2 = 8 then { d with awaited := left, wait := if left = [] then 0 else d.wait } else d
       let x := ((s.patternAt r.frame).at d.st e.2).toNat
       let has : Nat → Bool := fun b => bits x b 1 == 1
       let stay := if has 8 then [] else d1.sharers
       (s.knows r = false ∨ s.crowded e.2 r = true → exec e.1 s = .next s)
       ∧ (s.knows r = true → s.crowded e.2 r = false → s.masked r.frame = false → d.held = [] →
           (s.switched (r.frame * 256) = false ∨ d.sharers ≠ []) →
         ∃ t, exec e.1 s = .next t ∧ HomeOnly s t ∧ (∀ f, f ≠ r.frame → t.dir f = s.dir f)
           ∧ t.marks = (if e.2 = 11 then s.marks.filter (fun k => k / 64 != r.frame) else s.marks)
           ∧ (has 14 = true → t.dir r.frame = { d1 with held := [⟨e.2, r, none⟩] })
           ∧ (has 14 = false →
               let d2 := t.dir r.frame
               d2.st = bits x 0 4 ∧ d2.held = [] ∧ d2.wait = bits x 24 4
                 ∧ d2.sharers = (if (has 7 ∨ has 10) ∧ s.partakes r = true then insertNat stay r.req else stay)
                 ∧ d2.awaited = (if has 6 ∨ bits x 24 4 = 2 then d1.sharers.filter (· != r.req) else d1.awaited))))
  ∧ (∀ (s : State) (r : HomeReq), s.switched (r.frame * 256) = true → (s.dir r.frame).sharers = [] → Config.switchFrames < s.tracked.length →
       ∃ f d n, (f, d) ∈ s.tracked ∧ (∀ x ∈ s.tracked, d.since ≤ x.2.since ∧ x.2.since < n)
         ∧ let u := s.homeRule EV.rcl ⟨f, 4096, 0⟩
           s.makeTracked r = u.setDir r.frame { u.dir r.frame with since := n })
  ∧ ∀ (s : State) (die key : Nat) (w : Slot) (p : Push),
      let first := s.pushes.find? (fun p => p.die == die && p.key / 256 == key / 256)
      (first = none → exec (.pushApply die key w) s = .next s)
      ∧ (first = some p → p.key ≠ key ∨ p.word ≠ w → exec (.pushApply die key w) s = .next s)
      ∧ (first = some p → p.key = key → p.word = w →
        let lo := 8 * (key % 256 / 4 * 4)
        ∃ t, exec (.pushApply die key w) s = .next t ∧ t.pushes = s.pushes.erase p ∧ HomeOnly s t ∧ t.bolts.length = s.bolts.length
          ∧ t.flight = s.flight.map (fun f =>
              if f.key / 4 * 4 = key / 4 * 4 ∧ f.id ≤ p.id then { f with seen := insertNat f.seen (proxyOf die) } else f)
          ∧ ∀ (i : Nat) (b : Bolt), s.bolts[i]? = some b → ∃ b', t.bolts[i]? = some b'
              ∧ (if b.ofReq die = true ∧ b.frame = key / 256 ∧ b.owned = false ∧ b.lo ≤ key % 256 / 16 ∧ key % 256 / 16 < b.hi then
                  b' = { b with data := b'.data, poison := b'.poison } ∧ b'.data.extractLsb' lo 32 = w
                    ∧ (∀ g, g < 16 → b'.poison.getLsbD g = (b.poison.getLsbD g && !(p.whole && g == key % 256 / 16)))
                    ∧ ∀ j, j < lo ∨ lo + 32 ≤ j → b'.data.getLsbD j = b.data.getLsbD j
                else b' = b))

/-- R355 to R357, R363, R366 to R368, R387, R390: an entry of the range table is written, or refused; the frames of its old and new ranges then have
no copy but in their home slices. A write of PLCMD stores its fields; with GO set an image is loaded into a pattern slot, or refused with its
reason. -/
def Obligations.RangesAndPatterns : Prop :=
  (∀ (s : State) (ten idx : Nat) (w0 w1 w2 w3 : Dword),
     let e := rangeEntry w0 w1 w2
     let bad := 64 ≤ idx ∨ e.ten ≠ ten ∨ (∃ o, Table.find s.ranges idx = some o ∧ o.valid = true ∧ o.ten ≠ ten) ∨ s.rangeRefused idx w0 w1 w2 w3 = true
     let hit : Nat → Prop := fun f => (∃ o, Table.find s.ranges idx = some o ∧ o.covers f = true) ∨ e.covers f = true
     (bad → ∃ t, exec (.rangeEntryWrite ten idx w0 w1 w2 w3) s = .next t ∧ RefusedTo s t ten)
     ∧ (¬ bad →
       ∃ t, exec (.rangeEntryWrite ten idx w0 w1 w2 w3) s = .next t ∧ Table.find t.ranges idx = some e
         ∧ (∀ k, k ≠ idx → Table.find t.ranges k = Table.find s.ranges k) ∧ t.mem = s.mem ∧ t.groups = s.groups
         ∧ ((∀ f, (s.dir f).held = []) → ∀ f, hit f →
             t.dir f = { Dir.empty with since := (s.dir f).since } ∧ ∀ b ∈ t.bolts, b.cache < 2048 → b.frame ≠ f)))
  ∧ ∀ (s : State) (cmd : BitVec 32),
      let slot := bits cmd.toNat 0 4
      let ten := bits cmd.toNat 16 6
      let img := s.mem.reads (keyOf 0 s.plsrc.toNat) 1056
      let u : State := { s with plcmd := cmd &&& 0x003F000F }
      (cmd.getLsbD 31 = false → exec (.patternLoad cmd) s = .next u)
      ∧ (cmd.getLsbD 31 = true →
        (s.feature 1 = false → ∃ t, exec (.patternLoad cmd) s = .next t ∧ t.patterns = s.patterns ∧ bits t.plstat.toNat 16 14 = 0x0A)
        ∧ (s.feature 1 = true →
          (s.imageBad slot ten img = none →
            ∃ t, exec (.patternLoad cmd) s = .next t ∧ t = { u with patterns := t.patterns, plstat := BitVec.ofNat 32 (2 ^ 30) }
              ∧ Table.find t.patterns slot = some (patternOf ten img) ∧ ∀ k, k ≠ slot → Table.find t.patterns k = Table.find s.patterns k)
          ∧ ∀ r i, s.imageBad slot ten img = some (r, i) →
            ∃ t, exec (.patternLoad cmd) s = .next t ∧ t.patterns = s.patterns ∧ bits t.plstat.toNat 16 14 = r % 2 ^ 14
              ∧ ∀ k, i = some k → bits t.plstat.toNat 0 8 = k % 256))

/-- R1, R5, R8, R11, R206, R309, R310, R334, R387, R388, R390: a write to a management register stores its field where the value lies in the register's range, and is
refused where it does not; a read-only register ignores it. The first write of FEATURE_ACCEPT accepts offered features only; an interrupt of the
tenancy's own block is acknowledged; a request through the mailbox is acted on for a tenancy that may make it, and refused to another. A host thread's
store to a device-shared range leaves its bytes there, and its fence waits for the host's earlier stores. That a value out of range is refused with
an error word (log entry 29), that a CXL port's window says whether its device is mere memory (log entry 75), and how host threads' accesses reach
the device (log entry 76) are the model's choice. -/
def Obligations.Management : Prop :=
  (∀ (s : State) (v : Dword) (c ten core : Nat),
     let x := v.toNat
     c < 1024 → ten < 64 → core < 720 →
     (exec (.registerWrite .plsrc v) s = .next { s with plsrc := v }) ∧ exec (.registerWrite .plstat v) s = .next s
     ∧ exec (.registerWrite .featureOffer v) s = .next s
     ∧ (∀ r ∈ ([(.lease c, 512, 8192, fun y => { y with lease := x }), (.deschedTime c, 4096, 2 ^ 24, fun y => { y with descT := x }),
           (.serviceLimit c, 0, 2 ^ 64, fun y => { y with limit := x })] : List (MgmtReg × Nat × Nat × (Ctx → Ctx))),
         (r.2.1 ≤ x ∧ x ≤ r.2.2.1 → ∃ t, exec (.registerWrite r.1 v) s = .next t ∧ t = { s with ctxs := t.ctxs }
           ∧ t.ctx c = r.2.2.2 (s.ctx c) ∧ ∀ j, j ≠ c → t.ctx j = s.ctx j)
         ∧ (x < r.2.1 ∨ r.2.2.1 < x → ∃ t, exec (.registerWrite r.1 v) s = .next t ∧ RefusedTo s t 64))
     ∧ (∀ r ∈ ([(.contexts ten, 1, 1024, fun y => { y with contexts := x }),
           (.coreQuota ten, 0, 720, fun y => { y with quota := x }), (.shareWeight ten, 1, 255, fun y => { y with weight := x }),
           (.hbmWeight ten, 1, 255, fun y => { y with hbmW := x }), (.linkWeight ten, 1, 255, fun y => { y with linkW := x }),
           (.scopePolicy ten, 0, 1, fun y => { y with policy := x }), (.vectorCount ten, 1, 64, fun y => { y with vectors := x })]
             : List (MgmtReg × Nat × Nat × (Ten → Ten))),
         (r.2.1 ≤ x ∧ x ≤ r.2.2.1 → ∃ t, exec (.registerWrite r.1 v) s = .next t ∧ t = { s with tens := t.tens }
           ∧ t.ten ten = r.2.2.2 (s.ten ten) ∧ ∀ j, j ≠ ten → t.ten j = s.ten j)
         ∧ (x < r.2.1 ∨ r.2.2.1 < x → ∃ t, exec (.registerWrite r.1 v) s = .next t ∧ RefusedTo s t 64))
     ∧ (x ≤ 11 → ∃ t, exec (.registerWrite (.priorityCeiling ten) v) s = .next t ∧ t = { s with tens := t.tens, deficits := t.deficits }
         ∧ t.ten ten = { s.ten ten with ceiling := x } ∧ (∀ j, j ≠ ten → t.ten j = s.ten j)
         ∧ ∀ p j, j < 64 → Table.getD t.deficits 0 (p * 64 + j)
             = if s.nodes.any (fun e => e.2.st == .ready && t.prioOf e.2 == p && (s.ctx e.2.ctx).ten == j) then Table.getD s.deficits 0 (p * 64 + j) else 0)
     ∧ (11 < x → ∃ t, exec (.registerWrite (.priorityCeiling ten) v) s = .next t ∧ RefusedTo s t 64)
     ∧ (let may := c < 1024 ∧ x < 64 ∧ (s.ctx c).mode = .free ∧ s.held x < (s.ten x).contexts
       (may → ∃ t, exec (.registerWrite (.contextTenancy c) v) s = .next t ∧ t = { s with ctxs := t.ctxs }
         ∧ t.ctx c = { s.ctx c with ten := x, mode := .live })
       ∧ (¬ may → ∃ t, exec (.registerWrite (.contextTenancy c) v) s = .next t ∧ RefusedTo s t 64))
     ∧ (∃ t, exec (.registerWrite (.allocation c core) v) s = .next t ∧ t = { s with ctxs := t.ctxs }
         ∧ t.ctx c = { s.ctx c with alloc := (t.ctx c).alloc }
         ∧ ∀ k, k ∈ (t.ctx c).alloc ↔ if k = core then v.getLsbD 0 = true else k ∈ (s.ctx c).alloc))
  ∧ (∀ (s : State) (r : MgmtReg) (v : Dword), regExists r = false → ∃ t, exec (.registerWrite r v) s = .next t ∧ RefusedTo s t 64)
  ∧ (∀ (s : State) (p : Nat) (v : Dword), p < 4 →
       let rest := (s.cxl.filter (fun e => e.1 != p)).foldl (fun n e => n + e.2.window) 0
       (∃ t, exec (.registerWrite (.cxlWindow p false) v) s = .next t ∧ RefusedTo s t 64)
       ∧ (s.cxl.Pairwise (fun a b => a.1 < b.1) →
         (rest + v.toNat ≤ 7168 → ∃ t, exec (.registerWrite (.cxlWindow p true) v) s = .next t ∧ t = { s with cxl := t.cxl }
           ∧ (∃ q, Table.find t.cxl p = some q ∧ q.window = v.toNat) ∧ ∀ k, k ≠ p → Table.find t.cxl k = Table.find s.cxl k)
         ∧ (7168 < rest + v.toNat → ∃ t, exec (.registerWrite (.cxlWindow p true) v) s = .next t ∧ RefusedTo s t 64)))
  ∧ (∀ (s : State) (v : BitVec 128),
       (∀ a, s.accept = some a → exec (.featureAcceptWrite v) s = .next s)
       ∧ (s.accept = none → ∃ t a, exec (.featureAcceptWrite v) s = .next t ∧ t = { s with accept := some a }
           ∧ ∀ k, k < 8 → a.getLsbD k = (v.getLsbD k && s.offerReg.getLsbD k)))
  ∧ (∀ (s : State) (ten vec : Nat),
       (64 ≤ vec → ∃ t, exec (.interruptAck ten vec) s = .next t ∧ RefusedTo s t ten)
       ∧ (vec < 64 → ∃ t, exec (.interruptAck ten vec) s = .next t ∧ t = { s with pendingInt := t.pendingInt }
         ∧ ∀ v, Table.find t.pendingInt v = if v = ten * 64 + vec then none else Table.find s.pendingInt v))
  ∧ ∀ (s : State) (ten idx slot c vec nid group ranks rank : Nat) (w0 w1 w2 w3 src addr : Dword) (ue : List Nat)
      (nonce : List Byte) (a : HostAccess),
      let own := (s.ctx c).mode ≠ .free ∧ (s.ctx c).ten = ten
      let ask : Request → Host.Outcome State Fault Refusal := fun r => exec (.mailboxRequest ten r) s
      ask (.writeRange idx w0 w1 w2 w3) = exec (.rangeEntryWrite ten idx w0 w1 w2 w3) s
      ∧ ask (.loadPattern src slot) = exec (.patternLoad (BitVec.ofNat 32 (2 ^ 31 + ten % 64 * 2 ^ 16 + slot % 16))) { s with plsrc := src }
      ∧ ask (.ackInterrupt vec) = exec (.interruptAck ten vec) s
      ∧ (own → ask (.resetContext c) = exec (.contextReset c) s ∧ ask (.submitNode c addr) = exec (.hostSubmission c addr) s)
      ∧ (¬ own → ∀ r ∈ [Request.resetContext c, .submitNode c addr, .createGroup c group ranks rank ue, .attest c nonce, .hostAccess c a], ∃ t, ask r = .next t ∧ RefusedTo s t ten)
      ∧ (∀ n, Table.find s.nodes nid = some n → n.ctx = c → own → n.exec = 1 → n.st = .placed → ask (.nodeDone nid) = exec (.hostNodeDone nid) s)
      ∧ (own → s.collRefused c group ranks rank ue = false →
          ∃ t, ask (.createGroup c group ranks rank ue) = .next t ∧ t = { s with colls := t.colls }
            ∧ Table.find t.colls (collKey c group) = some ⟨ranks, rank, ue, 0, [], 0⟩)
      ∧ (own → s.collRefused c group ranks rank ue = true → ∃ t, ask (.createGroup c group ranks rank ue) = .next t ∧ RefusedTo s t ten)
      ∧ (own → ask (.attest c nonce)
          = .next { s with mailbox := s.mailbox ++ [(ten, Config.identitySign (leBytes (s.ctx c).attest.toNat 32 ++ nonce))] })
      ∧ (own → ∃ t, ask (.hostAccess c .fence) = .next t ∧ t = { s with time := t.time } ∧ s.time ≤ t.time
          ∧ ∀ f ∈ s.flight, f.core = hostCore → f.slot = hostSlot → f.tv ≤ t.time)
      ∧ (∀ va n, own → s.probe hostCore c va.toNat n .load false false = none →
          (s.hostShared c va.toNat n = false → ∃ t, ask (.hostAccess c (.load va n)) = .next t ∧ RefusedTo s t ten)
          ∧ (s.hostShared c va.toNat n = true → s.touchAll hostCore c va.toNat n false = s →
              let u := (s.partsAt hostCore c va.toNat n).foldl (fun s p => s.engineFetch hostCore c p.1 p.2) s
              (u.loadVa hostCore hostSlot c va.toNat n).2.2 = [] → ask (.hostAccess c (.load va n)) = .next u ∧ HomeOnly s u))
      ∧ ∀ va bs, own → s.probe hostCore c va.toNat bs.length .store false false = none →
          (s.hostShared c va.toNat bs.length = false → ∃ t, ask (.hostAccess c (.store va bs)) = .next t ∧ RefusedTo s t ten)
          ∧ (let key := s.keyAt hostCore c va.toNat true
            s.hostShared c va.toNat bs.length = true → pageParts va.toNat bs.length = [(va.toNat, bs.length)] → s.touch hostCore c va.toNat true = s →
            key % 256 + bs.length ≤ 256 → s.dropsStore key = false →
            ∃ t, ask (.hostAccess c (.store va bs)) = .next t ∧ (∀ i, i < bs.length → t.mem.read (key + i) = bs.getD i 0)
              ∧ OnlyBytes s t key bs.length)

/-- R43, R391, R392: a container whose layout breaks the rules, or whose key, measurements, signatures or pages do not pass, is refused and leaves every
page of every segment unmapped; one that passes fills every page of every segment, sets their permissions, and extends the context's attestation.
Here the level-0 entries of different pages, the tables that lead to them and the pages themselves stand apart. -/
def Obligations.Containers : Prop :=
  ∀ (s : State) (c : Nat) (f : List Byte),
    let xs := segmentsOf f
    let ps := s.preparedPages c xs
    let good := containerBad f = false ∧ s.keyGood f = true ∧ ∀ x ∈ xs, segmentGood f x = true ∧ s.placesSegment c x = true
    ((s.ctx c).mode = .free → ∃ t, exec (.loadContainer c f) s = .next t ∧ RefusedTo s t (s.ctx c).ten)
    ∧ ((s.ctx c).mode ≠ .free →
      (¬ good → ∃ t, exec (.loadContainer c f) s = .next t ∧ t.ctxs = s.ctxs ∧ t.mailbox.length = s.mailbox.length + 1
        ∧ (s.EntriesApart c ps →
            (∀ p ∈ ps, t.mem.readNat p.2.1 8 = (p.2.2 &&& ~~~(1#64)).toNat
              ∧ ∀ q ∈ t.tlb, ¬ (q.ctx = c ∧ q.base < p.1 + 4096 ∧ p.1 < q.base + q.size))
            ∧ ∀ j, (∀ p ∈ ps, j < p.2.1 ∨ p.2.1 + 8 ≤ j) → t.mem.read j = s.mem.read j))
      ∧ (good → ∃ t, exec (.loadContainer c f) s = .next t ∧ t.mailbox = s.mailbox
        ∧ (t.ctx c).attest = xs.foldl (fun a x => Config.sha3_256 (leBytes a.toNat 32 ++ leBytes x.meas.toNat 32)) (s.ctx c).attest
        ∧ (∀ j, j ≠ c → t.ctx j = s.ctx j)
        ∧ (s.EntriesApart c ps → s.FramesApart c ps →
            (∀ x ∈ xs, ∀ va ∈ x.pages, ∃ k e, s.pageEntry c va = some (k, e)
              ∧ (let part := ((x.rel.foldl (relocate (relocBase xs s.freeVal x)) x.body).drop (va - x.va)).take 4096
                t.mem.reads (frameOf e) part.length = part)
              ∧ (∀ b, b < 64 → (t.mem.readNat k 8).testBit b = if b = 2 then true else if b = 3 then decide (2 ≤ x.kind)
                  else if b = 4 then decide (x.kind = 0) else e.getLsbD b)
              ∧ (∀ q ∈ t.tlb, ¬ (q.ctx = c ∧ q.base < va + 4096 ∧ va < q.base + q.size))
              ∧ ∀ q ∈ t.icache, q.1 % 2 ^ 54 < frameOf e ∨ frameOf e + 4096 ≤ q.1 % 2 ^ 54)
            ∧ ∀ j, (∀ p ∈ ps, (j < p.2.1 ∨ p.2.1 + 8 ≤ j) ∧ (j < frameOf p.2.2 ∨ frameOf p.2.2 + 4096 ≤ j)) → t.mem.read j = s.mem.read j)))

-- Links, memory devices, resets (R37, R332, R333, R335, R345, R351, R357, R368, R376 to R381, R384, R385, R388, R389, R393, R405).

/-- R379 to R381, R384, R385: a port delivers a good flit that is next, drops one at or below the last delivered, and else asks for a replay; a sender
resends from the flit after the named one; a port retrains at lanes none of which has failed, and goes down where there are none. A rank's data
of the group's attempt is kept, data of an older one counted as dropped; an abort advances the attempt. The model's choices: a link-down record's
ADDR is 0 (log entry 45), what a packet of a collective holds (log entry 37), a flit of a reserved KIND or VC fails as one with a bad CRC, whose
polynomial is open (log entry 84). -/
def Obligations.LinksAndCollectives : Prop :=
  (∀ (s : State) (p lane : Nat) (h : Dword) (rest : List Byte) (named : BitVec 12),
     let x := s.port p
     let seq := h.extractLsb' 52 12
     let ack := h.extractLsb' 40 12
     let kind := bits h.toNat 36 4
     let good := rest.length = 248 ∧ leField rest 240 8 = (Config.flitCrc (leBytes h.toNat 8 ++ rest.take 240)).toNat
       ∧ kind < 5 ∧ bits h.toNat 33 3 < 4
     let next := good ∧ seq = x.rx + 1
     let at_ : Instr → Port → Prop := fun i y =>
       ∃ t, exec i s = .next t ∧ t = { s with ports := t.ports } ∧ t.port p = y ∧ ∀ q, q ≠ p → t.port q = s.port q
     let acked := if (ack - x.acked).toNat < 2048 then ack else x.acked
     (x.down = true ∨ 8 ≤ p → exec (.flitReceive p h rest) s = .next s ∧ exec (.laneRepair p lane) s = .next s)
     ∧ (p < 8 → x.down = false →
       (next → kind ≠ 2 → kind ≠ 3 → at_ (.flitReceive p h rest) { x with rx := seq, asked := none, acked := acked })
       ∧ (next → kind = 2 → x.training = false →
           at_ (.flitReceive p h rest) { x with rx := seq, asked := none, acked := acked, replay := some (ack + 1), tx := ack + 1 })
       ∧ (next → kind = 2 → x.training = true → at_ (.flitReceive p h rest) { x with rx := seq, asked := none, acked := acked })
       ∧ (next → kind = 3 → at_ (.flitReceive p h rest) { x with
           rx := seq, asked := none, acked := acked, training := true, since := if x.training then x.since else s.time, replay := none })
       ∧ (¬ next → (x.rx - seq).toNat < 2048 → at_ (.flitReceive p h rest) x)
       ∧ (¬ next → ¬ (x.rx - seq).toNat < 2048 → at_ (.flitReceive p h rest) { x with asked := some x.rx })
       ∧ (x.training = false → at_ (.replayRequest p named) { x with replay := some (named + 1), tx := named + 1 })
       ∧ (lane < 16 →
         let failed := x.failed ||| (1#16 <<< lane)
         (∀ m, widest failed = some m →
           m &&& failed = 0 ∧ at_ (.laneRepair p lane) { x with failed := failed, lanes := m, training := true, since := s.time, replay := none })
         ∧ (widest failed = none → (∀ e ∈ s.ctxs, e.2.ring = none) → (∀ e ∈ s.chains, e.2.cwaddr = 0 ∧ e.2.closing = false) →
           ∃ t, exec (.laneRepair p lane) s = .next t ∧ (t.port p).down = true ∧ (∀ q, q ≠ p → t.port q = s.port q)
             ∧ (t.devlog.drop s.devlog.length).map (fun e => (e.cause, e.addr)) = [(Cause.linkDown, 0)]
             ∧ (∀ fl ∈ t.flight, tierOf fl.key = 3 → x.peers.contains (bits fl.key 43 9) = true → t.peerDown fl.key = false)
             ∧ ∀ c y e ids, s.chains = [(chainKey c, y)] → refOf (chainKey c) = c → y.started = [e] → e.await = .fabric ids →
                 (∀ fl ∈ s.flight, fl.id ∈ ids → tierOf fl.key = 3 → x.peers.contains (bits fl.key 43 9) = true → t.peerDown fl.key = true →
                   t.chain c = { y with stopped := true, started := [] })
                 ∧ ((∀ fl ∈ s.flight, fl.id ∉ ids) → t.chain c = y))))
     ∧ (p < 8 → x.training = true → at_ (.replayRequest p named) x)
     ∧ (x.training = false → exec (.retrainComplete p) s = .next s)
     ∧ (∀ m, p < 8 → x.training = true → widest x.failed = some m →
         at_ (.retrainComplete p) { x with lanes := m, training := false, replay := some (x.acked + 1), tx := x.acked + 1 }))
  ∧ ∀ (s : State) (c group attempt rank : Nat) (data : List Byte),
      let k := collKey c group
      (Table.find s.colls k = none →
        exec (.abortToken c group) s = .next s ∧ exec (.collectivePacket c group attempt rank data) s = .next s)
      ∧ ∀ g, Table.find s.colls k = some g →
        (∃ t, exec (.abortToken c group) s = .next t
          ∧ Table.find t.colls k = some { g with attempt := g.attempt + 1, inbox := [], tokens := g.tokens + (g.ranks - 1) })
        ∧ (BitVec.ofNat 16 attempt = g.attempt → rank < g.ranks → rank ≠ g.rank → s.chains = [] →
            ∃ t y, exec (.collectivePacket c group attempt rank data) s = .next t ∧ t = { s with colls := t.colls } ∧ Table.find t.colls k = some y
              ∧ y = { g with inbox := y.inbox } ∧ Table.getD y.inbox [] rank = Table.getD g.inbox [] rank ++ data
              ∧ ∀ q, q ≠ rank → Table.getD y.inbox [] q = Table.getD g.inbox [] q)
        ∧ (BitVec.ofNat 16 attempt ≠ g.attempt → (g.attempt - BitVec.ofNat 16 attempt).toNat < 2 ^ 15 →
            ∃ t, exec (.collectivePacket c group attempt rank data) s = .next t ∧ t = { s with tens := t.tens }
              ∧ t.ten (s.ctx c).ten = { s.ten (s.ctx c).ten with dropPkt := (s.ten (s.ctx c).ten).dropPkt + 1 })

/-- R332, R333, R335: a stack never has more activates in 2,600 dcy than its limit, which the power controller sets within its range; a bank that owes
refreshes waits; an alert back-off with eight postponed refreshes makes them follow at once; a CXL port that goes down leaves no store to its
window in flight. -/
def Obligations.MemoryDevices : Prop :=
  (∀ (s : State) (st b : Nat),
     let x := s.bankOf st b
     let k := s.stackOf st
     st < 8 → b < 512 →
     (x.owed ≠ 0 ∨ x.alert = true → exec (.activate st b) s = .next s)
     ∧ (x.owed = 0 → x.alert = false → k.activates.Pairwise (· ≤ ·) → 1 ≤ k.limit →
       let recent := k.activates.filter (fun a => decide (s.time < a + 2600))
       ∃ t, exec (.activate st b) s = .next t ∧ t = { s with time := t.time, hbmStacks := t.hbmStacks }
         ∧ (recent.length < k.limit → t.time = s.time)
         ∧ (k.limit ≤ recent.length → t.time = max s.time (recent.getD (recent.length - k.limit) 0 + 2600))
         ∧ t.stackOf st = { k with activates := (t.stackOf st).activates } ∧ t.time ∈ (t.stackOf st).activates
         ∧ ((t.stackOf st).activates.filter (fun a => decide (t.time < a + 2600))).length ≤ k.limit)
     ∧ (x.owed ≠ 0 → ∃ t, exec (.hbmRefresh st b) s = .next t ∧ t = { s with banks := t.banks }
         ∧ t.bankOf st b = { x with owed := x.owed - 1, alert := false })
     ∧ (x.owed = 0 → x.postponed < 8 → ∃ t, exec (.hbmRefresh st b) s = .next t ∧ t = { s with banks := t.banks, free := s.free + 1 }
         ∧ (t.bankOf st b = x ∨ t.bankOf st b = { x with postponed := x.postponed + 1 }))
     ∧ (x.owed = 0 → 8 ≤ x.postponed → exec (.hbmRefresh st b) s = .next s ∧
         ∃ t, exec (.alertBackOff st b) s = .next t ∧ t.bankOf st b = ⟨0, 8, false⟩ ∧ (t.stackOf st).alerts = k.alerts + 1
           ∧ t.devlog.length = s.devlog.length + 1)
     ∧ (x.owed = 0 → x.postponed < 8 → exec (.alertBackOff st b) s = .next s)
     ∧ (x.owed ≠ 0 → ∃ t, exec (.alertBackOff st b) s = .next t ∧ t = { s with banks := t.banks } ∧ t.bankOf st b = { x with alert := true }))
  ∧ (∀ (s : State) (st v : Nat),
       (st < 8 → 512 ≤ v ∧ v ≤ 65535 → ∃ t, exec (.powerControllerSetsLimit (some st) v) s = .next t ∧ t = { s with hbmStacks := t.hbmStacks }
         ∧ t.stackOf st = { s.stackOf st with limit := v })
       ∧ (8 ≤ st ∨ v < 512 ∨ 65535 < v → exec (.powerControllerSetsLimit (some st) v) s = .next s)
       ∧ exec (.powerControllerSetsLimit none v) s = .next { s with idleDcy := v })
  ∧ ∀ (s : State) (p : Nat), p < 4 →
      ∃ t, exec (.cxlPortDown p) s = .next t ∧ (∃ q, Table.find t.cxl p = some q ∧ q.down = true) ∧ t.devlog.length = s.devlog.length + 1
        ∧ ∀ fl ∈ t.flight, t.cxlDown fl.key = true → fl.tv ≤ s.time

/-- R376 to R378: a scan starts on an idle core that no ready node wants, none idle longer unscanned, and discards its translations and bolts; it ends
after 260,000 dcy, and failing units are logged; a launch that needs the core aborts it, but one whose 260,000 dcy are over is complete, which of
its units fail being open (log entry 55, the model's choice). A core without a team is remapped to a spare site of its die, on which no core stands
and which none has left: its number stays, the site it leaves is out of use, and the die has a spare fewer. Where the die has no spare left, the
core is withdrawn, and the Cutter places on it no more; that the core to be remapped is then the one withdrawn is the model's choice (log entry 47).
The loss of a die ends its teams and drops its copies, and what is homed on it reads as poisoned. -/
def Obligations.TrierAndDies : Prop :=
  (∀ (s : State) (core : Nat) (failing : BitVec 8),
     let idle : Nat → Prop := fun c => (∀ e ∈ s.teams, e.2.on c = false) ∧ (s.trierOf c).running = none
     (core < 720 → idle core → s.feature 7 = true → s.wanted core 0 10 = false →
         (∀ c, c < 720 → idle c → (s.trierOf core).last ≤ (s.trierOf c).last) →
       ∃ t, exec (.trierScanStart core) s = .next t ∧ t = { s with trier := t.trier, tlb := t.tlb, bolts := t.bolts }
         ∧ t.trierOf core = { s.trierOf core with running := some s.time, abortBy := none } ∧ (∀ e ∈ t.tlb, e.core ≠ core) ∧ (∀ b ∈ t.bolts, b.cache ≠ core)
         ∧ ∀ c, c ≠ core → t.trierOf c = s.trierOf c)
     ∧ (∀ t0, (s.trierOf core).running = some t0 →
       (∃ t, exec (.trierScanComplete core failing) s = .next t ∧ t.time = max s.time (t0 + 260000) ∧ t.trierOf core = ⟨t.time, none, none⟩
         ∧ (failing.toNat % 128 = 0 → t.devlog = s.devlog)
         ∧ (failing.toNat % 128 ≠ 0 → (t.devlog.drop s.devlog.length).map (fun e => (e.cause, e.core, e.detail.toNat))
             = [(Cause.trierFail, core, failing.toNat % 128)]))
       ∧ (s.time < t0 + 260000 → s.wanted core 0 3 = true → ∃ t, exec (.trierScanAbort core) s = .next t ∧ t = { s with trier := t.trier }
           ∧ t.trierOf core = { s.trierOf core with running := none, abortBy := none })
       ∧ (s.wanted core 0 3 = false → exec (.trierScanAbort core) s = .next s)
       ∧ (t0 + 260000 ≤ s.time → s.wanted core 0 3 = true →
           ∃ units, exec (.trierScanAbort core) s = exec (.trierScanComplete core units) { s with free := s.free + 1 }))
     ∧ ((s.trierOf core).running = none → exec (.trierScanComplete core failing) s = .next s ∧ exec (.trierScanAbort core) s = .next s))
  ∧ (∀ (s : State) (core site : Nat),
       let die := dieOf core
       let spares : State → List Nat := fun s => (List.range 192).filter (s.spare die)
       let left := die * 192 + s.siteOf core
       (720 ≤ core ∨ (∃ e ∈ s.teams, e.2.on core = true) ∨ core ∈ s.withdrawn → exec (.coreRemap core site) s = .next s)
       ∧ (core < 720 → (∀ e ∈ s.teams, e.2.on core = false) → core ∉ s.withdrawn →
         (site ∈ spares s → ∃ t, exec (.coreRemap core site) s = .next t ∧ t = { s with coreMap := t.coreMap, failedSites := t.failedSites }
           ∧ t.siteOf core = site ∧ (∀ k, k ≠ core → t.siteOf k = s.siteOf k) ∧ s.siteOf core ∉ spares t ∧ (spares t).length + 1 = (spares s).length
           ∧ ∀ k, k ∈ t.failedSites ↔ k ∈ s.failedSites ∨ k = left)
         ∧ (site ∉ spares s → spares s ≠ [] → exec (.coreRemap core site) s = .next s)
         ∧ (spares s = [] → ∃ t, exec (.coreRemap core site) s = .next t ∧ t = { s with withdrawn := t.withdrawn, failedSites := t.failedSites }
           ∧ (∀ k, k ∈ t.withdrawn ↔ k ∈ s.withdrawn ∨ k = core) ∧ (∀ k, k ∈ t.failedSites ↔ k ∈ s.failedSites ∨ k = left)
           ∧ ∀ ctx, t.coreOpen ctx core = false)))
  ∧ ∀ (s : State) (die : Nat),
      (4 ≤ die ∨ s.lostDies.contains die = true → exec (.dieLost die) s = .next s)
      ∧ (die < 4 → s.lostDies.contains die = false →
        ∃ t, exec (.dieLost die) s = .next t ∧ (∀ k, k ∈ t.lostDies ↔ k ∈ s.lostDies ∨ k = die)
          ∧ (∀ e ∈ t.teams, dieOf e.2.core ≠ die) ∧ (∀ e ∈ t.tlb, e.core < 720 → dieOf e.core ≠ die)
          ∧ (∀ b ∈ t.bolts, b.cache ≠ 1024 + die ∧ (b.cache < 720 → dieOf b.cache ≠ die)) ∧ ∀ key, homeDie key = die → t.poisoned key = true)

/-- R345, R351, R357, R368, R388, R389, R393, R405: what the resets leave: of a context and of a tenancy nothing; of a die its reset state; of the device
what flash, the fuses and the firmware's banks hold. The interrupts of a reset's domain are dropped and counted. Loss of power leaves the same; at its
return each stream keeps a run of whole records and reads 0xFF elsewhere. An image that verifies goes into the firmware's standby bank, and the
banks switch once no call is in service. The model's choices: memory reads as it does at first (log entry 8); time starts at 0, an interrupt is
dropped with the contexts that raised it, and the counts stand (log entry 48); a trimmed record's bytes read 0xFF after a loss of power (log
entry 49); a context that was reset may be used again (log entry 18); which calls are in service (log entry 54). -/
def Obligations.Resets : Prop :=
  (∀ (s : State) (c : Nat),
     (1024 ≤ c ∨ (s.ctx c).mode = .free → exec (.contextReset c) s = .next s)
     ∧ (c < 1024 → (s.ctx c).mode ≠ .free →
       let k4 := (s.ctx c).ten * 64 + 4
       ∃ t u, exec (.contextReset c) s = .next t ∧ exec (.terminate c) s = .next u ∧ t = { u with pendingInt := t.pendingInt, tens := t.tens }
         ∧ (4 < (u.ten (s.ctx c).ten).vectors → c ∈ Table.getD t.pendingInt [] k4)
         ∧ (∀ k, k ≠ k4 → c ∉ Table.getD t.pendingInt [] k)
         ∧ ∀ k, t.ten k = { u.ten k with dropInt := (u.ten k).dropInt + (u.pendingInt.filter (fun e => e.1 / 64 == k && e.2.all (· == c))).length }))
  ∧ (∀ (s : State) (ten : Nat),
       (64 ≤ ten → exec (.tenancyReset ten) s = .next s)
       ∧ (ten < 64 → ∃ t, exec (.tenancyReset ten) s = .next t ∧ ((∀ f ∈ s.flight, f.core < 2000) → t.mem = s.mem)
         ∧ (∀ k e, Table.find t.ranges k = some e → e.ten = ten → e.valid = false) ∧ (∀ e ∈ t.patterns, e.2.ten ≠ some ten)
         ∧ (∀ k c, c ∈ Table.getD t.pendingInt [] k → (s.ctx c).ten ≠ ten)
         ∧ (t.devlog.drop s.devlog.length).map (fun e => (e.cause, e.ten)) = [(Cause.tenancyReset, ten)]
         ∧ ((s.ctxs.map Prod.fst).Nodup → ∀ c, c < 1024 → (s.ctx c).mode ≠ .free → (s.ctx c).ten = ten →
             t.ctx c = { s.ctx c with gen := ((s.ctx c).gen + 1) % 2 ^ 16, mode := .live, svcq := [], hostq := [], cause := 0 }
               ∧ (∀ e ∈ t.teams, e.2.ctx ≠ c) ∧ ∀ e ∈ t.chains, e.2.ctx ≠ c)))
  ∧ (∀ (s : State) (die : Nat),
       (4 ≤ die → exec (.dieReset die) s = .next s)
       ∧ (die < 4 → ∃ t, exec (.dieReset die) s = .next t ∧ ((∀ f ∈ s.flight, f.core < 2000) → t.mem = s.mem)
         ∧ (∀ core k, core < 720 → dieOf core = die → k < 2 ^ 19 → t.scratch.read (core * 2 ^ 19 + k) = Memory.dflt (core * 2 ^ 19 + k))
         ∧ (∀ core k, core < 720 → dieOf core = die → k < 64 → Table.getD t.sems 0 (semKey core k) = 0 ∧ t.gauge core k = Gauge.off
             ∧ Table.getD t.fgens 0 (fragKey core k) = 0)
         ∧ (∀ f, homeDie (f * 256) = die → t.dir f = Dir.empty) ∧ (∀ e ∈ t.tlb, e.core < 720 → dieOf e.core ≠ die)
         ∧ (∀ e ∈ t.chains, dieOfChain (refOf e.1) ≠ die) ∧ (∀ core, core < 720 → dieOf core = die → t.trierOf core = Trier.fresh)
         ∧ (∀ k c, c ∈ Table.getD t.pendingInt [] k → s.usesDie c die = false ∨ (s.ctx c).mode = .free)
         ∧ ((∀ e ∈ s.teams, e.2.ctx < 1024 ∧ (s.ctx e.2.ctx).mode ≠ .free) → ∀ e ∈ t.teams, dieOf e.2.core ≠ die)))
  ∧ (∀ s : State,
       let kept : State → State → Prop := fun s t =>
         t = { State.reset with
             free := t.free, script := s.script, mem := t.mem, poison := t.poison, badBlocks := t.badBlocks, streams := t.streams, tens := t.tens,
             revoked := s.revoked, fw := { s.fw with pending := false }, powered := t.powered }
           ∧ (∀ k, tierOf k ≠ 2 → t.mem.read k = Memory.dflt k) ∧ ∀ n, (t.stream n).ctx = none
       (∃ t, exec .deviceReset s = .next t ∧ kept s t ∧ t.powered = true
         ∧ (∀ k, t.ten k = { Ten.unset with dropInt := (s.ten k).dropInt + (s.pendingInt.filter (fun e => e.1 / 64 == k)).length })
         ∧ ((∀ e ∈ s.streams, ∀ r ∈ (s.stream e.1).recs, r.seq ≤ (s.stream e.1).dseq) →
             (∀ k, tierOf k = 2 → t.mem.read k = s.mem.read k) ∧ ∀ n, t.stream n = { s.stream n with ctx := none }))
       ∧ ∃ t, exec .powerLoss s = .next t ∧ kept s t ∧ t.powered = false ∧ t.tens = [] ∧ (∀ k, tierOf k = 2 → t.mem.read k = s.mem.read k)
         ∧ ∀ n, t.stream n = { s.stream n with ctx := none })
  ∧ (∀ s : State,
       (s.powered = true → exec .powerReturn s = .next s)
       ∧ (s.powered = false → (∀ e ∈ s.streams, e.2.pa + 4096 + e.2.len ≤ 2 ^ 52 ∧ ∀ r ∈ e.2.recs, r.off + r.bytes.length ≤ e.2.len) →
         s.streams.Pairwise (fun a b => a.1 < b.1 ∧ Apart a.2.pa (4096 + a.2.len) b.2.pa (4096 + b.2.len)) →
         ∃ t, exec .powerReturn s = .next t ∧ t.powered = true
           ∧ ∀ n x, Table.find s.streams n = some x →
             let y := t.stream n
             x.dseq ≤ y.dseq ∧ y.last = y.dseq ∧ (∀ k, x.dseq < k → k ≤ y.dseq → ∃ r ∈ x.recs, r.seq = k)
               ∧ (∀ r, r ∈ y.recs ↔ r ∈ x.recs ∧ x.trimseq ≤ r.seq ∧ r.seq ≤ y.dseq) ∧ y.trimseq = x.trimseq
               ∧ t.mem.readNat (flashKey x.pa) 8 = y.dseq % 2 ^ 64
               ∧ (∀ i, i < x.len → (∀ r ∈ y.recs, i < r.off ∨ r.off + r.bytes.length ≤ i) → t.mem.read (flashKey (x.pa + 4096) + i) = 0xFF)
               ∧ (y.recs.Pairwise (fun a b => a.off + a.bytes.length ≤ b.off ∨ b.off + b.bytes.length ≤ a.off) →
                   ∀ r ∈ y.recs, t.mem.reads (flashKey (x.pa + 4096) + r.off) r.bytes.length = r.bytes)))
  ∧ ∀ (s : State) (image : List Byte) (serving : List Nat),
      (s.fw.pending = true ∨ s.imageGood image = false → ∃ t, exec (.firmwareSwitch ⟨image, serving⟩) s = .next t ∧ RefusedTo s t 64)
      ∧ (s.fw.pending = false → s.imageGood image = true →
          ∃ t, exec (.firmwareSwitch ⟨image, serving⟩) s = .next t ∧ t = { s with fw := t.fw, ctxs := t.ctxs }
            ∧ t.fw = (if s.fw.bank then { s.fw with pending := true, image0 := image } else { s.fw with pending := true, image1 := image })
            ∧ ∀ c, t.ctx c = { s.ctx c with svcq := (t.ctx c).svcq } ∧ ∀ i : Nat, (t.ctx c).svcq[i]? =
                (s.ctx c).svcq[i]?.map (fun r => if i < serving.count c then { r with old := true } else r))
      ∧ (s.fw.pending = true → (∀ e ∈ s.ctxs, ∀ r ∈ e.2.svcq, r.old = false) →
          exec .bankSwitch s = .next { s with fw := { s.fw with bank := !s.fw.bank, pending := false } })
      ∧ (s.fw.pending = false ∨ (∃ e ∈ s.ctxs, ∃ r ∈ e.2.svcq, r.old = true) → exec .bankSwitch s = .next s)

-- The machine as a whole.

/-- R39 to R65: the encoding. Decoding the words of a well-formed instruction gives the instruction, with every operand, whatever iwords follow it in
its block; and words that decode are the words of the instruction that they give, which is well formed: no bit is dropped, and no two words of
one instruction differ. -/
def Obligations.DecodeEncode : Prop :=
  (∀ (i : Instr) (rest : List Iword), wellFormed i = true → i.isEvent = false →
     decode (encode i ++ rest) = .ok i ∧ (encode i).length = i.iwords)
  ∧ ∀ (ws : List Iword) (i : Instr), decode ws = .ok i → wellFormed i = true ∧ i.isEvent = false ∧ ∃ rest, ws = encode i ++ rest

/-- R55 to R62: words that the spec writes out, one or two of each format, decode to the instructions that it writes beside them; words of no
instruction are rejected by the cause that R65 names. -/
def Obligations.DecodeWords : Prop :=
  decode [0x0000_8040_0002_000C] = .ok (.iadd ⟨⟨false, 1⟩, 2, 0, 1, 0, 3, 0⟩)
  ∧ decode [0x01C7_8120_200A_037C] = .ok (.dot4 ⟨⟨false, 15⟩, 9, 4, 5, 6, 31, 0⟩)
  ∧ decode [0x1027_8100_4814_01AA] = .ok (.fmul ⟨⟨false, 15⟩, 8, 9, 10, 3, 10, 2⟩)
  ∧ decode [0x2007_8500_4000_06AD] = .ok (.cvt ⟨⟨false, 15⟩, 40, 8, 0, 13, 11, 1⟩)
  ∧ decode [0x3057_8060_1000_20C0] = .ok (.shli ⟨⟨false, 15⟩, 3, 2, 4, 3, false⟩)
  ∧ decode [0x4007_8060_3000_2028] = .ok (.ld ⟨⟨false, 15⟩, 3, 6, 0x40, 2, 8⟩)
  ∧ decode [0x5037_80A0_3000_0423] = .ok (.atom ⟨⟨false, 15⟩, 5, 6, 8, 2, 3⟩)
  ∧ decode [0x7000_FFFF_FFB0_0000] = .ok (.br ⟨⟨false, 1⟩, -5, 0, 0⟩)
  ∧ decode [0x8007_8900_6027_8086] = .ok (.icmp ⟨⟨false, 15⟩, 1, 2, 3, 4, 15, 0, 2, 3⟩)
  ∧ decode [0x90C7_8000_0000_001B] = .ok (.fence ⟨⟨false, 15⟩, 0, 0, 0, 0, 0x1B⟩)
  ∧ decode [0xA047_8280_0000_0001] = .ok (.clock ⟨⟨false, 15⟩, 20, 0, 0, 1⟩)
  ∧ decode [0xB037_FC40_5018_007C] = .ok (.sbind ⟨⟨false, 15⟩, 0x3E2, 10, 12, 0, 31, 0⟩)
  ∧ decode [0xD000_0000_0000_0001] = .error .illegalClass
  ∧ decode [0xF100_C040_0000_0000] = .error .badHeader

/-- R19, R43, R64, R65, R403: a step runs what is decoded. Where a group's turn has come, nothing that it has under way or holds at issue comes first,
and its running fragment stands at an instruction whose iwords its core may fetch, those words are decoded: the step is the instruction's
execution, by that fragment, with device time passing after it; where they are no instruction, the fragment parks with R65's cause, and so it does
where the group and MOVI.W's first word show that its destination fails a check of the fragment. An event that the script names is executed in the same way. -/
def Obligations.StepRunsDecoded : Prop :=
  (∀ (s u v : State) (w : Who) (ts : List Turn), s.script = .issue w.core w.slot :: ts → Moves { s with script := ts } w → w.f.entered = true →
     w.t.twin = none → w.f.idx < Hdr.length w.f.hdr →
     u = { s with script := ts, cur := some ⟨w.core, w.slot, w.fi⟩, lastSlot := Table.put s.lastSlot w.core w.slot,
                  issued := Table.put s.issued w.core (w.slot :: Table.getD s.issued [] w.core) } →
     (∀ a ∈ w.f.iaddr :: u.iwordsAt w, u.fetchFail w.core w.ctx a = none) →
     v = (u.iwordsAt w).foldl (fun s a => s.fetchIword w.core w.ctx a) u →
     let first := u.fetchWord w.core w.ctx w.f.iaddr
     let early := w.firstCheck first (u.iwordsAt w).length
     v.who? = some w
     ∧ (early = none → ∀ i, decode ((u.iwordsAt w).map (u.fetchWord w.core w.ctx)) = .ok i →
         (∀ t, exec i v = .next t → step s = .next t.tick)
         ∧ (∀ f, exec i v = .fault f → step s = .fault f) ∧ ∀ r, exec i v = .refused r → step s = .refused r)
     ∧ (early = none → ∀ r, decode ((u.iwordsAt w).map (u.fetchWord w.core w.ctx)) = .error r →
         ∃ t v', step s = .next t.tick ∧ (v' = v ∨ v' = u.fetchIword w.core w.ctx w.f.iaddr)
           ∧ ParksWith v' t w (wordsFor first) (w.rejectCause first r))
     ∧ ∀ c, early = some c → ∃ t, step s = .next t.tick ∧ ParksWith (u.fetchIword w.core w.ctx w.f.iaddr) t w (wordsFor first) c)
  ∧ ∀ (s : State) (i : Instr) (ts : List Turn), s.script = .event i :: ts → i.isEvent = true → s.powered = true ∨ i = .powerReturn →
      let v : State := { s with script := ts }
      (∀ t, exec i v = .next t → step s = .next t.tick)
      ∧ (∀ f, exec i v = .fault f → step s = .fault f) ∧ ∀ r, exec i v = .refused r → step s = .refused r

/-- R71: a group that starts: every window line holds zero and carries RAW, `p0` to `p14` are clear, every control register is zero, every stream
port is unbound, every descriptor is zero. Where the team is duplicated, `gs.status` shows that from the start (R317): the group of the
statement's last line is of a team that is not. -/
def Obligations.GroupStart : Prop :=
  ∀ (tid grp lines : Nat) (dup : Bool),
    let g := Group.fresh tid grp lines dup
    (∀ n, g.line n = ⟨0, 0⟩) ∧ (∀ p, p ≤ 14 → g.pred p = 0)
    ∧ g.mode = 0 ∧ g.flags = 0 ∧ g.mendReg = 0 ∧ g.uft = 0
    ∧ (∀ k l, g.binding k l = none)
    ∧ (∀ n, g.tile n = ⟨0, 0, 0, 0, 0, false, 0, 0⟩) ∧ (∀ n, g.acc n = 0)
    ∧ (dup = false → g.status = 0)

/-- The device after reset: both memories are in canonical form, and an address that nothing has written reads 0, in flash 0xFF (log entry 8: the model's
choice); nothing is resident, no chain is open, no node is held, no translation or copy is cached; no feature is accepted (R390), and
counters start at 0 (log entries 2 and 10: the model's choice). -/
def Obligations.ResetState : Prop :=
  let s := State.reset
  s.Canonical ∧ (∀ k, s.mem.read k = if tierOf k = 2 then 0xFF else 0)
  ∧ (∀ core slot, s.group? core slot = none) ∧ (∀ core fi, s.frag? core fi = none) ∧ (∀ c, (s.chain c).isOpen = false)
  ∧ s.teams = [] ∧ s.nodes = [] ∧ s.tlb = [] ∧ s.bolts = [] ∧ (∀ fr, s.dir fr = Dir.empty) ∧ (∀ core k, s.gauge core k = Gauge.off)
  ∧ s.accept = none ∧ (∀ k, s.feature k = false) ∧ s.time = 0 ∧ s.powered = true

/-- Every step keeps the memories in canonical form, so that two memories that read alike are one. -/
def Obligations.StepKeepsCanonical : Prop :=
  ∀ s t : State, s.Canonical → step s = .next t → t.Canonical
end

