-- ==== Sys2Proof/Laws/Decode.lean ====
section
/-! SUPPORT. Laws/Decode.lean: what the encoder's words hold: class, opcode, and the fields of each format (R39, R55 to R62). -/

namespace Sys2Proof

open BitVec in
theorem clsOf_encHead (c : BitVec 4) (o : BitVec 8) (g : Guard) (b : BitVec 47) : clsOf (encHead c o g b) = c.toNat := by
  unfold clsOf encHead
  simp (disch := decide) only [extractLsb'_append_eq_of_le]
  simp

open BitVec in
theorem opOf_encHead (c : BitVec 4) (o : BitVec 8) (g : Guard) (b : BitVec 47) : opOf (encHead c o g b) = o.toNat := by
  unfold opOf encHead
  simp (disch := decide) only [extractLsb'_append_eq_of_le, extractLsb'_append_eq_of_add_le]
  simp

open BitVec in
/-- Format V (R55). -/
theorem parseV_encV (c : BitVec 4) (o : BitVec 8) (f : FmtV) : parseV (encV c o f) = f := by
  obtain ⟨⟨n, p⟩, d, a, b, cc, e, r⟩ := f
  simp only [parseV, guardOf, encV, encHead, FmtV.mk.injEq, Guard.mk.injEq, getLsbD_append]
  simp (disch := decide) only [extractLsb'_append_eq_of_add_le, extractLsb'_append_eq_of_le]
  simp

open BitVec in
/-- Format I (R56). -/
theorem parseI_encI (o : BitVec 8) (f : FmtI) (w : Bool) : parseI (encI o f w) = f := by
  obtain ⟨⟨n, p⟩, d, a, k, e, z⟩ := f
  simp only [parseI, guardOf, encI, encHead, FmtI.mk.injEq, Guard.mk.injEq, getLsbD_append]
  simp (disch := decide) only [extractLsb'_append_eq_of_add_le, extractLsb'_append_eq_of_le]
  simp

open BitVec in
/-- W, and the bits below it, which are zero (R56). -/
theorem low_encI (o : BitVec 8) (f : FmtI) (w : Bool) :
    (encI o f w).getLsbD 4 = w ∧ (encI o f w).extractLsb' 0 4 = 0#4 ∧ (encI o f false).extractLsb' 0 5 = 0#5 := by
  simp only [encI, encHead, getLsbD_append]
  refine ⟨by simp, by simp (disch := decide) only [extractLsb'_append_eq_of_add_le]; simp, ?_⟩
  ext i hi
  simp
  grind

open BitVec in
/-- Format M (R57). -/
theorem parseM_encM (c : BitVec 4) (o : BitVec 8) (f : FmtM) : parseM (encM c o f) = f := by
  obtain ⟨⟨n, p⟩, d, b, k, s, m⟩ := f
  simp only [parseM, guardOf, encM, encHead, FmtM.mk.injEq, Guard.mk.injEq, getLsbD_append]
  simp (disch := decide) only [extractLsb'_append_eq_of_add_le, extractLsb'_append_eq_of_le]
  simp

open BitVec in
/-- Format T (R58). -/
theorem parseT_encT (o : BitVec 8) (f : FmtT) : parseT (encT o f) = f := by
  obtain ⟨⟨n, p⟩, x, y, z, q, m⟩ := f
  simp only [parseT, guardOf, encT, encHead, FmtT.mk.injEq, Guard.mk.injEq, getLsbD_append]
  simp (disch := decide) only [extractLsb'_append_eq_of_add_le, extractLsb'_append_eq_of_le]
  simp

open BitVec in
/-- Format C (R59). -/
theorem parseC_encC (o : BitVec 8) (f : FmtC) : parseC (encC o f) = f := by
  obtain ⟨⟨n, p⟩, k, r, x⟩ := f
  simp only [parseC, guardOf, encC, encHead, FmtC.mk.injEq, Guard.mk.injEq, getLsbD_append]
  simp (disch := decide) only [extractLsb'_append_eq_of_add_le, extractLsb'_append_eq_of_le]
  simp

open BitVec in
/-- Format P (R60). -/
theorem parseP_encP (o : BitVec 8) (f : FmtP) : parseP (encP o f) = f := by
  obtain ⟨⟨n, p⟩, d, e, a, b, pa, pb, c, t⟩ := f
  simp only [parseP, guardOf, encP, encHead, FmtP.mk.injEq, Guard.mk.injEq, getLsbD_append]
  simp (disch := decide) only [extractLsb'_append_eq_of_add_le, extractLsb'_append_eq_of_le]
  simp

/-- Bit 0 is zero (R60). -/
theorem low_encP (o : BitVec 8) (f : FmtP) : (encP o f).getLsbD 0 = false := by
  simp only [encP, encHead, BitVec.getLsbD_append]
  simp

open BitVec in
/-- Format E (R61). -/
theorem parseE_encE (o : BitVec 8) (f : FmtE) : parseE (encE o f) = f := by
  obtain ⟨⟨n, p⟩, a, b, c, k, m⟩ := f
  simp only [parseE, guardOf, encE, encHead, FmtE.mk.injEq, Guard.mk.injEq, getLsbD_append]
  simp (disch := decide) only [extractLsb'_append_eq_of_add_le, extractLsb'_append_eq_of_le]
  simp

open BitVec in
/-- Format S (R62). -/
theorem parseS_encS (o : BitVec 8) (f : FmtS) : parseS (encS o f) = f := by
  obtain ⟨⟨n, p⟩, d, a, c, m⟩ := f
  simp only [parseS, guardOf, encS, encHead, FmtS.mk.injEq, Guard.mk.injEq, getLsbD_append]
  simp (disch := decide) only [extractLsb'_append_eq_of_add_le, extractLsb'_append_eq_of_le]
  simp

/-- An opcode of a class's list. -/
theorem pick_of {α : Type} {l : List (α → Instr)} {op : Nat} {c : α → Instr} (h : l[op]? = some c) (f : α) : pick l f op = .ok (c f) := by
  unfold pick
  rw [h]

end Sys2Proof
end

