-- ==== Sys2Proof/Laws/Table.lean ====
section
/-! SUPPORT. Laws/Table.lean: reading a table or a memory after a change to it, and the canonical form of memories, which every write
keeps. -/

namespace Sys2Proof.Machine

section
variable {α : Type}

@[simp] theorem Table.find_nil (n : Nat) : Table.find ([] : Table α) n = none := rfl

/-- A read after a write under the same key. -/
@[simp] theorem Table.find_put_self (t : Table α) (n : Nat) (x : α) : Table.find (Table.put t n x) n = some x := by
  induction t with
  | nil => simp [Table.put, Table.find]
  | cons e t ih =>
    simp only [Table.put]
    split
    · simp [Table.find]
    · split
      · simp [Table.find]
      · simp only [Table.find]
        rw [if_neg (fun h => by omega)]
        exact ih

/-- A write leaves every other key alone. -/
theorem Table.find_put_ne (t : Table α) {n m : Nat} (x : α) (h : m ≠ n) : Table.find (Table.put t n x) m = Table.find t m := by
  induction t with
  | nil => simp [Table.put, Table.find, Ne.symm h]
  | cons e t ih =>
    simp only [Table.put]
    split
    · rename_i h1
      subst h1
      simp [Table.find, Ne.symm h]
    · split
      · simp [Table.find, Ne.symm h]
      · simp only [Table.find, ih]

@[simp] theorem Table.find_del_self (t : Table α) (n : Nat) : Table.find (Table.del t n) n = none := by
  induction t with
  | nil => rfl
  | cons e t ih =>
    by_cases h : e.1 = n
    · simpa [Table.del, h] using ih
    · have : Table.del (e :: t) n = e :: Table.del t n := by simp [Table.del, h]
      rw [this]
      simp only [Table.find]
      rw [if_neg h]
      exact ih

theorem Table.find_del_ne (t : Table α) {n m : Nat} (h : m ≠ n) : Table.find (Table.del t n) m = Table.find t m := by
  induction t with
  | nil => rfl
  | cons e t ih =>
    by_cases h1 : e.1 = n
    · have h2 : Table.del (e :: t) n = Table.del t n := by simp [Table.del, h1]
      rw [h2, ih]
      simp [Table.find, h1, Ne.symm h]
    · have h2 : Table.del (e :: t) n = e :: Table.del t n := by simp [Table.del, h1]
      rw [h2]
      simp only [Table.find, ih]

@[simp] theorem Table.getD_put_self (t : Table α) (d x : α) (n : Nat) : Table.getD (Table.put t n x) d n = x := by
  simp [Table.getD]

theorem Table.getD_put_ne (t : Table α) (d x : α) {n m : Nat} (h : m ≠ n) :
    Table.getD (Table.put t n x) d m = Table.getD t d m := by
  simp [Table.getD, Table.find_put_ne t x h]

variable [DecidableEq α]

@[simp] theorem Table.getD_setD_self (t : Table α) (d x : α) (n : Nat) : Table.getD (Table.setD t d n x) d n = x := by
  unfold Table.setD
  split
  · simp [Table.getD, *]
  · simp

theorem Table.getD_setD_ne (t : Table α) (d x : α) {n m : Nat} (h : m ≠ n) :
    Table.getD (Table.setD t d n x) d m = Table.getD t d m := by
  unfold Table.setD
  split
  · simp [Table.getD, Table.find_del_ne t h]
  · exact Table.getD_put_ne t d x h

end

/-- R10: a byte reads as it was written. -/
@[simp] theorem Memory.read_write_self (m : Memory) (k : Nat) (b : Byte) : (m.write k b).read k = b :=
  Table.getD_setD_self m _ b k

/-- A byte written leaves every other byte alone. -/
theorem Memory.read_write_ne (m : Memory) {k j : Nat} (b : Byte) (h : j ≠ k) : (m.write k b).read j = m.read j := by
  unfold Memory.read Memory.write Table.setD Table.getD
  split
  · rw [Table.find_del_ne m h]
  · rw [Table.find_put_ne m b h]

/-- A string of bytes written leaves every byte outside it alone. -/
theorem Memory.read_writes_outside (bs : List Byte) : ∀ (m : Memory) (k j : Nat), (j < k ∨ k + bs.length ≤ j) →
    (m.writes k bs).read j = m.read j := by
  induction bs with
  | nil => intro m k j _; rfl
  | cons b t ih =>
    intro m k j h
    simp only [List.length_cons] at h
    rw [Memory.writes, ih _ _ _ (by omega), Memory.read_write_ne _ _ (by omega)]

/-- Each byte of a string reads as it was written. -/
theorem Memory.read_writes_inside (bs : List Byte) : ∀ (m : Memory) (k i : Nat) (h : i < bs.length),
    (m.writes k bs).read (k + i) = bs[i] := by
  induction bs with
  | nil => intro m k i h; simp at h
  | cons b t ih =>
    intro m k i h
    cases i with
    | zero =>
      rw [Memory.writes, Memory.read_writes_outside _ _ _ _ (by omega)]
      simp
    | succ i =>
      have h2 := ih (m.write k b) (k + 1) i (by simpa using h)
      rw [show k + 1 + i = k + (i + 1) by omega] at h2
      simpa [Memory.writes] using h2

-- The canonical form.

/-- The canonical form as a property of every pair of neighbours: keys rise, no entry is what its address reads as unlisted. -/
theorem Memory.wf_iff (m : Memory) :
    Memory.wf m = true ↔ m.Pairwise (fun a b => a.1 < b.1) ∧ ∀ e ∈ m, e.2 ≠ Memory.dflt e.1 := by
  induction m with
  | nil => simp [Memory.wf]
  | cons e t ih =>
    cases t with
    | nil => simp [Memory.wf]
    | cons e' t =>
      simp only [Memory.wf, Bool.and_eq_true, bne_iff_ne, ne_eq, decide_eq_true_eq, ih]
      constructor
      · rintro ⟨⟨h1, h2⟩, h3, h4⟩
        refine ⟨List.Pairwise.cons ?_ h3, ?_⟩
        · intro a ha
          rcases List.mem_cons.mp ha with rfl | ha
          · exact h2
          · exact Nat.lt_trans h2 ((List.pairwise_cons.mp h3).1 a ha)
        · intro a ha
          rcases List.mem_cons.mp ha with rfl | ha
          · exact h1
          · exact h4 a ha
      · rintro ⟨h1, h2⟩
        obtain ⟨h3, h4⟩ := List.pairwise_cons.mp h1
        exact ⟨⟨h2 e (by simp), h3 e' (by simp)⟩, h4, fun a ha => h2 a (by simp [ha])⟩

/-- An entry of a changed table is the new one or an old one under another key. -/
theorem Table.mem_put {α : Type} {t : Table α} {n : Nat} {x : α} {e : Nat × α} (h : e ∈ Table.put t n x) : e = (n, x) ∨ e ∈ t := by
  induction t with
  | nil => simpa [Table.put] using h
  | cons a t ih =>
    simp only [Table.put] at h
    split at h
    · rcases List.mem_cons.mp h with h | h
      · exact .inl h
      · exact .inr (List.mem_cons_of_mem _ h)
    · split at h
      · rcases List.mem_cons.mp h with h | h
        · exact .inl h
        · exact .inr h
      · rcases List.mem_cons.mp h with h | h
        · exact .inr (by simp [h])
        · rcases ih h with h | h
          · exact .inl h
          · exact .inr (List.mem_cons_of_mem _ h)

theorem Table.put_rising {α : Type} (t : Table α) (n : Nat) (x : α) (h : t.Pairwise (fun a b => a.1 < b.1)) :
    (Table.put t n x).Pairwise (fun a b => a.1 < b.1) := by
  induction t with
  | nil => simp [Table.put]
  | cons a t ih =>
    obtain ⟨h1, h2⟩ := List.pairwise_cons.mp h
    simp only [Table.put]
    split
    · rename_i h3
      subst h3
      exact List.pairwise_cons.mpr ⟨h1, h2⟩
    · split
      · rename_i h3 h4
        refine List.pairwise_cons.mpr ⟨?_, h⟩
        intro b hb
        rcases List.mem_cons.mp hb with rfl | hb
        · exact h4
        · exact Nat.lt_trans h4 (h1 b hb)
      · rename_i h3 h4
        refine List.pairwise_cons.mpr ⟨?_, ih h2⟩
        intro b hb
        rcases Table.mem_put hb with rfl | hb
        · show a.1 < n
          have h5 : ¬ n < a.1 := h4
          have h6 : n ≠ a.1 := h3
          omega
        · exact h1 b hb

/-- Removing entries keeps the canonical form. -/
theorem Memory.wf_filter (m : Memory) (p : Host.Cell → Bool) (h : m.wf = true) : Memory.wf (m.filter p) = true := by
  rw [Memory.wf_iff] at h ⊢
  exact ⟨h.1.sublist List.filter_sublist, fun e he => h.2 e (List.mem_filter.mp he).1⟩

/-- Writing a byte keeps the canonical form. -/
theorem Memory.wf_write (m : Memory) (k : Nat) (b : Byte) (h : m.wf = true) : (m.write k b).wf = true := by
  unfold Memory.write Table.setD
  split
  · exact Memory.wf_filter m _ h
  · rename_i hb
    rw [Memory.wf_iff] at h ⊢
    refine ⟨Table.put_rising m k b h.1, fun e he => ?_⟩
    rcases Table.mem_put he with rfl | he
    · exact hb
    · exact h.2 e he

/-- Writing a string of bytes keeps the canonical form. -/
theorem Memory.wf_writes (bs : List Byte) : ∀ (m : Memory) (k : Nat), m.wf = true → (m.writes k bs).wf = true := by
  induction bs with
  | nil => intro m k h; exact h
  | cons b t ih => intro m k h; exact ih _ _ (Memory.wf_write m k b h)

/-- Writing a number keeps the canonical form. -/
theorem Memory.wf_writeNat (m : Memory) (k n x : Nat) (h : m.wf = true) : (m.writeNat k n x).wf = true :=
  Memory.wf_writes _ m k h

/-- R71: the memories of the device after reset have the canonical form. -/
theorem State.reset_memories : State.reset.mem.wf = true ∧ State.reset.scratch.wf = true := ⟨rfl, rfl⟩

/-- Little-endian bytes have the length asked for. -/
@[simp] theorem leBytes_length (x n : Nat) : (leBytes x n).length = n := by
  induction n generalizing x with
  | zero => rfl
  | succ n ih => simp [leBytes, ih]

/-- R10: the number of a number's little-endian bytes. -/
theorem leNat_leBytes (n : Nat) : ∀ x : Nat, leNat (leBytes x n) = x % 256 ^ n := by
  induction n with
  | zero => intro x; simp [leBytes, leNat, Nat.mod_one]
  | succ n ih =>
    intro x
    have h : x % 256 ^ (n + 1) = x % 256 + 256 * (x / 256 % 256 ^ n) := by
      rw [show 256 ^ (n + 1) = 256 * 256 ^ n by omega, Nat.mod_mul]
    rw [h]
    simp only [leBytes, leNat, ih, BitVec.toNat_ofNat]

end Sys2Proof.Machine
end

