-- ==== Sys2Proof/Laws/Home.lean ====
section
/-! SUPPORT. Laws/Home.lean: what the homes of frames and the stores that reach them can change (R196, R204, R352 to R372). -/

namespace Sys2Proof.Machine

theorem SameButFire.trans {a b c : Fragment} (h : SameButFire a b) (k : SameButFire b c) : SameButFire a c := by
  rcases h with rfl | ⟨fr, dl, fi, dl1, tv, h1, rfl⟩
  · exact k
  · rcases k with rfl | ⟨fr', dl', fi', dl2, tv', k1, rfl⟩
    · exact .inr ⟨fr, dl, fi, dl1, tv, h1, rfl⟩
    · simp only [FragSt.asleep.injEq, Sleep.mwait.injEq] at k1
      obtain ⟨rfl, -, -⟩ := k1
      exact .inr ⟨fr, dl, fi, dl2, tv', h1, rfl⟩

theorem SameFrags.refl (t : Table Fragment) : SameFrags t t := fun k => by
  cases h : Table.find t k with
  | none => exact .inl ⟨rfl, rfl⟩
  | some f => exact .inr ⟨f, f, rfl, rfl, .inl rfl⟩

theorem SameFrags.trans {t u v : Table Fragment} (h : SameFrags t u) (k : SameFrags u v) : SameFrags t v := fun x => by
  rcases h x with ⟨h1, h2⟩ | ⟨f, f', h1, h2, h3⟩
  · rcases k x with ⟨_, k2⟩ | ⟨g, _, k1, _, _⟩
    · exact .inl ⟨h1, k2⟩
    · rw [h2] at k1; cases k1
  · rcases k x with ⟨k1, _⟩ | ⟨g, g', k1, k2, k3⟩
    · rw [h2] at k1; cases k1
    · rw [h2] at k1
      cases k1
      exact .inr ⟨f, g', h1, k2, h3.trans k3⟩

theorem find_mapV {α : Type} (t : Table α) (k : Nat → α → α) (n : Nat) :
    Table.find (Table.mapV t k) n = (Table.find t n).map (k n) := by
  induction t with
  | nil => rfl
  | cons e t ih =>
    simp only [Table.mapV, List.map_cons, Table.find]
    split
    · rename_i h
      simp [h]
    · exact ih

theorem SameFrags.mapV (t : Table Fragment) (k : Nat → Fragment → Fragment) (hk : ∀ n f, SameButFire f (k n f)) (u : Table Fragment)
    (hu : u = Table.mapV t k) : SameFrags t u := fun x => by
  rw [hu, find_mapV]
  cases h : Table.find t x with
  | none => exact .inl ⟨rfl, rfl⟩
  | some f => exact .inr ⟨f, _, rfl, rfl, hk x f⟩

theorem HomeOnly.refl (s : State) : HomeOnly s s := ⟨rfl, SameFrags.refl _⟩

theorem HomeOnly.trans {s t u : State} (h : HomeOnly s t) (k : HomeOnly t u) : HomeOnly s u :=
  ⟨by rw [k.rest, h.rest], h.frags.trans k.frags⟩

/-- A change that reaches no fragment. -/
theorem HomeOnly.of {s t : State}
    (h : t = { s with bolts := t.bolts, dirs := t.dirs, pushes := t.pushes, marks := t.marks, poison := t.poison, badBlocks := t.badBlocks,
                      badSyms := t.badSyms, hbmStacks := t.hbmStacks, flight := t.flight }) : HomeOnly s t :=
  ⟨by rw [h], by rw [h]; exact SameFrags.refl _⟩

/-- A sequence of changes by homes. -/
theorem HomeOnly.foldl {α : Type} (k : State → α → State) (hk : ∀ s a, HomeOnly s (k s a)) :
    ∀ (l : List α) (s : State), HomeOnly s (l.foldl k s)
  | [], s => HomeOnly.refl s
  | a :: l, s => (hk s a).trans (HomeOnly.foldl k hk l (k s a))

theorem HomeOnly.ite {p : Prop} [Decidable p] {s t u : State} (h : HomeOnly s t) (k : HomeOnly s u) :
    HomeOnly s (if p then t else u) := by
  split <;> assumption

theorem setDir_home (s : State) (fr : Nat) (d : Dir) : HomeOnly s (s.setDir fr d) := .of rfl

/-- A pushed word arrives (R217, R361). -/
theorem applyPush_home (s : State) (p : Push) : HomeOnly s (s.applyPush p) := by
  refine ⟨rfl, ?_⟩
  refine SameFrags.mapV _ _ ?_ _ (by unfold State.applyPush State.pushWakes; with_reducible rfl)
  intro n f
  dsimp only
  split
  · rename_i hst
    split
    · exact .inr ⟨_, _, _, _, _, hst, rfl⟩
    · exact .inl rfl
  · exact .inl rfl

theorem deliver_home (s : State) (fr die : Nat) : HomeOnly s (s.deliver fr die) := by
  unfold State.deliver
  exact HomeOnly.trans (.of rfl) (HomeOnly.foldl _ applyPush_home _ _)

theorem dropReq_home (s : State) (fr q : Nat) : HomeOnly s (s.dropReq fr q) := (deliver_home s fr q).trans (.of rfl)

theorem recallFrame_home (s : State) (fr : Nat) : HomeOnly s (s.recallFrame fr) := by
  unfold State.recallFrame
  exact (HomeOnly.foldl _ (fun s q => dropReq_home s fr q) _ _).trans (setDir_home _ _ _)

theorem proxyKeep_home (s : State) (die fr lo hi : Nat) : HomeOnly s (s.proxyKeep die fr lo hi) :=
  HomeOnly.foldl _ (fun _ _ => .of rfl) _ _

theorem demote_home (s : State) (fr die : Nat) : HomeOnly s (s.demote fr die) := by
  unfold State.demote
  exact HomeOnly.trans (.of rfl) (HomeOnly.foldl _ (fun s (b : Bolt) => proxyKeep_home s die fr b.lo b.hi) _ _)

/-- The actions of a rule (R365). -/
theorem actions_home (s : State) (x : BitVec 32) (r : HomeReq) : HomeOnly s (s.actions x r) := by
  unfold State.actions
  extract_lets frame has d0 others s1 s2 s3 sp joins s4 s5 d1 keep d2
  have h1 : HomeOnly s s1 := HomeOnly.ite (HomeOnly.foldl _ (fun s q => dropReq_home s frame q) _ _) (HomeOnly.refl s)
  have h2 : HomeOnly s1 s2 := HomeOnly.ite (HomeOnly.foldl _ (fun s q => demote_home s frame q) _ _) (HomeOnly.refl _)
  have h3 : HomeOnly s2 s3 := HomeOnly.ite (.of rfl) (HomeOnly.refl _)
  have h4 : HomeOnly s3 s4 := HomeOnly.ite (proxyKeep_home _ _ _ _ _) (HomeOnly.refl _)
  have h5 : HomeOnly s4 s5 := HomeOnly.ite (.of rfl) (HomeOnly.refl _)
  have h : HomeOnly s s5 := (((h1.trans h2).trans h3).trans h4).trans h5
  exact HomeOnly.ite ((h.trans (HomeOnly.foldl _ (fun s (e : Nat × BitVec 256) => dropReq_home s frame e.1) _ _)).trans (setDir_home _ _ _))
    (h.trans (setDir_home _ _ _))

theorem homeRule_home (s : State) (ev : Nat) (r : HomeReq) : HomeOnly s (s.homeRule ev r) :=
  (setDir_home _ _ _).trans (actions_home _ _ _)

theorem makeTracked_home (s : State) (r : HomeReq) : HomeOnly s (s.makeTracked r) := by
  unfold State.makeTracked
  refine HomeOnly.ite (HomeOnly.refl s) ?_
  extract_lets ts s1
  refine HomeOnly.trans (t := s1) (HomeOnly.ite (HomeOnly.refl s) ?_) (setDir_home _ _ _)
  split
  · exact homeRule_home _ _ _
  · exact HomeOnly.refl s

/-- An event that is not held (R365). -/
theorem serveEvent_home (s : State) (ev : Nat) (r : HomeReq) : HomeOnly s (s.serveEvent ev r) := by
  unfold State.serveEvent
  refine HomeOnly.ite (setDir_home _ _ _) ?_
  extract_lets s0 s1 s2 s3 s4
  have h0 : HomeOnly s s0 := makeTracked_home s r
  have h1 : HomeOnly s0 s1 := by
    unfold s1
    split
    · exact homeRule_home _ _ _
    · exact HomeOnly.refl _
  have h2 : HomeOnly s1 s2 := homeRule_home _ _ _
  have h3 : HomeOnly s2 s3 := HomeOnly.ite (setDir_home _ _ _) (HomeOnly.refl _)
  have h4 : HomeOnly s3 s4 := HomeOnly.ite (dropReq_home _ _ _) (HomeOnly.refl _)
  exact ((((h0.trans h1).trans h2).trans h3).trans h4).trans (HomeOnly.ite (.of rfl) (HomeOnly.refl _))

theorem retryHeld_home (fr : Nat) : ∀ (n : Nat) (s : State), HomeOnly s (s.retryHeld fr n)
  | 0, s => HomeOnly.refl s
  | n + 1, s => by
    unfold State.retryHeld
    simp only
    split
    · exact HomeOnly.refl s
    · split
      · exact HomeOnly.refl s
      · exact HomeOnly.ite (HomeOnly.refl s) (((setDir_home _ _ _).trans (serveEvent_home _ _ _)).trans (retryHeld_home fr n _))

theorem noteEvent_home (s : State) (ev : Nat) (r : HomeReq) : HomeOnly s (s.noteEvent ev r) := by
  unfold State.noteEvent
  extract_lets d a
  exact HomeOnly.ite ((dropReq_home _ _ _).trans (setDir_home _ _ _)) (HomeOnly.ite (setDir_home _ _ _) (HomeOnly.refl s))

/-- One event of a frame at its home (R364, R365). -/
theorem homeEvent_home (s : State) (ev : Nat) (r : HomeReq) : HomeOnly s (s.homeEvent ev r) := by
  unfold State.homeEvent
  refine HomeOnly.ite (HomeOnly.refl s) ?_
  extract_lets s0 _ s1
  have h0 : HomeOnly s s0 := noteEvent_home s ev r
  have h1 : HomeOnly s0 s1 := serveEvent_home s0 ev r
  exact h0.trans (HomeOnly.ite (setDir_home _ _ _) (h1.trans (retryHeld_home _ _ _)))

theorem collect_home (fr : Nat) : ∀ (n : Nat) (s : State), HomeOnly s (s.collect fr n)
  | 0, s => setDir_home _ _ _
  | n + 1, s => by
    unfold State.collect
    split
    · exact setDir_home _ _ _
    · exact (homeEvent_home _ _ _).trans (collect_home fr n _)

theorem homeAsk_home (s : State) (ev : Nat) (r : HomeReq) : HomeOnly s (s.homeAsk ev r) :=
  ((deliver_home _ _ _).trans (homeEvent_home _ ev r)).trans (collect_home _ _ _)

theorem queueAsk_home (s : State) (who : Nat) (a : Nat × HomeReq) : HomeOnly s (s.queueAsk who a) :=
  HomeOnly.ite (HomeOnly.refl s) (setDir_home _ _ _)

theorem ask_home (s : State) (a : Nat × HomeReq) : HomeOnly s (s.ask a) := by
  unfold State.ask
  extract_lets d s1
  have h1 : HomeOnly s s1 := by
    unfold s1
    split
    · exact setDir_home _ _ _
    · exact HomeOnly.refl s
  exact h1.trans (homeAsk_home _ _ _)

theorem askOpt_home (s : State) (a : Option (Nat × HomeReq)) : HomeOnly s (s.askOpt a) := by
  cases a with
  | none => exact HomeOnly.refl s
  | some a => exact ask_home s a

theorem checkBlock_home (s : State) (b : Nat) : HomeOnly s (s.checkBlock b) := by
  unfold State.checkBlock
  extract_lets
  exact HomeOnly.ite (HomeOnly.refl s) (HomeOnly.ite (.of rfl) (.of rfl))

/-- A home slice comes to hold granules (R170, R329). -/
theorem readBlocks_home (s : State) (ks : List Nat) : HomeOnly s (s.readBlocks ks) :=
  HomeOnly.foldl _ (fun s _ => .ite (checkBlock_home s _) (.refl s)) ks s

/-- Where no symbol is erroneous, reading blocks changes nothing. -/
theorem readBlocks_sound {s : State} (h : s.badSyms = []) (ks : List Nat) : s.readBlocks ks = s := by
  induction ks with
  | nil => rfl
  | cons k ks ih =>
    have e : s.checkBlock (k / 64) = s := by simp [State.checkBlock, h, Table.getD]
    simp only [State.readBlocks, List.foldl_cons, e, ite_self] at ih ⊢
    exact ih

theorem homeHold_home (s : State) (fr lo hi : Nat) : HomeOnly s (s.homeHold fr lo hi) := by
  unfold State.homeHold
  refine HomeOnly.ite (HomeOnly.refl s) ?_
  extract_lets lacks blocks s1 bad
  have h1 : HomeOnly s s1 := HomeOnly.ite (HomeOnly.foldl _ checkBlock_home _ _) (HomeOnly.refl s)
  exact h1.trans (.of rfl)

theorem fill_home (s : State) (core slot ctx fr lo hi : Nat) : HomeOnly s (s.fill core slot ctx fr lo hi) := by
  unfold State.fill
  extract_lets pat a far alone need s1 x s2
  have h1 : HomeOnly s s1 := HomeOnly.ite ((homeHold_home _ _ _ _).trans (askOpt_home _ _)) (HomeOnly.refl _)
  have h2 : HomeOnly s1 s2 := .of rfl
  exact HomeOnly.ite ((recallFrame_home _ _).trans (homeHold_home _ _ _ _))
    (HomeOnly.ite h1 ((h1.trans h2).trans (HomeOnly.ite (.of rfl) (HomeOnly.refl _))))

theorem serve_home (s : State) (core slot ctx fr : Nat) (sp : List (Nat × Nat)) (gs : List Nat) :
    HomeOnly s (s.serve core slot ctx fr sp gs) := by
  unfold State.serve
  split
  · exact fill_home _ _ _ _ _ _ _
  · exact HomeOnly.refl s

theorem fetch_home (s : State) (core slot ctx : Nat) (accs : List (Nat × Nat)) (spans : Table (List (Nat × Nat))) :
    HomeOnly s (s.fetch core slot ctx accs spans) :=
  (HomeOnly.foldl _ (fun s (a : Nat × HomeReq) => HomeOnly.trans (t := s.dropFor core a) (.of rfl) (ask_home _ a)) _ _).trans
    (HomeOnly.foldl _ (fun s (e : Nat × List (Nat × Nat)) => serve_home s core slot ctx e.1 e.2 (granulesOf accs e.1)) _ _)

/-- R171, R370: the fills of an instruction only ask homes. -/
theorem fillFor_home (s : State) (core slot ctx : Nat) (accs : List (Nat × Nat)) (hint : Nat) :
    HomeOnly s (s.fillFor core slot ctx accs hint) := fetch_home _ _ _ _ _ _

theorem storeEvent_home (s : State) (kind : StoreKind) (core ctx key n : Nat) : HomeOnly s (s.storeEvent kind core ctx key n) := by
  unfold State.storeEvent
  extract_lets frame die s1
  have h1 : HomeOnly s s1 := HomeOnly.ite (.of rfl) (HomeOnly.refl s)
  refine HomeOnly.ite (recallFrame_home _ _) (h1.trans ?_)
  split
  · exact HomeOnly.trans (HomeOnly.ite (dropReq_home _ _ _) (HomeOnly.refl _)) (ask_home _ _)
  · exact HomeOnly.ite (setDir_home _ _ _) (HomeOnly.refl _)

theorem ownBolt_home (s : State) (k : StoreKind) (core owner ctx key : Nat) (bs : List Byte) (hint : Nat) (guess : Option Nat) :
    HomeOnly s (s.ownBolt k core owner ctx key bs hint guess) := by
  unfold State.ownBolt
  extract_lets
  exact HomeOnly.ite (.of rfl) (HomeOnly.ite (.of rfl) (HomeOnly.ite (.of rfl) (.of rfl)))

-- Stores.

/-- From `s` to `t` stores happen: homes act, the bytes stored and what is in flight of them change; no group, team, context or register
does. -/
structure StoresOnly (s t : State) : Prop where
  rest  : t = { s with free := t.free, bolts := t.bolts, dirs := t.dirs, pushes := t.pushes, marks := t.marks, mem := t.mem,
                       flight := t.flight, poison := t.poison, badBlocks := t.badBlocks, badSyms := t.badSyms, hbmStacks := t.hbmStacks,
                       frags := t.frags }
  frags : SameFrags s.frags t.frags
  wf    : s.mem.wf = true → t.mem.wf = true

theorem StoresOnly.refl (s : State) : StoresOnly s s := ⟨rfl, SameFrags.refl _, id⟩

theorem StoresOnly.trans {s t u : State} (h : StoresOnly s t) (k : StoresOnly t u) : StoresOnly s u :=
  ⟨by rw [k.rest, h.rest], h.frags.trans k.frags, k.wf ∘ h.wf⟩

theorem HomeOnly.stores {s t : State} (h : HomeOnly s t) : StoresOnly s t :=
  ⟨by rw [h.rest], h.frags, fun hm => by rw [h.rest]; exact hm⟩

theorem useFree_stores (s : State) : StoresOnly s s.useFree := ⟨rfl, SameFrags.refl _, id⟩

theorem fireMonitors_stores (s : State) (a : Agent) (fr tv : Nat) : StoresOnly s (s.fireMonitors a fr tv) := by
  refine ⟨rfl, ?_, id⟩
  refine SameFrags.mapV _ _ ?_ _ (by unfold State.fireMonitors; with_reducible rfl)
  intro n f
  split
  · rename_i hst
    split
    · exact .inr ⟨_, _, _, _, _, hst, rfl⟩
    · exact .inl rfl
  · exact .inl rfl

/-- One store within a frame (R196, R204): the byte at every key outside the bytes stored reads as before. -/
theorem storeFrame_spec (s : State) (k : StoreKind) (a : Agent) (ctx key hint : Nat) (bs : List Byte) :
    StoresOnly s (s.storeFrame k a ctx key hint bs).1
    ∧ (∀ j, (j < key ∨ key + bs.length ≤ j) → (s.storeFrame k a ctx key hint bs).1.mem.read j = s.mem.read j)
    ∧ (s.dropsStore key = false → ∀ i (h : i < bs.length), (s.storeFrame k a ctx key hint bs).1.mem.read (key + i) = bs[i]) := by
  unfold State.storeFrame
  extract_lets n tv sp s1 fl s2 s3 s4 s5
  split
  · rename_i hd
    exact ⟨StoresOnly.refl s, fun _ _ => rfl, fun h => by simp [h] at hd⟩
  · have h1 : HomeOnly s.useFree s1 := (homeHold_home _ _ _ _).trans (.of rfl)
    have m1 : s1.mem = s.mem := by rw [h1.rest]; rfl
    have h2 : StoresOnly s1 s2 := ⟨rfl, SameFrags.refl _, fun hw => Memory.wf_writes _ _ _ hw⟩
    have h5 : HomeOnly s2 s5 := ((storeEvent_home _ _ _ _ _ _).trans (t := s3) (.of rfl)).trans (t := s4) (ownBolt_home _ _ _ _ _ _ _ _ _)
    have h6 : StoresOnly s5 (s5.fireMonitors a (key / 256) tv) := fireMonitors_stores _ _ _ _
    have m6 : (s5.fireMonitors a (key / 256) tv).mem = s.mem.writes key bs := by
      show s5.mem = _
      rw [h5.rest]
      show s1.mem.writes key bs = _
      rw [m1]
    refine ⟨((((useFree_stores s).trans h1.stores).trans h2).trans h5.stores).trans h6, ?_, ?_⟩
    · intro j hj
      rw [m6, Memory.read_writes_outside _ _ _ _ hj]
    · intro _ i hi
      rw [m6]
      exact Memory.read_writes_inside bs s.mem key i hi

/-- A string of bytes put after another string of bytes. -/
theorem Memory.read_writes_agree (bs : List Byte) (m m' : Memory) (k j : Nat) (h : m.read j = m'.read j) :
    (m.writes k bs).read j = (m'.writes k bs).read j := by
  by_cases hj : k ≤ j ∧ j < k + bs.length
  · obtain ⟨i, rfl⟩ := Nat.exists_eq_add_of_le hj.1
    rw [Memory.read_writes_inside _ _ _ _ (by omega), Memory.read_writes_inside _ _ _ _ (by omega)]
  · rw [Memory.read_writes_outside _ _ _ _ (by omega), Memory.read_writes_outside _ _ _ _ (by omega), h]

/-- The parts of an access by frame lie within it. -/
theorem frameParts_within (key n : Nat) {p : Nat × Nat} (h : p ∈ frameParts key n) : key ≤ p.1 ∧ p.1 + p.2 ≤ key + n ∧ 0 < p.2 := by
  unfold frameParts at h
  split at h
  · simp at h
  · simp only [List.mem_map, List.mem_range] at h
    obtain ⟨i, hi, rfl⟩ := h
    simp only
    omega

/-- Stores of an agent (R168, R196): every byte outside the bytes stored reads as before, and nothing but what stores change changes. -/
theorem storeParts_spec (k : StoreKind) (a : Agent) (ctx hint : Nat) (bs : List Byte) (key : Nat) :
    ∀ (ps : List (Nat × Nat)) (s : State), (∀ p ∈ ps, key ≤ p.1 ∧ p.1 + p.2 ≤ key + bs.length) →
      StoresOnly s (s.storeParts k a ctx hint bs key ps).1
      ∧ ∀ j, (j < key ∨ key + bs.length ≤ j) → (s.storeParts k a ctx hint bs key ps).1.mem.read j = s.mem.read j := by
  intro ps
  induction ps with
  | nil => intro s _; exact ⟨StoresOnly.refl s, fun _ _ => rfl⟩
  | cons p t ih =>
    intro s hp
    obtain ⟨hp1, hp2⟩ := hp p (by simp)
    unfold State.storeParts
    extract_lets r q
    obtain ⟨f1, f2, _⟩ := storeFrame_spec s k a ctx p.1 hint ((bs.drop (p.1 - key)).take p.2)
    have hlen : ((bs.drop (p.1 - key)).take p.2).length = p.2 := by
      rw [List.length_take, List.length_drop]; omega
    obtain ⟨g1, g2⟩ := ih r.1 (fun x hx => hp x (by simp [hx]))
    refine ⟨f1.trans g1, fun j hj => ?_⟩
    show q.1.mem.read j = s.mem.read j
    rw [g2 j hj]
    exact f2 j (by rw [hlen]; omega)

/-- The frame of a store. -/
theorem storeAs_spec (s : State) (k : StoreKind) (a : Agent) (ctx key hint : Nat) (bs : List Byte) :
    StoresOnly s (s.storeAs k a ctx key hint bs).1
    ∧ ∀ j, (j < key ∨ key + bs.length ≤ j) → (s.storeAs k a ctx key hint bs).1.mem.read j = s.mem.read j :=
  storeParts_spec k a ctx hint bs key _ s (fun _ hp => ⟨(frameParts_within key _ hp).1, (frameParts_within key _ hp).2.1⟩)

theorem store_spec (s : State) (a : Agent) (ctx key hint : Nat) (bs : List Byte) :
    StoresOnly s (s.store a ctx key hint bs).1
    ∧ ∀ j, (j < key ∨ key + bs.length ≤ j) → (s.store a ctx key hint bs).1.mem.read j = s.mem.read j :=
  storeAs_spec s .plain a ctx key hint bs

end Sys2Proof.Machine
end

