-- ==== Sys2Proof/Laws/Window.lean ====
section
/-! SUPPORT. Laws/Window.lean: reading a group's window after a write to it (R72, R82). -/

namespace Sys2Proof.Machine

/-- A bit of a value of which a field was replaced. -/
theorem getLsbD_setBits {w : Nat} (x : BitVec w) (lo n v i : Nat) :
    (setBits x lo n v).getLsbD i = if i < w ∧ lo ≤ i ∧ i < lo + n then v.testBit (i - lo) else x.getLsbD i := by
  have h1 : ((2 ^ n - 1) * 2 ^ lo).testBit i = (decide (lo ≤ i) && decide (i - lo < n)) := by
    rw [Nat.testBit_mul_two_pow, Nat.testBit_two_pow_sub_one]
  have h2 : (v % 2 ^ n * 2 ^ lo).testBit i = (decide (lo ≤ i) && (decide (i - lo < n) && v.testBit (i - lo))) := by
    rw [Nat.testBit_mul_two_pow, Nat.testBit_mod_two_pow]
  by_cases hw : i < w
  · simp only [setBits, BitVec.getLsbD_or, BitVec.getLsbD_and, BitVec.getLsbD_not, BitVec.getLsbD_ofNat, h1, h2, hw]
    by_cases ha : lo ≤ i <;> by_cases hb : i - lo < n
    · simp [ha, hb, show i < lo + n by omega]
    · simp [ha, hb, show ¬ i < lo + n by omega]
    · simp [ha]
    · simp [ha]
  · have : ∀ y : BitVec w, y.getLsbD i = false := fun y => BitVec.getLsbD_of_ge y i (by omega)
    simp [this, hw]

/-- A lane's slot reads as it was written. -/
@[simp] theorem Line.slot_setSlot_self (x : Line) (l : Nat) (v : Slot) (h : l < 32) : (x.setSlot l v).slot l = v := by
  apply BitVec.eq_of_getLsbD_eq
  intro i hi
  simp only [Line.slot, Line.setSlot, BitVec.getLsbD_extractLsb', getLsbD_setBits]
  rw [if_pos (by omega)]
  simp [hi, BitVec.testBit_toNat]

/-- Writing a lane's slot leaves the other lanes alone (R82). -/
theorem Line.slot_setSlot_ne (x : Line) {l m : Nat} (v : Slot) (h : m ≠ l) : (x.setSlot l v).slot m = x.slot m := by
  apply BitVec.eq_of_getLsbD_eq
  intro i hi
  simp only [Line.slot, Line.setSlot, BitVec.getLsbD_extractLsb', getLsbD_setBits]
  rw [if_neg (by omega)]

@[simp] theorem Line.setSlot_tag (x : Line) (l : Nat) (v : Slot) : (x.setSlot l v).tag = x.tag := rfl

@[simp] theorem Group.line_setLine_self (g : Group) (n : Nat) (x : Line) : (g.setLine n x).line n = x := by
  simp [Group.line, Group.setLine]

theorem Group.line_setLine_ne (g : Group) {n m : Nat} (x : Line) (h : m ≠ n) : (g.setLine n x).line m = g.line m := by
  simp [Group.line, Group.setLine, Table.getD_setD_ne _ _ _ h]

/-- Slots written one after another, for lanes that occur once. -/
theorem slot_foldl_setSlot (vs : List (Nat × Slot)) : ∀ (x : Line) (l : Nat), (vs.map Prod.fst).Nodup → l < 32 →
    (vs.foldl (fun x v => x.setSlot v.1 v.2) x).slot l = ((Table.find vs l).getD (x.slot l)) := by
  induction vs with
  | nil => intro x l _ _; rfl
  | cons v t ih =>
    intro x l hn hl
    simp only [List.map_cons, List.nodup_cons] at hn
    rw [List.foldl_cons, ih _ _ hn.2 hl]
    by_cases h : v.1 = l
    · have hno : Table.find t l = none := by
        have : ∀ u : List (Nat × Slot), l ∉ u.map Prod.fst → Table.find u l = none := by
          intro u
          induction u with
          | nil => intro _; rfl
          | cons e u ihu =>
            intro hu
            simp only [List.map_cons, List.mem_cons, not_or] at hu
            simp only [Table.find]
            rw [if_neg (Ne.symm hu.1)]
            exact ihu hu.2
        exact this t (h ▸ hn.1)
      rw [hno]
      obtain ⟨a, b⟩ := v
      simp only at h
      subst h
      simp [Table.find, Line.slot_setSlot_self _ _ _ hl]
    · obtain ⟨a, b⟩ := v
      simp only at h
      simp [Table.find, h, Line.slot_setSlot_ne _ _ (Ne.symm h)]

/-- R82: a line after slots of it were written. -/
theorem Group.writeSlots_slot (g : Group) (n tag : Nat) (vs : List (Nat × Slot)) (l : Nat) (h : (vs.map Prod.fst).Nodup) (hl : l < 32) :
    ((g.writeSlots n tag vs).line n).slot l = (Table.find vs l).getD ((g.line n).slot l) := by
  unfold Group.writeSlots
  split
  · rename_i he
    simp only [List.isEmpty_iff] at he
    subst he
    rfl
  · rw [Group.line_setLine_self]
    exact slot_foldl_setSlot vs _ l h hl

/-- R82: writing a line leaves every other line alone. -/
theorem Group.writeSlots_line_ne (g : Group) {n m : Nat} (tag : Nat) (vs : List (Nat × Slot)) (h : m ≠ n) :
    (g.writeSlots n tag vs).line m = g.line m := by
  unfold Group.writeSlots
  split
  · rfl
  · exact Group.line_setLine_ne _ _ h

/-- R82: a line that is written takes the tag. -/
theorem Group.writeSlots_tag (g : Group) (n tag : Nat) (vs : List (Nat × Slot)) (h : vs ≠ []) :
    ((g.writeSlots n tag vs).line n).tag = BitVec.ofNat 5 tag := by
  unfold Group.writeSlots
  split
  · simp_all
  · rw [Group.line_setLine_self]

/-- Writing a line changes nothing of a group but its window. -/
theorem Group.writeSlots_rest (g : Group) (n tag : Nat) (vs : List (Nat × Slot)) :
    g.writeSlots n tag vs = { g with win := (g.writeSlots n tag vs).win } := by
  unfold Group.writeSlots
  split <;> rfl

-- Masks.

/-- A lane is of a mask's list if its bit is set. -/
theorem Mask.mem_lanes (m : Mask) (l : Nat) : l ∈ Mask.lanes m ↔ m.getLsbD l = true := by
  simp only [Mask.lanes, lanes32, List.mem_filter, List.mem_range]
  constructor
  · exact fun h => h.2
  · exact fun h => ⟨BitVec.lt_of_getLsbD h, h⟩

/-- The lanes of a mask occur once each. -/
theorem Mask.lanes_nodup (m : Mask) : (Mask.lanes m).Nodup := List.Pairwise.filter _ List.nodup_range

@[simp] theorem Mask.lanes_zero : Mask.lanes 0 = [] := by decide

/-- A mask has no lane only if it is zero. -/
theorem Mask.lanes_eq_nil (m : Mask) : Mask.lanes m = [] ↔ m = 0 := by
  constructor
  · intro h
    apply BitVec.eq_of_getLsbD_eq
    intro i hi
    have h1 : ¬ i ∈ Mask.lanes m := by simp [h]
    rw [Mask.mem_lanes] at h1
    simpa using h1
  · rintro rfl
    exact Mask.lanes_zero

/-- What a list of one value for each lane of a mask holds for a lane. -/
theorem find_map_lanes {β : Type} (m : Mask) (k : Nat → β) (l : Nat) :
    Table.find ((Mask.lanes m).map (fun i => (i, k i))) l = if m.getLsbD l then some (k l) else none := by
  have h : ∀ ls : List Nat, Table.find (ls.map (fun i => (i, k i))) l = if l ∈ ls then some (k l) else none := by
    intro ls
    induction ls with
    | nil => rfl
    | cons a t ih =>
      simp only [List.map_cons, Table.find, ih, List.mem_cons]
      by_cases h1 : a = l
      · subst h1; simp
      · simp [h1, Ne.symm h1]
  rw [h]
  simp only [Mask.mem_lanes]

end Sys2Proof.Machine
end

