-- ==== Sys2Proof/Laws/Issue.lean ====
section
/-! SUPPORT. Laws/Issue.lean: once for all, what issuing an instruction does when nothing stands in its way (R28), and where its lanes
go (R46, R19, R20). -/

namespace Sys2Proof.Machine

@[simp] theorem State.group?_putGroup_self (s : State) (core slot : Nat) (g : Group) :
    (s.putGroup core slot g).group? core slot = some g := by
  simp [State.group?, State.putGroup]

@[simp] theorem State.frag?_putFrag_self (s : State) (core fi : Nat) (f : Fragment) :
    (s.putFrag core fi f).frag? core fi = some f := by
  simp [State.frag?, State.putFrag]

theorem State.frag?_putFrag_ne (s : State) (core : Nat) {fi j : Nat} (f : Fragment) (h : j ≠ fi) :
    (s.putFrag core fi f).frag? core j = s.frag? core j := by
  simp only [State.frag?, State.putFrag]
  exact Table.find_put_ne _ _ (by simp only [fragKey]; omega)

@[simp] theorem State.group?_putFrag (s : State) (core fi c sl : Nat) (f : Fragment) :
    (s.putFrag core fi f).group? c sl = s.group? c sl := rfl

@[simp] theorem State.group?_freeFrag (s : State) (core fi c sl : Nat) : (s.freeFrag core fi).group? c sl = s.group? c sl := rfl

/-- Changing a group that is there. -/
theorem State.group?_updGroup (s : State) (core slot : Nat) (f : Group → Group) {g : Group} (h : s.group? core slot = some g) :
    (s.updGroup core slot f).group? core slot = some (f g) := by
  have h' : Table.find s.groups (slotKey core slot) = some g := h
  simp [State.group?, State.updGroup, Table.upd, h']

/-- Changing a group leaves every other group alone. -/
theorem State.updGroup_other (s : State) (core slot : Nat) (f : Group → Group) {k : Nat} (h : k ≠ slotKey core slot) :
    Table.find (s.updGroup core slot f).groups k = Table.find s.groups k := by
  simp only [State.updGroup, Table.upd]
  split
  · rfl
  · exact Table.find_put_ne _ _ h

/-- Selecting a fragment changes nothing but the group's record of which one runs (R19, R22). -/
theorem State.select_spec (s : State) (core slot : Nat) {g : Group} (h : s.group? core slot = some g) :
    ∃ r p, s.select core slot = s.putGroup core slot { g with run := r, passes := p } := by
  unfold State.select
  rw [h]
  exact ⟨_, _, rfl⟩

/-- From `s` to `t` only fragments change, and the passes of the group in a slot (R20, R22). -/
structure MergeOnly (s t : State) (core slot : Nat) : Prop where
  rest   : t = { s with groups := t.groups, frags := t.frags, fgens := t.fgens }
  group  : ∀ g, s.group? core slot = some g → ∃ p, t.group? core slot = some { g with passes := p }
  groups : ∀ k, k ≠ slotKey core slot → Table.find t.groups k = Table.find s.groups k

theorem MergeOnly.refl (s : State) (core slot : Nat) : MergeOnly s s core slot := ⟨rfl, fun g h => ⟨g.passes, h⟩, fun _ _ => rfl⟩

theorem MergeOnly.trans {s t u : State} {core slot : Nat} (h : MergeOnly s t core slot) (k : MergeOnly t u core slot) :
    MergeOnly s u core slot :=
  ⟨by rw [k.rest, h.rest],
    fun g hg => by
      obtain ⟨p, hp⟩ := h.group g hg
      obtain ⟨q, hq⟩ := k.group _ hp
      exact ⟨q, hq⟩,
    fun x hx => by rw [k.groups x hx, h.groups x hx]⟩

/-- A mask within another lies within every mask that holds that one. -/
theorem Mask.sub_or {m a : Mask} (h : m &&& ~~~a = 0) (b : Mask) : m &&& ~~~(a ||| b) = 0 := by
  have h1 : m &&& ~~~(a ||| b) = (m &&& ~~~a) &&& ~~~b := by
    apply BitVec.eq_of_getLsbD_eq
    intro i hi
    simp only [BitVec.getLsbD_and, BitVec.getLsbD_or, BitVec.getLsbD_not, hi, decide_true, Bool.true_and]
    cases m.getLsbD i <;> cases a.getLsbD i <;> cases b.getLsbD i <;> rfl
  rw [h1, h]
  simp

/-- Two fragments of a group merge: only their entries, the freed entry's generation and the group's passes change. -/
theorem State.mergeTwo_spec (s : State) (core i j : Nat) {a b : Fragment} (hij : i ≠ j) (ha : s.frag? core i = some a)
    (hb : s.frag? core j = some b) (hs : a.slot = b.slot) :
    ∃ f, (s.mergeTwo core i j).frag? core (min i j) = some f ∧ f.slot = a.slot ∧ (f.blk = a.blk ∨ f.blk = b.blk)
      ∧ (f.idx = a.idx ∨ f.idx = b.idx) ∧ f.mask = a.mask ||| b.mask ∧ MergeOnly s (s.mergeTwo core i j) core a.slot
      ∧ ∀ k, k ≠ fragKey core i → k ≠ fragKey core j → Table.find (s.mergeTwo core i j).frags k = Table.find s.frags k := by
  have hk : ∀ x y : Nat, x ≠ y → fragKey core x ≠ fragKey core y := fun x y h => by simp only [fragKey]; omega
  unfold State.mergeTwo
  simp only [ha, hb]
  refine ⟨{ (if i < j then a else b) with mask := a.mask ||| b.mask, entered := a.entered && b.entered, acq := joinAcq a.acq b.acq },
    ?_, ?_, ?_, ?_, rfl, ⟨rfl, ?_, ?_⟩, ?_⟩
  case refine_1 =>
    simp only [State.frag?, State.updGroup, State.freeFrag, State.putFrag]
    rw [Table.find_del_ne _ (hk _ _ (by omega))]
    exact Table.find_put_self _ _ _
  case refine_2 => by_cases h : i < j <;> simp [h, hs]
  case refine_3 => by_cases h : i < j <;> simp [h]
  case refine_4 => by_cases h : i < j <;> simp [h]
  case refine_5 => exact fun g hg => ⟨_, State.group?_updGroup _ _ _ _ hg⟩
  case refine_6 => exact fun k h => State.updGroup_other _ _ _ _ h
  case refine_7 =>
    intro k h1 h2
    simp only [State.updGroup, State.freeFrag, State.putFrag]
    have h3 : k ≠ fragKey core (max i j) := by rcases Nat.le_total i j with h | h <;> simp [h, h1, h2]
    have h4 : k ≠ fragKey core (min i j) := by rcases Nat.le_total i j with h | h <;> simp [h, h1, h2]
    rw [Table.find_del_ne _ h3, Table.find_put_ne _ _ h4]

/-- Merging a fragment of a group with each of a list of others. -/
theorem State.mergeAll_spec (core slot blk : Nat) (m : Mask) : ∀ (L : List (Nat × Fragment)) (s : State) (i : Nat) (a : Fragment),
    s.frag? core i = some a → a.slot = slot → a.blk = blk → a.idx = 0 → m &&& ~~~a.mask = 0 →
    (∀ e ∈ L, e.2.slot = slot ∧ e.2.blk = blk ∧ e.2.idx = 0) →
    (∀ e ∈ L, s.frag? core e.1 = some e.2 ∧ i ≠ e.1) → (L.map Prod.fst).Nodup →
    ∃ f, let r := L.foldl (fun (acc : State × Nat) e => (acc.1.mergeTwo core acc.2 e.1, min acc.2 e.1)) (s, i)
      r.1.frag? core r.2 = some f ∧ f.blk = blk ∧ f.idx = 0 ∧ m &&& ~~~f.mask = 0 ∧ MergeOnly s r.1 core slot
      ∧ ∀ k, k ≠ fragKey core i → (∀ e ∈ L, k ≠ fragKey core e.1) → Table.find r.1.frags k = Table.find s.frags k := by
  intro L
  induction L with
  | nil => intro s i a h1 _ h2 h3 h4 _ _ _; exact ⟨a, h1, h2, h3, h4, MergeOnly.refl _ _ _, fun _ _ _ => rfl⟩
  | cons e t ih =>
    intro s i a h1 h0 h2 h3 h4 h5 h6 h7
    obtain ⟨he1, he2⟩ := h6 e (by simp)
    obtain ⟨he0, he3, he4⟩ := h5 e (by simp)
    obtain ⟨f, q1, q0, q2, q3, q4, q5, q6⟩ := State.mergeTwo_spec s core i e.1 he2 h1 he1 (by rw [h0, he0])
    have hm : m &&& ~~~f.mask = 0 := by
      rw [q4]
      exact Mask.sub_or h4 _
    simp only [List.map_cons, List.nodup_cons] at h7
    have hne : ∀ x ∈ t, x.1 ≠ e.1 := fun x hx hxe => h7.1 (hxe ▸ List.mem_map_of_mem hx)
    have hrest : ∀ x ∈ t, (s.mergeTwo core i e.1).frag? core x.1 = some x.2 ∧ min i e.1 ≠ x.1 := by
      intro x hx
      obtain ⟨a1, a2⟩ := h6 x (by simp [hx])
      have a3 := hne x hx
      refine ⟨?_, by omega⟩
      rw [← a1]
      exact q6 _ (by simp only [fragKey]; omega) (by simp only [fragKey]; omega)
    obtain ⟨f', p1, p2, p3, p4, p5, p6⟩ := ih (s.mergeTwo core i e.1) (min i e.1) f q1 (by rw [q0, h0])
      (by rcases q2 with h | h <;> simp [h, h2, he3]) (by rcases q3 with h | h <;> simp [h, h3, he4]) hm
      (fun x hx => h5 x (by simp [hx])) hrest h7.2
    refine ⟨f', p1, p2, p3, p4, (h0 ▸ q5).trans p5, ?_⟩
    intro k hk1 hk2
    simp only [List.foldl_cons]
    rw [p6 k ?_ (fun x hx => hk2 x (by simp [hx])), q6 k hk1 (hk2 e (by simp))]
    have := hk2 e (by simp)
    rcases Nat.le_total i e.1 with h | h <;> simp [h, hk1, this]

/-- The fragments that a group's list shows are in the table, with that slot; no index occurs twice. -/
theorem State.mem_fragsOf (s : State) (core slot : Nat) (e : Nat × Fragment) :
    e ∈ s.fragsOf core slot ↔ e.1 < 64 ∧ s.frag? core e.1 = some e.2 ∧ e.2.slot = slot := by
  obtain ⟨i, f⟩ := e
  simp only [State.fragsOf, List.mem_filterMap, List.mem_range]
  constructor
  · rintro ⟨j, hj, h⟩
    split at h
    · split at h
      · simp only [Option.some.injEq, Prod.mk.injEq] at h
        obtain ⟨rfl, rfl⟩ := h
        exact ⟨hj, by assumption, by assumption⟩
      · simp at h
    · simp at h
  · rintro ⟨h1, h2, h3⟩
    exact ⟨i, h1, by simp [h2, h3]⟩

theorem State.fragsOf_nodup (s : State) (core slot : Nat) : ((s.fragsOf core slot).map Prod.fst).Nodup := by
  have key : ∀ L : List Nat, L.Nodup → ((L.filterMap (fun i => match s.frag? core i with
      | some f => if f.slot = slot then some (i, f) else none
      | none => none)).map Prod.fst).Nodup := by
    intro L
    induction L with
    | nil => intro _; simp
    | cons a t ih =>
      intro h
      obtain ⟨h1, h2⟩ := List.nodup_cons.mp h
      simp only [List.filterMap_cons]
      split
      · exact ih h2
      · rename_i b hb
        split at hb
        · split at hb
          · simp only [Option.some.injEq] at hb
            subst hb
            simp only [List.map_cons, List.nodup_cons]
            refine ⟨?_, ih h2⟩
            intro hmem
            obtain ⟨⟨x, y⟩, hx1, hx2⟩ := List.mem_map.mp hmem
            simp only at hx2
            subst hx2
            obtain ⟨j, hj, hj2⟩ := List.mem_filterMap.mp hx1
            split at hj2
            · split at hj2
              · simp only [Option.some.injEq, Prod.mk.injEq] at hj2
                exact h1 (hj2.1 ▸ hj)
              · simp at hj2
            · simp at hj2
          · simp at hb
        · simp at hb
  exact key _ List.nodup_range

/-- R20: a fragment that arrives at a block merges: it, or what it becomes, stands there with all its lanes, and only fragments of its group
change. -/
theorem State.merge_spec (s : State) (core slot fi : Nat) {f : Fragment} (h : s.frag? core fi = some f) (hi : f.idx = 0)
    (hs : f.slot = slot) :
    ∃ j f', (s.merge core slot fi).frag? core j = some f' ∧ f'.blk = f.blk ∧ f'.idx = 0 ∧ f.mask &&& ~~~f'.mask = 0
      ∧ MergeOnly s (s.merge core slot fi) core slot
      ∧ ∀ k, k ≠ fragKey core fi → (∀ x, Table.find s.frags k = some x → k / 64 = core → x.slot ≠ slot) →
          Table.find (s.merge core slot fi).frags k = Table.find s.frags k := by
  have h0 : f.mask &&& ~~~f.mask = 0 := by simp
  have stays : ∃ j f', s.frag? core j = some f' ∧ f'.blk = f.blk ∧ f'.idx = 0 ∧ f.mask &&& ~~~f'.mask = 0 ∧ MergeOnly s s core slot
      ∧ ∀ k, k ≠ fragKey core fi → (∀ x, Table.find s.frags k = some x → k / 64 = core → x.slot ≠ slot) →
          Table.find s.frags k = Table.find s.frags k := ⟨fi, f, h, rfl, hi, h0, MergeOnly.refl _ _ _, fun _ _ _ => rfl⟩
  unfold State.merge
  simp only [h]
  split
  · rename_i a g ha hg
    cases ha
    split
    · exact stays
    · have hin : ∀ e ∈ (s.fragsOf core slot).filter (fun e => e.1 != fi && !g.issuing e.1 && e.2.mergeable f.blk),
          (e.1 < 64 ∧ s.frag? core e.1 = some e.2 ∧ e.2.slot = slot) ∧ fi ≠ e.1 ∧ e.2.blk = f.blk ∧ e.2.idx = 0 := by
        intro e he
        obtain ⟨a, b⟩ := List.mem_filter.mp he
        simp only [Fragment.mergeable, Bool.and_eq_true, bne_iff_ne, ne_eq, beq_iff_eq] at b
        exact ⟨(State.mem_fragsOf s core slot e).mp a, Ne.symm b.1.1, b.2.1.2, b.2.2⟩
      obtain ⟨f', p1, p2, p3, p4, p5, p6⟩ := State.mergeAll_spec core slot f.blk f.mask _ s fi f h hs rfl hi h0
        (fun e he => ⟨(hin e he).1.2.2, (hin e he).2.2⟩) (fun e he => ⟨(hin e he).1.2.1, (hin e he).2.1⟩)
        (List.Nodup.sublist (List.Sublist.map _ List.filter_sublist) (State.fragsOf_nodup s core slot))
      refine ⟨_, f', p1, p2, p3, p4, p5, fun k hk1 hk2 => p6 k hk1 (fun e he hke => ?_)⟩
      refine hk2 e.2 (by rw [hke]; exact (hin e he).1.2.1) ?_ (hin e he).1.2.2
      have := (hin e he).1.1
      rw [hke]; simp only [fragKey]; omega
  · exact stays

/-- R46: the issuing fragment goes on past `n` iwords: the frame of every instruction that only moves its lanes on. -/
theorem goOn_went (u : State) (w : Who) {g : Group} (n : Nat) (hg : u.group? w.core w.slot = some g) (he : w.f.entered = true)
    (hsl : w.f.slot = w.slot) : Went u ((u.putFrag w.core w.fi w.f).goOn w.core w.slot w.fi (w.f.idx + n)) w g n := by
  have hgk : Table.find u.groups (slotKey w.core w.slot) = some g := hg
  unfold State.goOn
  simp only [State.frag?_putFrag_self]
  by_cases hl : Hdr.length w.f.hdr ≤ w.f.idx + n
  · have hset : ({ w.f with idx := w.f.idx + n } : Fragment).settle = ({ w.f with idx := w.f.idx + n } : Fragment).at w.f.fallThrough := by
      simp [Fragment.settle, he, hl, Fragment.fallThrough]
    simp only [hset]
    rw [if_neg (by simp [Fragment.at])]
    generalize hs2 : (u.putFrag w.core w.fi w.f).putFrag w.core w.fi (({ w.f with idx := w.f.idx + n } : Fragment).at w.f.fallThrough) = s2
    have hf2 : s2.frag? w.core w.fi = some (({ w.f with idx := w.f.idx + n } : Fragment).at w.f.fallThrough) := by
      rw [← hs2]; exact State.frag?_putFrag_self _ _ _ _
    have hr2 : s2 = { u with frags := s2.frags } := by rw [← hs2]; rfl
    have hk2 : ∀ k, k ≠ fragKey w.core w.fi → Table.find s2.frags k = Table.find u.frags k := by
      intro k hk
      rw [← hs2]
      simp only [State.putFrag]
      rw [Table.find_put_ne _ _ hk, Table.find_put_ne _ _ hk]
    obtain ⟨j, f', p1, p2, p3, p4, p5, p6⟩ := State.merge_spec s2 w.core w.slot w.fi hf2 rfl hsl
    obtain ⟨q, hgm⟩ := p5.group g (by rw [hr2]; exact hg)
    obtain ⟨r, p, hsel⟩ := State.select_spec _ w.core w.slot hgm
    rw [hsel]
    refine ⟨⟨r, p, by simp⟩, ?_, ?_, ?_, ?_⟩
    · simp only [State.putGroup]
      rw [p5.rest, hr2]
    · intro k hk
      simp only [State.putGroup]
      rw [Table.find_put_ne _ _ hk, p5.groups k hk, hr2]
    · intro k hk1 hk2'
      simp only [State.putGroup]
      rw [p6 k hk1 (by rw [hk2 k hk1]; exact hk2'), hk2 k hk1]
    · unfold Stands
      rw [if_pos hl]
      exact ⟨j, f', p1, p2, p3, p4⟩
  · have hset : ({ w.f with idx := w.f.idx + n } : Fragment).settle = { w.f with idx := w.f.idx + n } := by
      simp [Fragment.settle, hl]
    rw [hset, if_pos (show ({ w.f with idx := w.f.idx + n } : Fragment).entered = true from he)]
    refine ⟨⟨g.run, g.passes, hg⟩, rfl, fun _ _ => rfl, ?_, ?_⟩
    · intro k hk1 _
      simp only [State.putFrag]
      rw [Table.find_put_ne _ _ hk1, Table.find_put_ne _ _ hk1]
    · unfold Stands
      rw [if_neg hl]
      exact State.frag?_putFrag_self _ _ _ _

/-- No failing lane, no remnant. -/
@[simp] theorem State.split_nil (s : State) (w : Who) (aux : Nat) : s.split w [] aux = s := rfl

@[simp] theorem State.tellHomes_nil (s : State) : s.tellHomes [] = s := rfl

@[simp] theorem State.lossAmong_nil (s : State) (w : Who) : s.lossAmong w [] = none := rfl

@[simp] theorem Mask.of_nil : Mask.of [] = 0 := rfl

/-- The active lanes and the others are all the lanes. -/
theorem Who.act_or_rest (w : Who) (gd : Guard) : w.act gd ||| (w.f.mask &&& ~~~(w.act gd)) = w.f.mask := by
  apply BitVec.eq_of_getLsbD_eq
  intro i hi
  simp only [Who.act, BitVec.getLsbD_or, BitVec.getLsbD_and, BitVec.getLsbD_not, hi, decide_true, Bool.true_and]
  cases w.f.mask.getLsbD i <;> cases (w.g.guard gd).getLsbD i <;> rfl

/-- R28: an instruction whose checks all pass is carried out: its effect in the active lanes, then the lanes move, then what follows. -/
theorem issue_passes (s : State) (i : Instr) (gd : Guard) (n : Nat) (plan : Who → Except Nat Plan) {w : Who} {p : Plan}
    (hw : s.who? = some w) (hp : plan w = .ok p) (h : Passes s w gd n p) :
    s.issue i gd n plan = .next (p.post ((p.commit (w.act gd) s).settleAt w p.flow n (w.act gd) (w.f.mask &&& ~~~(w.act gd)))) := by
  have hc : p.leaves = true → w.t.twin = none := fun hl => by
    rcases h.twin with h | h
    · exact h
    · rw [h] at hl; cases hl
  have hall : w.act gd &&& ~~~(Mask.of ([] : List Nat)) = w.act gd := by
    have h1 : ~~~(Mask.of ([] : List Nat)) = BitVec.allOnes 32 := by decide
    rw [h1, BitVec.and_allOnes]
  have hneed : ¬ (s.pool w.core).length < p.need w gd n := by
    have := h.pool
    simp only [Plan.need, h.lanes, List.map_nil, hall, causesOf, List.foldl_nil, List.length_nil, Nat.zero_add]
    omega
  have hcmp : p.compares s w gd n = true → w.t.twin = none := by
    unfold Plan.compares
    rw [h.lanes]
    simp only [List.isEmpty_nil, Bool.not_true, Bool.or_false, h.late, Option.isSome_none, hneed, decide_false, Bool.and_eq_true]
    exact fun x => hc x.1
  have hd : s.disagrees w (p.compares s w gd n) = false := by
    unfold State.disagrees
    by_cases hx : p.compares s w gd n = true
    · simp [hcmp hx]
    · simp [Bool.not_eq_true _ ▸ hx]
  have hcp : s.compared w (p.compares s w gd n) = s := by
    unfold State.compared
    by_cases hx : p.compares s w gd n = true
    · simp [hcmp hx]
    · simp [Bool.not_eq_true _ ▸ hx]
  have hfp : s.fencePassed w (w.act gd) p = s := by
    unfold State.fencePassed
    rcases h.fence with hf | ⟨h1, h2⟩
    · simp [hf]
    · simp [h1, h2]
  unfold State.issue
  simp only [hw, hp, h.free, hfp]
  rw [if_neg (by simp)]
  unfold State.perform State.agree
  simp only [hd, hcp, h.late]
  rw [if_neg (by simp)]
  unfold State.carry
  simp only [h.lanes, hall, List.map_nil, State.split_nil, State.tellHomes_nil, State.lossAmong_nil]
  rw [if_neg hneed]

/-- R28, R46: an instruction whose checks pass and that moves no lane elsewhere: `u` is the device with its effect. -/
theorem issue_goes_on (s : State) (i : Instr) (gd : Guard) (n : Nat) (plan : Who → Except Nat Plan) {w : Who} {p : Plan} {u : State}
    {g : Group} (hi : Issues s w) (hp : plan w = .ok p) (h : Passes s w gd n p) (hf : p.flow = .seq)
    (hu : p.commit (w.act gd) s = u) (hg : u.group? w.core w.slot = some g) :
    ∃ t, s.issue i gd n plan = .next (p.post t) ∧ Went u t w g n := by
  refine ⟨_, issue_passes s i gd n plan hi.who hp h, ?_⟩
  rw [hu, hf]
  unfold State.settleAt
  rw [if_pos (by simp [hg])]
  unfold State.place
  simp only [Who.act_or_rest]
  rw [if_neg hi.lanes]
  exact goOn_went u w n hg hi.entered hi.slot

/-- The group that `State.who?` finds. -/
theorem State.who?_group {s : State} {w : Who} (h : s.who? = some w) : s.group? w.core w.slot = some w.g := by
  unfold State.who? at h
  split at h
  · cases h
  · split at h
    · split at h
      · cases h; assumption
      · cases h
    · cases h

end Sys2Proof.Machine
end

