-- ==== Sys2Proof/Laws/Park.lean ====
section
/-! SUPPORT. Laws/Park.lean: what a park, and the record that it writes, can change (R304, R307, R308, R404). -/

namespace Sys2Proof.Machine

/-- Nothing but a ring, the memory it lies in, the logs, the interrupts raised and the time that it takes changes; a fragment's only change is the monitor of a sleeping one. -/
structure ReportsOnly (s t : State) : Prop where
  rest  : t = { s with time := t.time, free := t.free, bolts := t.bolts, dirs := t.dirs, pushes := t.pushes, marks := t.marks, mem := t.mem,
                       flight := t.flight, poison := t.poison, badBlocks := t.badBlocks, badSyms := t.badSyms, hbmStacks := t.hbmStacks,
                       frags := t.frags, ctxs := t.ctxs, devlog := t.devlog, pendingInt := t.pendingInt }
  frags : SameFrags s.frags t.frags
  wf    : s.mem.wf = true → t.mem.wf = true

theorem ReportsOnly.of_stores {s t : State} (h : StoresOnly s t) : ReportsOnly s t := by
  refine ⟨?_, h.frags, h.wf⟩
  have e := h.rest
  have e0 : t.time = s.time := by rw [e]
  have e1 : t.ctxs = s.ctxs := by rw [e]
  have e2 : t.devlog = s.devlog := by rw [e]
  have e3 : t.pendingInt = s.pendingInt := by rw [e]
  rw [e0, e1, e2, e3]
  exact e

theorem ReportsOnly.refl (s : State) : ReportsOnly s s := .of_stores (StoresOnly.refl s)

theorem ReportsOnly.log (s : State) (r : Record) : ReportsOnly s (s.log r) := ⟨rfl, SameFrags.refl _, id⟩

theorem ReportsOnly.updCtx (s : State) (c : Nat) (f : Ctx → Ctx) : ReportsOnly s (s.updCtx c f) := ⟨rfl, SameFrags.refl _, id⟩

theorem ReportsOnly.interrupt (s : State) (ctx vec : Nat) : ReportsOnly s (s.interrupt ctx vec) := by
  unfold State.interrupt
  extract_lets
  split
  · exact ⟨rfl, SameFrags.refl _, id⟩
  · exact ReportsOnly.refl s

theorem ReportsOnly.later (s : State) (n : Nat) : ReportsOnly s (s.later n) := ⟨rfl, SameFrags.refl _, id⟩

theorem ReportsOnly.trans {s t u : State} (h : ReportsOnly s t) (k : ReportsOnly t u) : ReportsOnly s u :=
  ⟨by rw [k.rest, h.rest], h.frags.trans k.frags, k.wf ∘ h.wf⟩

theorem ReportsOnly.advance {s : State} (u : State) (h : ReportsOnly s u) (n c : Nat) (f : Ctx → Ctx) :
    ReportsOnly s ((u.later n).updCtx c f) := (h.trans (ReportsOnly.later u n)).trans (ReportsOnly.updCtx _ c f)

/-- R308: what writing a record to a ring changes. -/
theorem report_spec (s : State) (r : Record) : ReportsOnly s (s.report r) := by
  unfold State.report
  extract_lets c
  split
  · exact ReportsOnly.refl s
  · rename_i ring _
    extract_lets key used room w s1 s2
    have h0 : StoresOnly s w.1 := (store_spec s Agent.engine r.ctx key 0 _).1
    have h2 : ReportsOnly s s2 := ReportsOnly.advance w.1 (ReportsOnly.of_stores h0) _ _ _
    split
    · exact ReportsOnly.updCtx s r.ctx _
    · split
      · exact h2.trans (ReportsOnly.interrupt _ _ _)
      · exact h2

theorem parkRecord_spec (s : State) (r : Record) : ReportsOnly s (s.parkRecord r) := by
  unfold State.parkRecord
  split
  · exact ReportsOnly.refl s
  · split
    · exact ReportsOnly.log s r
    · exact report_spec s r

/-- R304: the whole issuing fragment parks with a fragment cause, and its group selects another. -/
theorem parkWhole_parks (s : State) (w : Who) (n c : Nat) (hg : s.group? w.core w.slot = some w.g) (h1 : c < 0x081)
    (h2 : c ≠ Cause.flashWait) : ParksWith s (s.parkWhole (w.counting n) c false) w n c := by
  have hr : BitVec.ofNat 9 0 = (0 : BitVec 9) := rfl
  unfold State.parkWhole State.park Who.counting
  simp only [if_neg h2]
  rw [if_neg (by simp; omega)]
  generalize hs1 : s.putFrag w.core w.fi _ = s1
  have hf1 : s1.frag? w.core w.fi = some { w.f with
      st := .parked, cause := c, noInstr := !w.f.entered, iwords := n, addr := 0, blocks := [], raised := 0, since := s.time } := by
    rw [← hs1]; simp
  have hk : s1 = { s with frags := s1.frags } := by rw [← hs1]; rfl
  generalize hrec : ({ s1.fragRecord _ _ _ _ _ _ _ with mendBad := false } : Record) = r
  have hp := parkRecord_spec s1 r
  generalize hs2 : s1.parkRecord r = s2 at hp
  have hg2 : s2.group? w.core w.slot = some w.g := by
    unfold State.group?
    rw [hp.rest, hk]
    exact hg
  have hf2 : s2.frag? w.core w.fi = s1.frag? w.core w.fi := by
    unfold State.frag? at hf1 ⊢
    rcases hp.frags (fragKey w.core w.fi) with ⟨a, b⟩ | ⟨f, f', a, b, h3⟩
    · rw [a] at hf1; cases hf1
    · rw [a, b]
      rw [a] at hf1
      cases hf1
      rcases h3 with rfl | ⟨_, _, _, _, _, h4, _⟩
      · rfl
      · cases h4
  obtain ⟨x, y, hsel⟩ := State.select_spec s2 w.core w.slot hg2
  rw [hsel]
  refine ⟨?_, ⟨x, y, by simp⟩, ?_, ?_⟩
  · exact hf2.trans hf1
  · intro k hk'
    simp only [State.putGroup]
    rw [Table.find_put_ne _ _ hk', hp.rest, hk]
  · simp only [State.putGroup]
    rw [hp.rest, hk]
    exact ⟨rfl, rfl, rfl, rfl, rfl, rfl⟩

end Sys2Proof.Machine
end

