-- ==== Sys2Proof/Laws/State.lean ====
section
/-! SUPPORT. Laws/State.lean: which fields the small updates of the state leave alone, so that no proof unfolds a record update. Each theorem
holds one equation for each field. -/

namespace Sys2Proof.Machine

/-- A free value is used. -/
@[simp] theorem State.useFree_keeps (s : State) :
    (s.useFree).time = s.time ∧ (s.useFree).script = s.script ∧ (s.useFree).cur = s.cur ∧ (s.useFree).mem = s.mem
    ∧ (s.useFree).flight = s.flight ∧ (s.useFree).bolts = s.bolts ∧ (s.useFree).poison = s.poison ∧ (s.useFree).badBlocks = s.badBlocks
    ∧ (s.useFree).badSyms = s.badSyms ∧ (s.useFree).sram = s.sram ∧ (s.useFree).tlb = s.tlb ∧ (s.useFree).invals = s.invals
    ∧ (s.useFree).ranges = s.ranges ∧ (s.useFree).patterns = s.patterns ∧ (s.useFree).dirs = s.dirs ∧ (s.useFree).marks = s.marks
    ∧ (s.useFree).plsrc = s.plsrc ∧ (s.useFree).plcmd = s.plcmd ∧ (s.useFree).plstat = s.plstat ∧ (s.useFree).pushes = s.pushes
    ∧ (s.useFree).strongs = s.strongs ∧ (s.useFree).resident = s.resident ∧ (s.useFree).reading = s.reading ∧ (s.useFree).busy = s.busy
    ∧ (s.useFree).groups = s.groups ∧ (s.useFree).frags = s.frags ∧ (s.useFree).fgens = s.fgens ∧ (s.useFree).handles = s.handles
    ∧ (s.useFree).hgens = s.hgens ∧ (s.useFree).scratch = s.scratch ∧ (s.useFree).gauges = s.gauges ∧ (s.useFree).sems = s.sems
    ∧ (s.useFree).semq = s.semq ∧ (s.useFree).wakeBy = s.wakeBy ∧ (s.useFree).devSems = s.devSems ∧ (s.useFree).mq = s.mq
    ∧ (s.useFree).lastSlot = s.lastSlot ∧ (s.useFree).chains = s.chains ∧ (s.useFree).streams = s.streams ∧ (s.useFree).colls = s.colls
    ∧ (s.useFree).teams = s.teams ∧ (s.useFree).saved = s.saved ∧ (s.useFree).nodes = s.nodes ∧ (s.useFree).credits = s.credits
    ∧ (s.useFree).deficits = s.deficits ∧ (s.useFree).lastTen = s.lastTen ∧ (s.useFree).order = s.order ∧ (s.useFree).ctxs = s.ctxs
    ∧ (s.useFree).tens = s.tens ∧ (s.useFree).devlog = s.devlog ∧ (s.useFree).pendingInt = s.pendingInt
    ∧ (s.useFree).hbmStacks = s.hbmStacks ∧ (s.useFree).banks = s.banks ∧ (s.useFree).idleDcy = s.idleDcy ∧ (s.useFree).cxl = s.cxl
    ∧ (s.useFree).ports = s.ports ∧ (s.useFree).windows = s.windows ∧ (s.useFree).accept = s.accept ∧ (s.useFree).offerReg = s.offerReg
    ∧ (s.useFree).mailbox = s.mailbox ∧ (s.useFree).revoked = s.revoked ∧ (s.useFree).fw = s.fw ∧ (s.useFree).trier = s.trier
    ∧ (s.useFree).coreMap = s.coreMap ∧ (s.useFree).withdrawn = s.withdrawn ∧ (s.useFree).lostDies = s.lostDies
    ∧ (s.useFree).powered = s.powered ∧ (s.useFree).icache = s.icache ∧ (s.useFree).issued = s.issued ∧ (s.useFree).spatial = s.spatial
    ∧ (s.useFree).orphans = s.orphans ∧ (s.useFree).failedSites = s.failedSites := by
  and_intros <;> rfl

/-- A group is written. -/
@[simp] theorem State.putGroup_keeps (s : State) (core slot : Nat) (g : Group) :
    (s.putGroup core slot g).time = s.time ∧ (s.putGroup core slot g).free = s.free ∧ (s.putGroup core slot g).script = s.script
    ∧ (s.putGroup core slot g).cur = s.cur ∧ (s.putGroup core slot g).mem = s.mem ∧ (s.putGroup core slot g).flight = s.flight
    ∧ (s.putGroup core slot g).bolts = s.bolts ∧ (s.putGroup core slot g).poison = s.poison
    ∧ (s.putGroup core slot g).badBlocks = s.badBlocks ∧ (s.putGroup core slot g).badSyms = s.badSyms
    ∧ (s.putGroup core slot g).sram = s.sram ∧ (s.putGroup core slot g).tlb = s.tlb ∧ (s.putGroup core slot g).invals = s.invals
    ∧ (s.putGroup core slot g).ranges = s.ranges ∧ (s.putGroup core slot g).patterns = s.patterns ∧ (s.putGroup core slot g).dirs = s.dirs
    ∧ (s.putGroup core slot g).marks = s.marks ∧ (s.putGroup core slot g).plsrc = s.plsrc ∧ (s.putGroup core slot g).plcmd = s.plcmd
    ∧ (s.putGroup core slot g).plstat = s.plstat ∧ (s.putGroup core slot g).pushes = s.pushes ∧ (s.putGroup core slot g).strongs = s.strongs
    ∧ (s.putGroup core slot g).resident = s.resident ∧ (s.putGroup core slot g).reading = s.reading ∧ (s.putGroup core slot g).busy = s.busy
    ∧ (s.putGroup core slot g).frags = s.frags ∧ (s.putGroup core slot g).fgens = s.fgens ∧ (s.putGroup core slot g).handles = s.handles
    ∧ (s.putGroup core slot g).hgens = s.hgens ∧ (s.putGroup core slot g).scratch = s.scratch ∧ (s.putGroup core slot g).gauges = s.gauges
    ∧ (s.putGroup core slot g).sems = s.sems ∧ (s.putGroup core slot g).semq = s.semq ∧ (s.putGroup core slot g).wakeBy = s.wakeBy
    ∧ (s.putGroup core slot g).devSems = s.devSems ∧ (s.putGroup core slot g).mq = s.mq ∧ (s.putGroup core slot g).lastSlot = s.lastSlot
    ∧ (s.putGroup core slot g).chains = s.chains ∧ (s.putGroup core slot g).streams = s.streams ∧ (s.putGroup core slot g).colls = s.colls
    ∧ (s.putGroup core slot g).teams = s.teams ∧ (s.putGroup core slot g).saved = s.saved ∧ (s.putGroup core slot g).nodes = s.nodes
    ∧ (s.putGroup core slot g).credits = s.credits ∧ (s.putGroup core slot g).deficits = s.deficits
    ∧ (s.putGroup core slot g).lastTen = s.lastTen ∧ (s.putGroup core slot g).order = s.order ∧ (s.putGroup core slot g).ctxs = s.ctxs
    ∧ (s.putGroup core slot g).tens = s.tens ∧ (s.putGroup core slot g).devlog = s.devlog
    ∧ (s.putGroup core slot g).pendingInt = s.pendingInt ∧ (s.putGroup core slot g).hbmStacks = s.hbmStacks
    ∧ (s.putGroup core slot g).banks = s.banks ∧ (s.putGroup core slot g).idleDcy = s.idleDcy ∧ (s.putGroup core slot g).cxl = s.cxl
    ∧ (s.putGroup core slot g).ports = s.ports ∧ (s.putGroup core slot g).windows = s.windows ∧ (s.putGroup core slot g).accept = s.accept
    ∧ (s.putGroup core slot g).offerReg = s.offerReg ∧ (s.putGroup core slot g).mailbox = s.mailbox
    ∧ (s.putGroup core slot g).revoked = s.revoked ∧ (s.putGroup core slot g).fw = s.fw ∧ (s.putGroup core slot g).trier = s.trier
    ∧ (s.putGroup core slot g).coreMap = s.coreMap ∧ (s.putGroup core slot g).withdrawn = s.withdrawn
    ∧ (s.putGroup core slot g).lostDies = s.lostDies
    ∧ (s.putGroup core slot g).powered = s.powered ∧ (s.putGroup core slot g).icache = s.icache ∧ (s.putGroup core slot g).issued = s.issued
    ∧ (s.putGroup core slot g).spatial = s.spatial ∧ (s.putGroup core slot g).orphans = s.orphans
    ∧ (s.putGroup core slot g).failedSites = s.failedSites := by
  and_intros <;> rfl

/-- A group is changed. -/
@[simp] theorem State.updGroup_keeps (s : State) (core slot : Nat) (k : Group → Group) :
    (s.updGroup core slot k).time = s.time ∧ (s.updGroup core slot k).free = s.free ∧ (s.updGroup core slot k).script = s.script
    ∧ (s.updGroup core slot k).cur = s.cur ∧ (s.updGroup core slot k).mem = s.mem ∧ (s.updGroup core slot k).flight = s.flight
    ∧ (s.updGroup core slot k).bolts = s.bolts ∧ (s.updGroup core slot k).poison = s.poison
    ∧ (s.updGroup core slot k).badBlocks = s.badBlocks ∧ (s.updGroup core slot k).badSyms = s.badSyms
    ∧ (s.updGroup core slot k).sram = s.sram ∧ (s.updGroup core slot k).tlb = s.tlb ∧ (s.updGroup core slot k).invals = s.invals
    ∧ (s.updGroup core slot k).ranges = s.ranges ∧ (s.updGroup core slot k).patterns = s.patterns ∧ (s.updGroup core slot k).dirs = s.dirs
    ∧ (s.updGroup core slot k).marks = s.marks ∧ (s.updGroup core slot k).plsrc = s.plsrc ∧ (s.updGroup core slot k).plcmd = s.plcmd
    ∧ (s.updGroup core slot k).plstat = s.plstat ∧ (s.updGroup core slot k).pushes = s.pushes ∧ (s.updGroup core slot k).strongs = s.strongs
    ∧ (s.updGroup core slot k).resident = s.resident ∧ (s.updGroup core slot k).reading = s.reading ∧ (s.updGroup core slot k).busy = s.busy
    ∧ (s.updGroup core slot k).frags = s.frags ∧ (s.updGroup core slot k).fgens = s.fgens ∧ (s.updGroup core slot k).handles = s.handles
    ∧ (s.updGroup core slot k).hgens = s.hgens ∧ (s.updGroup core slot k).scratch = s.scratch ∧ (s.updGroup core slot k).gauges = s.gauges
    ∧ (s.updGroup core slot k).sems = s.sems ∧ (s.updGroup core slot k).semq = s.semq ∧ (s.updGroup core slot k).wakeBy = s.wakeBy
    ∧ (s.updGroup core slot k).devSems = s.devSems ∧ (s.updGroup core slot k).mq = s.mq ∧ (s.updGroup core slot k).lastSlot = s.lastSlot
    ∧ (s.updGroup core slot k).chains = s.chains ∧ (s.updGroup core slot k).streams = s.streams ∧ (s.updGroup core slot k).colls = s.colls
    ∧ (s.updGroup core slot k).teams = s.teams ∧ (s.updGroup core slot k).saved = s.saved ∧ (s.updGroup core slot k).nodes = s.nodes
    ∧ (s.updGroup core slot k).credits = s.credits ∧ (s.updGroup core slot k).deficits = s.deficits
    ∧ (s.updGroup core slot k).lastTen = s.lastTen ∧ (s.updGroup core slot k).order = s.order ∧ (s.updGroup core slot k).ctxs = s.ctxs
    ∧ (s.updGroup core slot k).tens = s.tens ∧ (s.updGroup core slot k).devlog = s.devlog
    ∧ (s.updGroup core slot k).pendingInt = s.pendingInt ∧ (s.updGroup core slot k).hbmStacks = s.hbmStacks
    ∧ (s.updGroup core slot k).banks = s.banks ∧ (s.updGroup core slot k).idleDcy = s.idleDcy ∧ (s.updGroup core slot k).cxl = s.cxl
    ∧ (s.updGroup core slot k).ports = s.ports ∧ (s.updGroup core slot k).windows = s.windows ∧ (s.updGroup core slot k).accept = s.accept
    ∧ (s.updGroup core slot k).offerReg = s.offerReg ∧ (s.updGroup core slot k).mailbox = s.mailbox
    ∧ (s.updGroup core slot k).revoked = s.revoked ∧ (s.updGroup core slot k).fw = s.fw ∧ (s.updGroup core slot k).trier = s.trier
    ∧ (s.updGroup core slot k).coreMap = s.coreMap ∧ (s.updGroup core slot k).withdrawn = s.withdrawn
    ∧ (s.updGroup core slot k).lostDies = s.lostDies
    ∧ (s.updGroup core slot k).powered = s.powered ∧ (s.updGroup core slot k).icache = s.icache ∧ (s.updGroup core slot k).issued = s.issued
    ∧ (s.updGroup core slot k).spatial = s.spatial ∧ (s.updGroup core slot k).orphans = s.orphans
    ∧ (s.updGroup core slot k).failedSites = s.failedSites := by
  and_intros <;> rfl

/-- A fragment is written. -/
@[simp] theorem State.putFrag_keeps (s : State) (core fi : Nat) (f : Fragment) :
    (s.putFrag core fi f).time = s.time ∧ (s.putFrag core fi f).free = s.free ∧ (s.putFrag core fi f).script = s.script
    ∧ (s.putFrag core fi f).cur = s.cur ∧ (s.putFrag core fi f).mem = s.mem ∧ (s.putFrag core fi f).flight = s.flight
    ∧ (s.putFrag core fi f).bolts = s.bolts ∧ (s.putFrag core fi f).poison = s.poison ∧ (s.putFrag core fi f).badBlocks = s.badBlocks
    ∧ (s.putFrag core fi f).badSyms = s.badSyms ∧ (s.putFrag core fi f).sram = s.sram ∧ (s.putFrag core fi f).tlb = s.tlb
    ∧ (s.putFrag core fi f).invals = s.invals ∧ (s.putFrag core fi f).ranges = s.ranges ∧ (s.putFrag core fi f).patterns = s.patterns
    ∧ (s.putFrag core fi f).dirs = s.dirs ∧ (s.putFrag core fi f).marks = s.marks ∧ (s.putFrag core fi f).plsrc = s.plsrc
    ∧ (s.putFrag core fi f).plcmd = s.plcmd ∧ (s.putFrag core fi f).plstat = s.plstat ∧ (s.putFrag core fi f).pushes = s.pushes
    ∧ (s.putFrag core fi f).strongs = s.strongs ∧ (s.putFrag core fi f).resident = s.resident ∧ (s.putFrag core fi f).reading = s.reading
    ∧ (s.putFrag core fi f).busy = s.busy ∧ (s.putFrag core fi f).groups = s.groups ∧ (s.putFrag core fi f).fgens = s.fgens
    ∧ (s.putFrag core fi f).handles = s.handles ∧ (s.putFrag core fi f).hgens = s.hgens ∧ (s.putFrag core fi f).scratch = s.scratch
    ∧ (s.putFrag core fi f).gauges = s.gauges ∧ (s.putFrag core fi f).sems = s.sems ∧ (s.putFrag core fi f).semq = s.semq
    ∧ (s.putFrag core fi f).wakeBy = s.wakeBy ∧ (s.putFrag core fi f).devSems = s.devSems ∧ (s.putFrag core fi f).mq = s.mq
    ∧ (s.putFrag core fi f).lastSlot = s.lastSlot ∧ (s.putFrag core fi f).chains = s.chains ∧ (s.putFrag core fi f).streams = s.streams
    ∧ (s.putFrag core fi f).colls = s.colls ∧ (s.putFrag core fi f).teams = s.teams ∧ (s.putFrag core fi f).saved = s.saved
    ∧ (s.putFrag core fi f).nodes = s.nodes ∧ (s.putFrag core fi f).credits = s.credits ∧ (s.putFrag core fi f).deficits = s.deficits
    ∧ (s.putFrag core fi f).lastTen = s.lastTen ∧ (s.putFrag core fi f).order = s.order ∧ (s.putFrag core fi f).ctxs = s.ctxs
    ∧ (s.putFrag core fi f).tens = s.tens ∧ (s.putFrag core fi f).devlog = s.devlog ∧ (s.putFrag core fi f).pendingInt = s.pendingInt
    ∧ (s.putFrag core fi f).hbmStacks = s.hbmStacks ∧ (s.putFrag core fi f).banks = s.banks ∧ (s.putFrag core fi f).idleDcy = s.idleDcy
    ∧ (s.putFrag core fi f).cxl = s.cxl ∧ (s.putFrag core fi f).ports = s.ports ∧ (s.putFrag core fi f).windows = s.windows
    ∧ (s.putFrag core fi f).accept = s.accept ∧ (s.putFrag core fi f).offerReg = s.offerReg ∧ (s.putFrag core fi f).mailbox = s.mailbox
    ∧ (s.putFrag core fi f).revoked = s.revoked ∧ (s.putFrag core fi f).fw = s.fw ∧ (s.putFrag core fi f).trier = s.trier
    ∧ (s.putFrag core fi f).coreMap = s.coreMap ∧ (s.putFrag core fi f).withdrawn = s.withdrawn
    ∧ (s.putFrag core fi f).lostDies = s.lostDies
    ∧ (s.putFrag core fi f).powered = s.powered ∧ (s.putFrag core fi f).icache = s.icache ∧ (s.putFrag core fi f).issued = s.issued
    ∧ (s.putFrag core fi f).spatial = s.spatial ∧ (s.putFrag core fi f).orphans = s.orphans ∧ (s.putFrag core fi f).failedSites = s.failedSites := by
  and_intros <;> rfl

/-- A fragment ends. -/
@[simp] theorem State.freeFrag_keeps (s : State) (core fi : Nat) :
    (s.freeFrag core fi).time = s.time ∧ (s.freeFrag core fi).free = s.free ∧ (s.freeFrag core fi).script = s.script
    ∧ (s.freeFrag core fi).cur = s.cur ∧ (s.freeFrag core fi).mem = s.mem ∧ (s.freeFrag core fi).flight = s.flight
    ∧ (s.freeFrag core fi).bolts = s.bolts ∧ (s.freeFrag core fi).poison = s.poison ∧ (s.freeFrag core fi).badBlocks = s.badBlocks
    ∧ (s.freeFrag core fi).badSyms = s.badSyms ∧ (s.freeFrag core fi).sram = s.sram ∧ (s.freeFrag core fi).tlb = s.tlb
    ∧ (s.freeFrag core fi).invals = s.invals ∧ (s.freeFrag core fi).ranges = s.ranges ∧ (s.freeFrag core fi).patterns = s.patterns
    ∧ (s.freeFrag core fi).dirs = s.dirs ∧ (s.freeFrag core fi).marks = s.marks ∧ (s.freeFrag core fi).plsrc = s.plsrc
    ∧ (s.freeFrag core fi).plcmd = s.plcmd ∧ (s.freeFrag core fi).plstat = s.plstat ∧ (s.freeFrag core fi).pushes = s.pushes
    ∧ (s.freeFrag core fi).strongs = s.strongs ∧ (s.freeFrag core fi).resident = s.resident ∧ (s.freeFrag core fi).reading = s.reading
    ∧ (s.freeFrag core fi).busy = s.busy ∧ (s.freeFrag core fi).groups = s.groups ∧ (s.freeFrag core fi).handles = s.handles
    ∧ (s.freeFrag core fi).hgens = s.hgens ∧ (s.freeFrag core fi).scratch = s.scratch ∧ (s.freeFrag core fi).gauges = s.gauges
    ∧ (s.freeFrag core fi).sems = s.sems ∧ (s.freeFrag core fi).semq = s.semq ∧ (s.freeFrag core fi).wakeBy = s.wakeBy
    ∧ (s.freeFrag core fi).devSems = s.devSems ∧ (s.freeFrag core fi).mq = s.mq ∧ (s.freeFrag core fi).lastSlot = s.lastSlot
    ∧ (s.freeFrag core fi).chains = s.chains ∧ (s.freeFrag core fi).streams = s.streams ∧ (s.freeFrag core fi).colls = s.colls
    ∧ (s.freeFrag core fi).teams = s.teams ∧ (s.freeFrag core fi).saved = s.saved ∧ (s.freeFrag core fi).nodes = s.nodes
    ∧ (s.freeFrag core fi).credits = s.credits ∧ (s.freeFrag core fi).deficits = s.deficits ∧ (s.freeFrag core fi).lastTen = s.lastTen
    ∧ (s.freeFrag core fi).order = s.order ∧ (s.freeFrag core fi).ctxs = s.ctxs ∧ (s.freeFrag core fi).tens = s.tens
    ∧ (s.freeFrag core fi).devlog = s.devlog ∧ (s.freeFrag core fi).pendingInt = s.pendingInt ∧ (s.freeFrag core fi).hbmStacks = s.hbmStacks
    ∧ (s.freeFrag core fi).banks = s.banks ∧ (s.freeFrag core fi).idleDcy = s.idleDcy ∧ (s.freeFrag core fi).cxl = s.cxl
    ∧ (s.freeFrag core fi).ports = s.ports ∧ (s.freeFrag core fi).windows = s.windows ∧ (s.freeFrag core fi).accept = s.accept
    ∧ (s.freeFrag core fi).offerReg = s.offerReg ∧ (s.freeFrag core fi).mailbox = s.mailbox ∧ (s.freeFrag core fi).revoked = s.revoked
    ∧ (s.freeFrag core fi).fw = s.fw ∧ (s.freeFrag core fi).trier = s.trier ∧ (s.freeFrag core fi).coreMap = s.coreMap
    ∧ (s.freeFrag core fi).withdrawn = s.withdrawn ∧ (s.freeFrag core fi).lostDies = s.lostDies
    ∧ (s.freeFrag core fi).powered = s.powered ∧ (s.freeFrag core fi).icache = s.icache ∧ (s.freeFrag core fi).issued = s.issued
    ∧ (s.freeFrag core fi).spatial = s.spatial ∧ (s.freeFrag core fi).orphans = s.orphans ∧ (s.freeFrag core fi).failedSites = s.failedSites := by
  and_intros <;> rfl

/-- A context is changed. -/
@[simp] theorem State.updCtx_keeps (s : State) (c : Nat) (k : Ctx → Ctx) :
    (s.updCtx c k).time = s.time ∧ (s.updCtx c k).free = s.free ∧ (s.updCtx c k).script = s.script ∧ (s.updCtx c k).cur = s.cur
    ∧ (s.updCtx c k).mem = s.mem ∧ (s.updCtx c k).flight = s.flight ∧ (s.updCtx c k).bolts = s.bolts ∧ (s.updCtx c k).poison = s.poison
    ∧ (s.updCtx c k).badBlocks = s.badBlocks ∧ (s.updCtx c k).badSyms = s.badSyms ∧ (s.updCtx c k).sram = s.sram
    ∧ (s.updCtx c k).tlb = s.tlb ∧ (s.updCtx c k).invals = s.invals ∧ (s.updCtx c k).ranges = s.ranges
    ∧ (s.updCtx c k).patterns = s.patterns ∧ (s.updCtx c k).dirs = s.dirs ∧ (s.updCtx c k).marks = s.marks ∧ (s.updCtx c k).plsrc = s.plsrc
    ∧ (s.updCtx c k).plcmd = s.plcmd ∧ (s.updCtx c k).plstat = s.plstat ∧ (s.updCtx c k).pushes = s.pushes
    ∧ (s.updCtx c k).strongs = s.strongs ∧ (s.updCtx c k).resident = s.resident ∧ (s.updCtx c k).reading = s.reading
    ∧ (s.updCtx c k).busy = s.busy ∧ (s.updCtx c k).groups = s.groups ∧ (s.updCtx c k).frags = s.frags ∧ (s.updCtx c k).fgens = s.fgens
    ∧ (s.updCtx c k).handles = s.handles ∧ (s.updCtx c k).hgens = s.hgens ∧ (s.updCtx c k).scratch = s.scratch
    ∧ (s.updCtx c k).gauges = s.gauges ∧ (s.updCtx c k).sems = s.sems ∧ (s.updCtx c k).semq = s.semq ∧ (s.updCtx c k).wakeBy = s.wakeBy
    ∧ (s.updCtx c k).devSems = s.devSems ∧ (s.updCtx c k).mq = s.mq ∧ (s.updCtx c k).lastSlot = s.lastSlot
    ∧ (s.updCtx c k).chains = s.chains ∧ (s.updCtx c k).streams = s.streams ∧ (s.updCtx c k).colls = s.colls
    ∧ (s.updCtx c k).teams = s.teams ∧ (s.updCtx c k).saved = s.saved ∧ (s.updCtx c k).nodes = s.nodes ∧ (s.updCtx c k).credits = s.credits
    ∧ (s.updCtx c k).deficits = s.deficits ∧ (s.updCtx c k).lastTen = s.lastTen ∧ (s.updCtx c k).order = s.order
    ∧ (s.updCtx c k).tens = s.tens ∧ (s.updCtx c k).devlog = s.devlog ∧ (s.updCtx c k).pendingInt = s.pendingInt
    ∧ (s.updCtx c k).hbmStacks = s.hbmStacks ∧ (s.updCtx c k).banks = s.banks ∧ (s.updCtx c k).idleDcy = s.idleDcy
    ∧ (s.updCtx c k).cxl = s.cxl ∧ (s.updCtx c k).ports = s.ports ∧ (s.updCtx c k).windows = s.windows ∧ (s.updCtx c k).accept = s.accept
    ∧ (s.updCtx c k).offerReg = s.offerReg ∧ (s.updCtx c k).mailbox = s.mailbox ∧ (s.updCtx c k).revoked = s.revoked
    ∧ (s.updCtx c k).fw = s.fw ∧ (s.updCtx c k).trier = s.trier ∧ (s.updCtx c k).coreMap = s.coreMap
    ∧ (s.updCtx c k).withdrawn = s.withdrawn ∧ (s.updCtx c k).lostDies = s.lostDies
    ∧ (s.updCtx c k).powered = s.powered ∧ (s.updCtx c k).icache = s.icache ∧ (s.updCtx c k).issued = s.issued ∧ (s.updCtx c k).spatial = s.spatial
    ∧ (s.updCtx c k).orphans = s.orphans ∧ (s.updCtx c k).failedSites = s.failedSites := by
  and_intros <;> rfl

/-- A tenancy is changed. -/
@[simp] theorem State.updTen_keeps (s : State) (t : Nat) (k : Ten → Ten) :
    (s.updTen t k).time = s.time ∧ (s.updTen t k).free = s.free ∧ (s.updTen t k).script = s.script ∧ (s.updTen t k).cur = s.cur
    ∧ (s.updTen t k).mem = s.mem ∧ (s.updTen t k).flight = s.flight ∧ (s.updTen t k).bolts = s.bolts ∧ (s.updTen t k).poison = s.poison
    ∧ (s.updTen t k).badBlocks = s.badBlocks ∧ (s.updTen t k).badSyms = s.badSyms ∧ (s.updTen t k).sram = s.sram
    ∧ (s.updTen t k).tlb = s.tlb ∧ (s.updTen t k).invals = s.invals ∧ (s.updTen t k).ranges = s.ranges
    ∧ (s.updTen t k).patterns = s.patterns ∧ (s.updTen t k).dirs = s.dirs ∧ (s.updTen t k).marks = s.marks ∧ (s.updTen t k).plsrc = s.plsrc
    ∧ (s.updTen t k).plcmd = s.plcmd ∧ (s.updTen t k).plstat = s.plstat ∧ (s.updTen t k).pushes = s.pushes
    ∧ (s.updTen t k).strongs = s.strongs ∧ (s.updTen t k).resident = s.resident ∧ (s.updTen t k).reading = s.reading
    ∧ (s.updTen t k).busy = s.busy ∧ (s.updTen t k).groups = s.groups ∧ (s.updTen t k).frags = s.frags ∧ (s.updTen t k).fgens = s.fgens
    ∧ (s.updTen t k).handles = s.handles ∧ (s.updTen t k).hgens = s.hgens ∧ (s.updTen t k).scratch = s.scratch
    ∧ (s.updTen t k).gauges = s.gauges ∧ (s.updTen t k).sems = s.sems ∧ (s.updTen t k).semq = s.semq ∧ (s.updTen t k).wakeBy = s.wakeBy
    ∧ (s.updTen t k).devSems = s.devSems ∧ (s.updTen t k).mq = s.mq ∧ (s.updTen t k).lastSlot = s.lastSlot
    ∧ (s.updTen t k).chains = s.chains ∧ (s.updTen t k).streams = s.streams ∧ (s.updTen t k).colls = s.colls
    ∧ (s.updTen t k).teams = s.teams ∧ (s.updTen t k).saved = s.saved ∧ (s.updTen t k).nodes = s.nodes ∧ (s.updTen t k).credits = s.credits
    ∧ (s.updTen t k).deficits = s.deficits ∧ (s.updTen t k).lastTen = s.lastTen ∧ (s.updTen t k).order = s.order
    ∧ (s.updTen t k).ctxs = s.ctxs ∧ (s.updTen t k).devlog = s.devlog ∧ (s.updTen t k).pendingInt = s.pendingInt
    ∧ (s.updTen t k).hbmStacks = s.hbmStacks ∧ (s.updTen t k).banks = s.banks ∧ (s.updTen t k).idleDcy = s.idleDcy
    ∧ (s.updTen t k).cxl = s.cxl ∧ (s.updTen t k).ports = s.ports ∧ (s.updTen t k).windows = s.windows ∧ (s.updTen t k).accept = s.accept
    ∧ (s.updTen t k).offerReg = s.offerReg ∧ (s.updTen t k).mailbox = s.mailbox ∧ (s.updTen t k).revoked = s.revoked
    ∧ (s.updTen t k).fw = s.fw ∧ (s.updTen t k).trier = s.trier ∧ (s.updTen t k).coreMap = s.coreMap
    ∧ (s.updTen t k).withdrawn = s.withdrawn ∧ (s.updTen t k).lostDies = s.lostDies
    ∧ (s.updTen t k).powered = s.powered ∧ (s.updTen t k).icache = s.icache ∧ (s.updTen t k).issued = s.issued ∧ (s.updTen t k).spatial = s.spatial
    ∧ (s.updTen t k).orphans = s.orphans ∧ (s.updTen t k).failedSites = s.failedSites := by
  and_intros <;> rfl

/-- A chain is written. -/
@[simp] theorem State.setChain_keeps (s : State) (c : ChainRef) (x : Chain) :
    (s.setChain c x).time = s.time ∧ (s.setChain c x).free = s.free ∧ (s.setChain c x).script = s.script ∧ (s.setChain c x).cur = s.cur
    ∧ (s.setChain c x).mem = s.mem ∧ (s.setChain c x).flight = s.flight ∧ (s.setChain c x).bolts = s.bolts
    ∧ (s.setChain c x).poison = s.poison ∧ (s.setChain c x).badBlocks = s.badBlocks ∧ (s.setChain c x).badSyms = s.badSyms
    ∧ (s.setChain c x).sram = s.sram ∧ (s.setChain c x).tlb = s.tlb ∧ (s.setChain c x).invals = s.invals
    ∧ (s.setChain c x).ranges = s.ranges ∧ (s.setChain c x).patterns = s.patterns ∧ (s.setChain c x).dirs = s.dirs
    ∧ (s.setChain c x).marks = s.marks ∧ (s.setChain c x).plsrc = s.plsrc ∧ (s.setChain c x).plcmd = s.plcmd
    ∧ (s.setChain c x).plstat = s.plstat ∧ (s.setChain c x).pushes = s.pushes ∧ (s.setChain c x).strongs = s.strongs
    ∧ (s.setChain c x).resident = s.resident ∧ (s.setChain c x).reading = s.reading ∧ (s.setChain c x).busy = s.busy
    ∧ (s.setChain c x).groups = s.groups ∧ (s.setChain c x).frags = s.frags ∧ (s.setChain c x).fgens = s.fgens
    ∧ (s.setChain c x).handles = s.handles ∧ (s.setChain c x).hgens = s.hgens ∧ (s.setChain c x).scratch = s.scratch
    ∧ (s.setChain c x).gauges = s.gauges ∧ (s.setChain c x).sems = s.sems ∧ (s.setChain c x).semq = s.semq
    ∧ (s.setChain c x).wakeBy = s.wakeBy ∧ (s.setChain c x).devSems = s.devSems ∧ (s.setChain c x).mq = s.mq
    ∧ (s.setChain c x).lastSlot = s.lastSlot ∧ (s.setChain c x).streams = s.streams ∧ (s.setChain c x).colls = s.colls
    ∧ (s.setChain c x).teams = s.teams ∧ (s.setChain c x).saved = s.saved ∧ (s.setChain c x).nodes = s.nodes
    ∧ (s.setChain c x).credits = s.credits ∧ (s.setChain c x).deficits = s.deficits ∧ (s.setChain c x).lastTen = s.lastTen
    ∧ (s.setChain c x).order = s.order ∧ (s.setChain c x).ctxs = s.ctxs ∧ (s.setChain c x).tens = s.tens
    ∧ (s.setChain c x).devlog = s.devlog ∧ (s.setChain c x).pendingInt = s.pendingInt ∧ (s.setChain c x).hbmStacks = s.hbmStacks
    ∧ (s.setChain c x).banks = s.banks ∧ (s.setChain c x).idleDcy = s.idleDcy ∧ (s.setChain c x).cxl = s.cxl
    ∧ (s.setChain c x).ports = s.ports ∧ (s.setChain c x).windows = s.windows ∧ (s.setChain c x).accept = s.accept
    ∧ (s.setChain c x).offerReg = s.offerReg ∧ (s.setChain c x).mailbox = s.mailbox ∧ (s.setChain c x).revoked = s.revoked
    ∧ (s.setChain c x).fw = s.fw ∧ (s.setChain c x).trier = s.trier ∧ (s.setChain c x).coreMap = s.coreMap
    ∧ (s.setChain c x).withdrawn = s.withdrawn ∧ (s.setChain c x).lostDies = s.lostDies
    ∧ (s.setChain c x).powered = s.powered ∧ (s.setChain c x).icache = s.icache ∧ (s.setChain c x).issued = s.issued
    ∧ (s.setChain c x).spatial = s.spatial ∧ (s.setChain c x).orphans = s.orphans ∧ (s.setChain c x).failedSites = s.failedSites := by
  and_intros <;> rfl

/-- A directory entry is written. -/
@[simp] theorem State.setDir_keeps (s : State) (fr : Nat) (d : Dir) :
    (s.setDir fr d).time = s.time ∧ (s.setDir fr d).free = s.free ∧ (s.setDir fr d).script = s.script ∧ (s.setDir fr d).cur = s.cur
    ∧ (s.setDir fr d).mem = s.mem ∧ (s.setDir fr d).flight = s.flight ∧ (s.setDir fr d).bolts = s.bolts ∧ (s.setDir fr d).poison = s.poison
    ∧ (s.setDir fr d).badBlocks = s.badBlocks ∧ (s.setDir fr d).badSyms = s.badSyms ∧ (s.setDir fr d).sram = s.sram
    ∧ (s.setDir fr d).tlb = s.tlb ∧ (s.setDir fr d).invals = s.invals ∧ (s.setDir fr d).ranges = s.ranges
    ∧ (s.setDir fr d).patterns = s.patterns ∧ (s.setDir fr d).marks = s.marks ∧ (s.setDir fr d).plsrc = s.plsrc
    ∧ (s.setDir fr d).plcmd = s.plcmd ∧ (s.setDir fr d).plstat = s.plstat ∧ (s.setDir fr d).pushes = s.pushes
    ∧ (s.setDir fr d).strongs = s.strongs ∧ (s.setDir fr d).resident = s.resident ∧ (s.setDir fr d).reading = s.reading
    ∧ (s.setDir fr d).busy = s.busy ∧ (s.setDir fr d).groups = s.groups ∧ (s.setDir fr d).frags = s.frags ∧ (s.setDir fr d).fgens = s.fgens
    ∧ (s.setDir fr d).handles = s.handles ∧ (s.setDir fr d).hgens = s.hgens ∧ (s.setDir fr d).scratch = s.scratch
    ∧ (s.setDir fr d).gauges = s.gauges ∧ (s.setDir fr d).sems = s.sems ∧ (s.setDir fr d).semq = s.semq ∧ (s.setDir fr d).wakeBy = s.wakeBy
    ∧ (s.setDir fr d).devSems = s.devSems ∧ (s.setDir fr d).mq = s.mq ∧ (s.setDir fr d).lastSlot = s.lastSlot
    ∧ (s.setDir fr d).chains = s.chains ∧ (s.setDir fr d).streams = s.streams ∧ (s.setDir fr d).colls = s.colls
    ∧ (s.setDir fr d).teams = s.teams ∧ (s.setDir fr d).saved = s.saved ∧ (s.setDir fr d).nodes = s.nodes
    ∧ (s.setDir fr d).credits = s.credits ∧ (s.setDir fr d).deficits = s.deficits ∧ (s.setDir fr d).lastTen = s.lastTen
    ∧ (s.setDir fr d).order = s.order ∧ (s.setDir fr d).ctxs = s.ctxs ∧ (s.setDir fr d).tens = s.tens ∧ (s.setDir fr d).devlog = s.devlog
    ∧ (s.setDir fr d).pendingInt = s.pendingInt ∧ (s.setDir fr d).hbmStacks = s.hbmStacks ∧ (s.setDir fr d).banks = s.banks
    ∧ (s.setDir fr d).idleDcy = s.idleDcy ∧ (s.setDir fr d).cxl = s.cxl ∧ (s.setDir fr d).ports = s.ports
    ∧ (s.setDir fr d).windows = s.windows ∧ (s.setDir fr d).accept = s.accept ∧ (s.setDir fr d).offerReg = s.offerReg
    ∧ (s.setDir fr d).mailbox = s.mailbox ∧ (s.setDir fr d).revoked = s.revoked ∧ (s.setDir fr d).fw = s.fw
    ∧ (s.setDir fr d).trier = s.trier ∧ (s.setDir fr d).coreMap = s.coreMap ∧ (s.setDir fr d).withdrawn = s.withdrawn
    ∧ (s.setDir fr d).lostDies = s.lostDies
    ∧ (s.setDir fr d).powered = s.powered ∧ (s.setDir fr d).icache = s.icache ∧ (s.setDir fr d).issued = s.issued
    ∧ (s.setDir fr d).spatial = s.spatial ∧ (s.setDir fr d).orphans = s.orphans ∧ (s.setDir fr d).failedSites = s.failedSites := by
  and_intros <;> rfl

/-- The device log takes a record. -/
@[simp] theorem State.log_keeps (s : State) (r : Record) :
    (s.log r).time = s.time ∧ (s.log r).free = s.free ∧ (s.log r).script = s.script ∧ (s.log r).cur = s.cur ∧ (s.log r).mem = s.mem
    ∧ (s.log r).flight = s.flight ∧ (s.log r).bolts = s.bolts ∧ (s.log r).poison = s.poison ∧ (s.log r).badBlocks = s.badBlocks
    ∧ (s.log r).badSyms = s.badSyms ∧ (s.log r).sram = s.sram ∧ (s.log r).tlb = s.tlb ∧ (s.log r).invals = s.invals
    ∧ (s.log r).ranges = s.ranges ∧ (s.log r).patterns = s.patterns ∧ (s.log r).dirs = s.dirs ∧ (s.log r).marks = s.marks
    ∧ (s.log r).plsrc = s.plsrc ∧ (s.log r).plcmd = s.plcmd ∧ (s.log r).plstat = s.plstat ∧ (s.log r).pushes = s.pushes
    ∧ (s.log r).strongs = s.strongs ∧ (s.log r).resident = s.resident ∧ (s.log r).reading = s.reading ∧ (s.log r).busy = s.busy
    ∧ (s.log r).groups = s.groups ∧ (s.log r).frags = s.frags ∧ (s.log r).fgens = s.fgens ∧ (s.log r).handles = s.handles
    ∧ (s.log r).hgens = s.hgens ∧ (s.log r).scratch = s.scratch ∧ (s.log r).gauges = s.gauges ∧ (s.log r).sems = s.sems
    ∧ (s.log r).semq = s.semq ∧ (s.log r).wakeBy = s.wakeBy ∧ (s.log r).devSems = s.devSems ∧ (s.log r).mq = s.mq
    ∧ (s.log r).lastSlot = s.lastSlot ∧ (s.log r).chains = s.chains ∧ (s.log r).streams = s.streams ∧ (s.log r).colls = s.colls
    ∧ (s.log r).teams = s.teams ∧ (s.log r).saved = s.saved ∧ (s.log r).nodes = s.nodes ∧ (s.log r).credits = s.credits
    ∧ (s.log r).deficits = s.deficits ∧ (s.log r).lastTen = s.lastTen ∧ (s.log r).order = s.order ∧ (s.log r).ctxs = s.ctxs
    ∧ (s.log r).tens = s.tens ∧ (s.log r).pendingInt = s.pendingInt ∧ (s.log r).hbmStacks = s.hbmStacks ∧ (s.log r).banks = s.banks
    ∧ (s.log r).idleDcy = s.idleDcy ∧ (s.log r).cxl = s.cxl ∧ (s.log r).ports = s.ports ∧ (s.log r).windows = s.windows
    ∧ (s.log r).accept = s.accept ∧ (s.log r).offerReg = s.offerReg ∧ (s.log r).mailbox = s.mailbox ∧ (s.log r).revoked = s.revoked
    ∧ (s.log r).fw = s.fw ∧ (s.log r).trier = s.trier ∧ (s.log r).coreMap = s.coreMap ∧ (s.log r).withdrawn = s.withdrawn
    ∧ (s.log r).lostDies = s.lostDies
    ∧ (s.log r).powered = s.powered ∧ (s.log r).icache = s.icache ∧ (s.log r).issued = s.issued ∧ (s.log r).spatial = s.spatial
    ∧ (s.log r).orphans = s.orphans ∧ (s.log r).failedSites = s.failedSites := by
  and_intros <;> rfl

/-- A gauge counts hits. -/
@[simp] theorem State.addHits_keeps (s : State) (core slot n hits : Nat) :
    (s.addHits core slot n hits).time = s.time ∧ (s.addHits core slot n hits).free = s.free ∧ (s.addHits core slot n hits).script = s.script
    ∧ (s.addHits core slot n hits).cur = s.cur ∧ (s.addHits core slot n hits).mem = s.mem ∧ (s.addHits core slot n hits).flight = s.flight
    ∧ (s.addHits core slot n hits).bolts = s.bolts ∧ (s.addHits core slot n hits).poison = s.poison
    ∧ (s.addHits core slot n hits).badBlocks = s.badBlocks ∧ (s.addHits core slot n hits).badSyms = s.badSyms
    ∧ (s.addHits core slot n hits).sram = s.sram ∧ (s.addHits core slot n hits).tlb = s.tlb ∧ (s.addHits core slot n hits).invals = s.invals
    ∧ (s.addHits core slot n hits).ranges = s.ranges ∧ (s.addHits core slot n hits).patterns = s.patterns
    ∧ (s.addHits core slot n hits).dirs = s.dirs ∧ (s.addHits core slot n hits).marks = s.marks
    ∧ (s.addHits core slot n hits).plsrc = s.plsrc ∧ (s.addHits core slot n hits).plcmd = s.plcmd
    ∧ (s.addHits core slot n hits).plstat = s.plstat ∧ (s.addHits core slot n hits).pushes = s.pushes
    ∧ (s.addHits core slot n hits).strongs = s.strongs ∧ (s.addHits core slot n hits).resident = s.resident
    ∧ (s.addHits core slot n hits).reading = s.reading ∧ (s.addHits core slot n hits).busy = s.busy
    ∧ (s.addHits core slot n hits).groups = s.groups ∧ (s.addHits core slot n hits).frags = s.frags
    ∧ (s.addHits core slot n hits).fgens = s.fgens ∧ (s.addHits core slot n hits).handles = s.handles
    ∧ (s.addHits core slot n hits).hgens = s.hgens ∧ (s.addHits core slot n hits).scratch = s.scratch
    ∧ (s.addHits core slot n hits).sems = s.sems ∧ (s.addHits core slot n hits).semq = s.semq
    ∧ (s.addHits core slot n hits).wakeBy = s.wakeBy ∧ (s.addHits core slot n hits).devSems = s.devSems
    ∧ (s.addHits core slot n hits).mq = s.mq ∧ (s.addHits core slot n hits).lastSlot = s.lastSlot
    ∧ (s.addHits core slot n hits).chains = s.chains ∧ (s.addHits core slot n hits).streams = s.streams
    ∧ (s.addHits core slot n hits).colls = s.colls ∧ (s.addHits core slot n hits).teams = s.teams
    ∧ (s.addHits core slot n hits).saved = s.saved ∧ (s.addHits core slot n hits).nodes = s.nodes
    ∧ (s.addHits core slot n hits).credits = s.credits ∧ (s.addHits core slot n hits).deficits = s.deficits
    ∧ (s.addHits core slot n hits).lastTen = s.lastTen ∧ (s.addHits core slot n hits).order = s.order
    ∧ (s.addHits core slot n hits).ctxs = s.ctxs ∧ (s.addHits core slot n hits).tens = s.tens
    ∧ (s.addHits core slot n hits).devlog = s.devlog ∧ (s.addHits core slot n hits).pendingInt = s.pendingInt
    ∧ (s.addHits core slot n hits).hbmStacks = s.hbmStacks ∧ (s.addHits core slot n hits).banks = s.banks
    ∧ (s.addHits core slot n hits).idleDcy = s.idleDcy ∧ (s.addHits core slot n hits).cxl = s.cxl
    ∧ (s.addHits core slot n hits).ports = s.ports ∧ (s.addHits core slot n hits).windows = s.windows
    ∧ (s.addHits core slot n hits).accept = s.accept ∧ (s.addHits core slot n hits).offerReg = s.offerReg
    ∧ (s.addHits core slot n hits).mailbox = s.mailbox ∧ (s.addHits core slot n hits).revoked = s.revoked
    ∧ (s.addHits core slot n hits).fw = s.fw ∧ (s.addHits core slot n hits).trier = s.trier
    ∧ (s.addHits core slot n hits).coreMap = s.coreMap ∧ (s.addHits core slot n hits).withdrawn = s.withdrawn
    ∧ (s.addHits core slot n hits).lostDies = s.lostDies
    ∧ (s.addHits core slot n hits).powered = s.powered ∧ (s.addHits core slot n hits).icache = s.icache
    ∧ (s.addHits core slot n hits).issued = s.issued ∧ (s.addHits core slot n hits).spatial = s.spatial
    ∧ (s.addHits core slot n hits).orphans = s.orphans ∧ (s.addHits core slot n hits).failedSites = s.failedSites := by
  unfold State.addHits
  split <;> and_intros <;> rfl

end Sys2Proof.Machine
end

