-- ==== Sys2Proof/Laws/Step.lean ====
section
/-! SUPPORT. Laws/Step.lean: what a turn comes to (R19, R403), and what reading memory through a core's translation leaves alone (R160). -/

namespace Sys2Proof.Machine

/-- From `s` to `t` errors of the storage show, table entries take their Accessed and Dirty bits, and cores cache translations and iwords. -/
structure ReadsOnly (s t : State) : Prop where
  rest : t = { s with mem := t.mem, tlb := t.tlb, icache := t.icache, badBlocks := t.badBlocks, badSyms := t.badSyms, hbmStacks := t.hbmStacks }
  wf   : s.mem.wf = true → t.mem.wf = true

theorem ReadsOnly.refl (s : State) : ReadsOnly s s := ⟨rfl, id⟩

theorem ReadsOnly.trans {s t u : State} (h : ReadsOnly s t) (k : ReadsOnly t u) : ReadsOnly s u := ⟨by rw [k.rest, h.rest], k.wf ∘ h.wf⟩

theorem ReadsOnly.foldl {α : Type} (k : State → α → State) (hk : ∀ s a, ReadsOnly s (k s a)) :
    ∀ (l : List α) (s : State), ReadsOnly s (l.foldl k s)
  | [], s => ReadsOnly.refl s
  | a :: l, s => (hk s a).trans (ReadsOnly.foldl k hk l (k s a))

/-- R329: reading blocks of HBM corrects or marks them. -/
theorem readBlocks_reads (s : State) (keys : List Nat) : ReadsOnly s (s.readBlocks keys) := by
  refine ReadsOnly.foldl _ (fun s k => ?_) keys s
  split
  · unfold State.checkBlock
    extract_lets
    split
    · exact ReadsOnly.refl s
    · split <;> exact ⟨rfl, id⟩
  · exact ReadsOnly.refl s

/-- A walk that sets Accessed or Dirty changes the entry and what the core caches of it, and reads table entries (R160, R329). -/
theorem touch_reads (s : State) (core ctx va : Nat) (store : Bool) : ReadsOnly s (s.touch core ctx va store) := by
  unfold State.touch
  split
  · exact ReadsOnly.refl s
  · split
    · extract_lets ad s1 s2
      have h1 : ReadsOnly s s1 := by
        unfold s1
        split
        · exact readBlocks_reads _ _
        · exact ReadsOnly.refl s
      refine h1.trans ?_
      split <;> exact ⟨rfl, fun h => Memory.wf_writeNat _ _ _ _ h⟩
    · exact ReadsOnly.refl s

/-- R43: so does fetching an iword. -/
theorem fetchIword_reads (s : State) (core ctx va : Nat) : ReadsOnly s (s.fetchIword core ctx va) := by
  unfold State.fetchIword
  extract_lets s1 key mine kept
  have h1 : ReadsOnly s s1 := touch_reads s core ctx va false
  split
  · exact h1
  · exact (h1.trans (readBlocks_reads s1 [key])).trans ⟨rfl, id⟩

/-- Fetching does not change who issues. -/
theorem ReadsOnly.who {s t : State} {w : Who} (h : ReadsOnly s t) (k : s.who? = some w) : t.who? = some w := by
  rw [h.rest]
  exact k

theorem fetches_who (w : Who) (core ctx : Nat) (l : List Nat) (s : State) (h : s.who? = some w) :
    (l.foldl (fun s a => s.fetchIword core ctx a) s).who? = some w :=
  (ReadsOnly.foldl _ (fun s a => fetchIword_reads s core ctx a) l s).who h

/-- The running fragment that moves next is the group's runner. -/
theorem runner_moves (s : State) (w : Who) (m : Moves s w) : s.runner w.core w.slot = some w := by
  unfold State.runner
  simp only [m.group, m.team, m.run, m.frag, m.ready, if_true]

/-- R403: a turn of a group whose running fragment moves next is that fragment's. -/
theorem issueTurn_moves (s : State) (w : Who) (m : Moves s w) : s.issueTurn w.core w.slot = s.fragTurn w := by
  have hc : w.t.ctx = w.ctx := rfl
  have hl := m.live
  rw [← hc] at hl
  unfold State.issueTurn
  have hp : ¬ (720 ≤ w.core ∨ 16 ≤ w.slot) := by have := m.place; omega
  simp only [m.group, m.team, hl, m.stays, m.idle, m.free, m.power, m.sound, m.turn, if_neg hp, runner_moves s w m]
  rfl

/-- The fragment fetches, or enters its block. -/
theorem nextTurn_moves (s : State) (w : Who) (ts : List Turn) (hs : s.script = .issue w.core w.slot :: ts) (m : Moves { s with script := ts } w) :
    s.nextTurn =
      let u : State := { s with
        script := ts, cur := some ⟨w.core, w.slot, w.fi⟩, lastSlot := Table.put s.lastSlot w.core w.slot,
        issued := Table.put s.issued w.core (w.slot :: Table.getD s.issued [] w.core) }
      if w.f.entered then u.fetchTurn w else .done (u.enter w) := by
  have h : s.nextTurn = ({ s with script := ts } : State).issueTurn w.core w.slot := by
    unfold State.nextTurn
    rw [hs]
    rfl
  rw [h, issueTurn_moves _ w m]
  unfold State.fragTurn
  rw [m.owes]
  rfl

/-- R199: where no load is outstanding, none is read early. -/
theorem readEarly_idle (s : State) (h : ∀ e ∈ s.groups, e.2.loads = []) : s.readEarly = s.useFree := by
  have hl : s.groups.filter (fun e => !e.2.loads.isEmpty) = [] := List.filter_eq_nil_iff.mpr (fun e he => by simp [h e he])
  unfold State.readEarly
  rw [hl]
  rfl

end Sys2Proof.Machine
end

