-- ==== Sys2Proof/Laws/Vector.lean ====
section
/-! SUPPORT. Laws/Vector.lean: once for all, what a vector instruction on registers does (R121 to R128). -/

namespace Sys2Proof.Machine

/-- A field that names a stream port. -/
theorem operandOf_port {x : BitVec 10} (h : Fld.isPort x = false) (k : Nat) : operandOf x ≠ .port k := by
  intro hk
  simp only [operandOf] at hk
  simp only [Fld.isPort, Bool.and_eq_false_iff, decide_eq_false_iff_not] at h
  split at hk
  · cases hk
  · split at hk
    · split at hk <;> cases hk
    · split at hk
      · omega
      · cases hk

theorem operandOf_v {x : BitVec 10} {n : Nat} (h : operandOf x = .v n) : Fld.isPort x = false := by
  by_cases hp : Fld.isPort x = false
  · exact hp
  · exfalso
    simp only [Fld.isPort, Bool.not_eq_false, Bool.and_eq_true, decide_eq_true_eq] at hp
    unfold operandOf at h
    have h1 : ¬ x.toNat < 0x3C0 := by omega
    have h2 : ¬ x.toNat < 0x3E0 := by omega
    have h3 : x.toNat < 0x3E8 := by omega
    simp [h1, h2, h3] at h

/-- An operand that is no port has no lane check of its own. -/
theorem State.portFails_nil (s : State) (w : Who) (act : Mask) {x : BitVec 10} (wr : Bool) (h : Fld.isPort x = false) (out : List Nat := []) :
    s.portFails w act x wr out = [] := by
  unfold State.portFails
  split
  · rename_i k hk
    exact absurd hk (operandOf_port h k)
  · rfl

/-- No access, no request (R365). -/
theorem State.asksFor_nil (s : State) (kind : Option StoreKind) (w : Who) (fails : List (Nat × LaneFail)) :
    s.asksFor kind w fails [] = [] := by
  unfold State.asksFor
  split
  · rfl
  · cases kind <;> simp [State.storeAsks, State.fetchAsks, State.maskAsks, bytesBy, spansBy]

/-- Nor has it a request of its own at a home. -/
theorem State.portAsks_nil (s : State) (w : Who) (act : Mask) (fails : List (Nat × LaneFail)) {x : BitVec 10} (wr : Bool)
    (h : Fld.isPort x = false) : s.portAsks w act fails x wr = [] := by
  have hn : w.portAccs act x = [] := by
    unfold Who.portAccs
    split
    · rename_i k hk
      exact absurd hk (operandOf_port h k)
    · rfl
  unfold State.portAsks
  rw [hn]
  exact State.asksFor_nil _ _ _ _

theorem portsOf_nil (xs : List (BitVec 10)) (h : ∀ x ∈ xs, Fld.isPort x = false) : portsOf xs = [] := by
  unfold portsOf
  have : xs.filterMap (fun x => match operandOf x with | .port k => some k | _ => none) = [] := by
    rw [List.filterMap_eq_nil_iff]
    intro x hx
    split
    · rename_i k hk
      exact absurd hk (operandOf_port (h x hx) k)
    · rfl
  exact congrArg (List.foldl insertNat []) this

/-- Writing units of lanes to a register. -/
theorem writeUnits_wrote (g : Group) (n tag : Nat) (wide : Bool) (m : Mask) (v : Nat → Nat) :
    Wrote g
      (let vs := (Mask.lanes m).map (fun l => (l, v l))
       let g1 := g.writeSlots n tag (vs.map (fun x => (x.1, BitVec.ofNat 32 x.2)))
       if wide then g1.writeSlots (n + 1) tag (vs.map (fun x => (x.1, BitVec.ofNat 32 (x.2 / 2 ^ 32)))) else g1)
      n wide tag m v := by
  have hlo : (((Mask.lanes m).map (fun l => (l, v l))).map (fun x => (x.1, BitVec.ofNat 32 x.2)))
      = (Mask.lanes m).map (fun l => (l, BitVec.ofNat 32 (v l))) := by simp [List.map_map, Function.comp_def]
  have hhi : (((Mask.lanes m).map (fun l => (l, v l))).map (fun x => (x.1, BitVec.ofNat 32 (x.2 / 2 ^ 32))))
      = (Mask.lanes m).map (fun l => (l, BitVec.ofNat 32 (v l / 2 ^ 32))) := by simp [List.map_map, Function.comp_def]
  simp only [hlo, hhi]
  have hnd : ∀ k : Nat → Slot, (((Mask.lanes m).map (fun l => (l, k l))).map Prod.fst).Nodup := by
    intro k
    have : ((Mask.lanes m).map (fun l => (l, k l))).map Prod.fst = Mask.lanes m := by
      simp [List.map_map, Function.comp_def]
    rw [this]
    exact Mask.lanes_nodup m
  have hne : ∀ k : Nat → Slot, m ≠ 0 → (Mask.lanes m).map (fun l => (l, k l)) ≠ [] := by
    intro k hm hx
    exact hm ((Mask.lanes_eq_nil m).mp (by simpa using hx))
  generalize hg1 : g.writeSlots n tag ((Mask.lanes m).map (fun l => (l, BitVec.ofNat 32 (v l)))) = g1
  have hs1 : ∀ l, l < 32 → (g1.line n).slot l = if m.getLsbD l then BitVec.ofNat 32 (v l) else (g.line n).slot l := by
    intro l hl
    rw [← hg1, Group.writeSlots_slot _ _ _ _ _ (hnd _) hl, find_map_lanes]
    split <;> rfl
  have ho1 : ∀ k, k ≠ n → g1.line k = g.line k := fun k hk => by rw [← hg1]; exact Group.writeSlots_line_ne _ _ _ hk
  have ht1 : m ≠ 0 → (g1.line n).tag = BitVec.ofNat 5 tag := fun hm => by
    rw [← hg1]; exact Group.writeSlots_tag _ _ _ _ (hne _ hm)
  have hr1 : g1 = { g with win := g1.win } := by rw [← hg1]; exact Group.writeSlots_rest _ _ _ _
  cases wide with
  | false =>
    simp only [Bool.false_eq_true, if_false]
    refine ⟨?_, ?_, ?_, ?_, hr1⟩
    · intro l hl
      simp [Group.unit, hs1 l (BitVec.lt_of_getLsbD hl), hl, BitVec.toNat_ofNat]
    · intro l hl hm
      simp [Group.unit, hs1 l hl, hm]
    · intro hm
      refine ⟨?_, by simp⟩
      simp [Group.tag, ht1 hm, BitVec.toNat_ofNat]
    · intro k hk _
      exact ho1 k hk
  | true =>
    simp only [if_true]
    generalize hg2 : g1.writeSlots (n + 1) tag ((Mask.lanes m).map (fun l => (l, BitVec.ofNat 32 (v l / 2 ^ 32)))) = g2
    have hs2 : ∀ l, l < 32 → (g2.line (n + 1)).slot l = if m.getLsbD l then BitVec.ofNat 32 (v l / 2 ^ 32) else (g.line (n + 1)).slot l := by
      intro l hl
      rw [← hg2, Group.writeSlots_slot _ _ _ _ _ (hnd _) hl, find_map_lanes, ho1 (n + 1) (by omega)]
      split <;> rfl
    have ho2 : ∀ k, k ≠ n + 1 → g2.line k = g1.line k := fun k hk => by rw [← hg2]; exact Group.writeSlots_line_ne _ _ _ hk
    have ht2 : m ≠ 0 → (g2.line (n + 1)).tag = BitVec.ofNat 5 tag := fun hm => by
      rw [← hg2]; exact Group.writeSlots_tag _ _ _ _ (hne _ hm)
    have hr2 : g2 = { g with win := g2.win } := by
      have : g2 = { g1 with win := g2.win } := by rw [← hg2]; exact Group.writeSlots_rest _ _ _ _
      rw [this, hr1]
    refine ⟨?_, ?_, ?_, ?_, hr2⟩
    · intro l hl
      have hl32 := BitVec.lt_of_getLsbD hl
      simp only [Group.unit, ho2 n (by omega), hs1 l hl32, hs2 l hl32, hl, if_true, BitVec.toNat_ofNat]
      omega
    · intro l hl hm
      simp [Group.unit, ho2 n (by omega), hs1 l hl, hs2 l hl, hm]
    · intro hm
      refine ⟨?_, fun _ => ?_⟩
      · simp [Group.tag, ho2 n (by omega), ht1 hm, BitVec.toNat_ofNat]
      · simp [Group.tag, ht2 hm, BitVec.toNat_ofNat]
    · intro k hk1 hk2
      rw [ho2 k (hk2 rfl), ho1 k hk1]

/-- R124: writing a register destination: the frame of `State.writeDst`. -/
theorem writeDst_reg (s : State) (w : Who) (d : BitVec 10) (n tag : Nat) (wide : Bool) (m : Mask) (v : Nat → Nat) {g : Group}
    (hd : operandOf d = .v n) (hg : s.group? w.core w.slot = some g) :
    ∃ g', (s.writeDst w d tag wide ((Mask.lanes m).map (fun l => (l, v l)))).group? w.core w.slot = some g'
      ∧ Wrote g g' n wide tag m v
      ∧ s.writeDst w d tag wide ((Mask.lanes m).map (fun l => (l, v l))) = s.updGroup w.core w.slot (fun _ => g') := by
  refine ⟨_, ?_, writeUnits_wrote g n tag wide m v, ?_⟩
  · unfold State.writeDst
    simp only [hd]
    exact State.group?_updGroup _ _ _ _ hg
  · unfold State.writeDst
    simp only [hd]
    have hg' : Table.find s.groups (slotKey w.core w.slot) = some g := hg
    simp [State.updGroup, Table.upd, hg']

theorem Table.put_put {α : Type} (t : Table α) (n : Nat) (x y : α) : Table.put (Table.put t n x) n y = Table.put t n y := by
  induction t with
  | nil => simp [Table.put]
  | cons e t ih =>
    simp only [Table.put]
    split
    · simp [Table.put]
    · split
      · simp [Table.put]
      · rename_i h1 h2
        simp only [Table.put, if_neg h1, if_neg h2, ih]

/-- Two changes of one group. -/
theorem State.updGroup_updGroup (s : State) (core slot : Nat) (f h : Group → Group) :
    (s.updGroup core slot f).updGroup core slot h = s.updGroup core slot (fun g => h (f g)) := by
  unfold State.updGroup Table.upd
  cases hg : Table.find s.groups (slotKey core slot) with
  | none => simp [hg]
  | some g => simp [Table.put_put]

/-- The frame of what a step changes is the same when the issuer's group was changed first. -/
theorem Went.of_updGroup {s t : State} {w : Who} {g g' : Group} {n : Nat} (h : Went (s.updGroup w.core w.slot (fun _ => g')) t w g n) :
    Went s t w g n := by
  refine ⟨h.group, ?_, ?_, ?_, h.stands⟩
  · rw [h.rest]; rfl
  · intro k hk
    rw [h.groups k hk, State.updGroup_other _ _ _ _ hk]
  · intro k h1 h2
    exact h.frags k h1 h2

@[simp] theorem State.addHits_group? (s : State) (core slot n hits c sl : Nat) : (s.addHits core slot n hits).group? c sl = s.group? c sl := by
  unfold State.addHits
  split <;> rfl

/-- R121 to R128: a vector instruction on registers completes: its lanes take the results of `op`, gauged, and go on. -/
theorem vec_goes_on {s : State} {w : Who} {fm : Fmt} {n : Nat} (i : Instr) (iw : Nat) (op : VecOp)
    (h : VecReady s w op.g op.etag op.accept op.uses op.d n op.resTag fm op.known) (hx : op.extra w fm = .ok ()) (hfree : op.free = false)
    (y : Nat → List (Nat × BitVec 9))
    (hy : op.eval (op.input s w fm [] (w.act op.g)) = (Mask.lanes (w.act op.g)).map
      (fun l => ⟨l, (y l).map Prod.fst, (y l).foldl (fun f r => f ||| r.2) 0⟩)) :
    ∃ t, s.issueVec i iw op = .next t ∧ VecResult s t w op.g n iw op.gauge (op.resTag fm.tag) y := by
  have hports : portsOf (op.uses.map Use.field) = [] := portsOf_nil _ (by
    intro x hx
    obtain ⟨u, hu, rfl⟩ := List.mem_map.mp hx
    exact h.regs u hu)
  have hg := State.who?_group h.issues.who
  -- the plan and its checks
  obtain ⟨p, hp, hp1, hp2, hp3, hp4, hp5, hp6, hp7, hp8, hp9⟩ : ∃ p, vecPlan s op w = .ok p ∧ p.oob = false ∧ p.fails = []
      ∧ p.commit = (fun cm s => s.vecCommit w op fm cm) ∧ p.leaves = false ∧ p.flow = .seq ∧ p.post = (fun s => s)
      ∧ (p.rel = none ∧ p.wait = false ∧ p.late = none) ∧ p.stores = false ∧ p.asks = [] := by
    unfold vecPlan
    simp only [h.checks, hx]
    have hany : anyPort (op.d :: op.uses.map Use.field) = false := by
      rw [anyPort, List.any_cons, operandOf_v h.dest, Bool.false_or, List.any_map, List.any_eq_false]
      exact fun u hu => by simp [h.regs u hu]
    refine ⟨_, rfl, h.inside, ?_, rfl, hany, rfl, rfl, ⟨rfl, rfl, rfl⟩, operandOf_v h.dest, ?_⟩
    case refine_2 =>
      have h1 : ∀ fails, op.uses.flatMap (fun u => s.portAsks w (w.act op.g) fails u.field false) = [] := by
        intro fails
        rw [List.flatMap_eq_nil_iff]
        exact fun u hu => State.portAsks_nil s w _ _ false (h.regs u hu)
      simp only [h1, State.portAsks_nil s w _ _ true (operandOf_v h.dest)]
      rfl
    have h1 : op.uses.flatMap (fun u => s.portFails w (w.act op.g) u.field false) = [] := by
      rw [List.flatMap_eq_nil_iff]
      exact fun u hu => State.portFails_nil s w _ false (h.regs u hu)
    simp only [h1, State.failsTo, State.portFails_nil s w _ true (operandOf_v h.dest) _]
    rfl
  have hpass : Passes s w op.g iw p := by
    refine ⟨?_, hp7.2.2, ?_, ?_, .inr hp4, .inr ⟨hp8, hp7.1⟩⟩
    · simp [Plan.failing, hp1, hp2]
    · simp [Plan.holds, hp7.1, hp7.2.1, hp8, hp9, State.asksStall]
    · rw [hp5]
      exact Nat.zero_le _
  -- its effect
  let gz := if op.gauge = 0 then none else some (s.gauge w.core op.gauge)
  let z : Nat → LaneOut × Nat := fun l => gaugeLane gz (op.resTag fm.tag) ⟨l, (y l).map Prod.fst, (y l).foldl (fun f r => f ||| r.2) 0⟩
  let hits := (Mask.lanes (w.act op.g)).foldl (fun h l => h + (z l).2) 0
  let flags := (Mask.lanes (w.act op.g)).foldl (fun f l => f ||| (z l).1.flags) 0
  have hlane : ∀ l, (z l).1.lane = l := by
    intro l
    simp only [z, gaugeLane]
    cases gz <;> rfl
  have hcommit : p.commit (w.act op.g) s = (((s.addHits w.core w.slot op.gauge hits).updGroup w.core w.slot (fun g => g.orFlags flags)).writeDst w
      op.d (op.resTag fm.tag) (Tg.wide (op.resTag fm.tag)) ((Mask.lanes (w.act op.g)).map (fun l => (l, unitOf (op.resTag fm.tag) (z l).1.elems)))) := by
    rw [hp3]
    unfold State.vecCommit
    simp only [hports, State.loadPorts]
    rw [hy, hfree]
    simp only [Bool.false_eq_true, if_false, List.map_map, List.foldl_map, Function.comp_def]
    have : ∀ l, (gaugeLane gz (op.resTag fm.tag) ⟨l, (y l).map Prod.fst, (y l).foldl (fun f r => f ||| r.2) 0⟩).1.lane = l := hlane
    simp only [gz] at this
    simp only [this]
    rfl
  obtain ⟨g', q1, q2, q3⟩ := writeDst_reg ((s.addHits w.core w.slot op.gauge hits).updGroup w.core w.slot (fun g => g.orFlags flags)) w op.d n
    (op.resTag fm.tag) (Tg.wide (op.resTag fm.tag)) (w.act op.g) (fun l => unitOf (op.resTag fm.tag) (z l).1.elems) (g := w.g.orFlags flags) h.dest
    (State.group?_updGroup _ _ _ _ (by rw [State.addHits_group?]; exact hg))
  obtain ⟨t, ht, hwent⟩ := issue_goes_on s i op.g iw (vecPlan s op) h.issues hp hpass hp5 (hcommit.trans q3) (by rw [← q3]; exact q1)
  refine ⟨t, ?_, g', ?_, q2⟩
  · unfold State.issueVec
    rw [ht, hp6]
  · rw [State.updGroup_updGroup] at hwent
    exact Went.of_updGroup hwent

/-- An element-wise operation gives one result for each element of each committing lane. -/
theorem lanewise_eq (n : Nat) (k : List Nat → Nat × BitVec 9) (x : VecIn) :
    lanewise n k x = (Mask.lanes x.cm).map (fun l =>
      let r := (List.range (Tg.epl x.t)).map (fun i => k ((List.range n).map (fun u => bits (x.val u l) (i * Tg.width x.t) (Tg.width x.t))))
      ⟨l, r.map Prod.fst, r.foldl (fun f r => f ||| r.2) 0⟩) := rfl

end Sys2Proof.Machine
end

