-- ==== Sys2Proof/Tests/Slice0.lean ====
section
/-! SUPPORT. Tests/Slice0.lean: terms that `wellFormed` refuses; a word of every instruction, laid out from the spec's encoding of it; single steps
whose results the spec works out; and for each statement a state and operands that meet its hypotheses, clause by clause. -/

-- The theorems are checked one after another: side by side they ask for more threads than the check's memory limit allows.
set_option Elab.async false

namespace Sys2Proof.Tests

open Sys2Proof Sys2Proof.Machine

-- Encodings.

/-- Each word decodes to the instruction beside it. -/
def decodes (l : List (Nat × Nat × Instr)) : Bool := l.all (fun e => decodeTableWord e.1 e.2.1 == some e.2.2)

/-- Every term of the list is ill formed. -/
def refusesAll (l : List Instr) : Bool := l.all (fun i => !wellFormed i)

/-- The guard that an omitted guard encodes (R66). -/
def gp : Guard := ⟨false, 15⟩

-- Operands of format V: a destination that is a special register, a reserved source, a control slot past its range, SAT where it is not allowed,
-- a reserved expected tag, a rounding mode where none is taken, a port that is source and destination.
theorem test_illformed_vector : refusesAll [
    .iadd ⟨gp, 0x3C0, 1, 2, 0, 3, 0⟩, .iadd ⟨gp, 1, 0x3CC, 2, 0, 3, 0⟩, .iadd ⟨gp, 1, 2, 0x3E8, 0, 3, 0⟩, .iadd ⟨gp, 1, 2, 3, 128, 3, 0⟩,
    .imin ⟨gp, 1, 2, 3, 64, 3, 0⟩, .iadd ⟨gp, 1, 2, 3, 0, 25, 0⟩, .iadd ⟨gp, 1, 2, 3, 0, 3, 1⟩, .iadd ⟨gp, 0x3E1, 0x3E1, 3, 0, 3, 0⟩,
    .iabs ⟨gp, 1, 2, 3, 0, 3, 0⟩, .imad ⟨gp, 1, 2, 3, 0x3D0, 3, 0⟩, .and ⟨gp, 1, 2, 3, 4, 3, 0⟩, .not ⟨gp, 1, 2, 3, 0, 3, 0⟩,
    .sel ⟨gp, 1, 2, 3, 32, 3, 0⟩, .bcast ⟨gp, 1, 2, 0, 32, 3, 0⟩, .ireduce ⟨gp, 1, 2, 0, 6, 3, 0⟩, .ireduce ⟨gp, 1, 2, 0, 65, 3, 0⟩,
    .fadd ⟨gp, 1, 2, 3, 64, 11, 0⟩, .freduce ⟨gp, 1, 2, 0, 3, 11, 0⟩, .freduce ⟨gp, 1, 2, 0, 1, 11, 1⟩,
    .cvt ⟨gp, 1, 2, 0, 0, 3, 0⟩, .cvt ⟨gp, 1, 2, 0, 15, 3, 0⟩, .cvts ⟨gp, 1, 2, 3, 12, 3, 0⟩, .cvts ⟨gp, 0x3E0, 2, 3, 13, 3, 0⟩,
    .scalesel ⟨gp, 1, 2, 0, 15, 11, 0⟩, .tag ⟨gp, 1, 0, 0, 25, 31, 0⟩, .tag ⟨gp, 1, 0, 0, 3, 3, 0⟩, .tagr ⟨gp, 1, 2, 0, 0, 31, 0⟩,
    .tagr ⟨gp, 1, 2, 0, 33, 31, 0⟩, .pack ⟨gp, 1, 2, 0, 2, 3, 0⟩, .unpack ⟨gp, 1, 2, 0, 2, 3, 0⟩, .bpsplit ⟨gp, 1, 2, 0, 1, 1, 0⟩,
    .bpjoin ⟨gp, 1, 2, 0, 9, 15, 0⟩] = true := by decide +kernel

-- Immediates: an operand A where MOVI has none, a bit-plane tag, Z with a float tag, a shift count past 63; LEA's odd destination.
theorem test_illformed_immediate : refusesAll [
    .movi ⟨gp, 1, 1, 0, 3, false⟩, .movi ⟨gp, 1, 0, 0, 15, false⟩, .movi ⟨gp, 1, 0, 0, 11, true⟩, .moviW ⟨gp, 1, 0, 1, 3, false⟩ 0,
    .shli ⟨gp, 1, 2, 64, 3, false⟩, .shli ⟨gp, 1, 2, 4, 3, true⟩, .iaddi ⟨gp, 0x3CA, 2, 4, 3, false⟩, .lea ⟨gp, 7, 6, 0, 31, false⟩,
    .lea ⟨gp, 8, 5, 0, 31, false⟩] = true := by decide +kernel

-- Memory: an odd base, sizes and modifiers past their range, an odd pair as data, a port or special register where none may stand, a scope past
-- `.sys`, an operation past the table.
theorem test_illformed_memory : refusesAll [
    .ld ⟨gp, 1, 5, 0, 2, 0⟩, .ld ⟨gp, 1, 6, 0, 5, 0⟩, .ld ⟨gp, 1, 6, 0, 4, 8⟩, .ld ⟨gp, 1, 6, 0, 3, 0⟩, .ld ⟨gp, 0x3CA, 6, 0, 2, 0⟩,
    .lda ⟨gp, 1, 6, 0, 2, 5⟩, .lda ⟨gp, 0x3E0, 6, 0, 2, 0⟩, .ldt ⟨gp, 1, 0x3E0, 0, 2, 0⟩, .ldt ⟨gp, 1, 2, 0, 2, 1⟩, .pref ⟨gp, 1, 6, 0, 2, 0⟩,
    .st ⟨gp, 1, 6, 0, 2, 8⟩, .stl ⟨gp, 1, 6, 0, 2, 5⟩, .stl ⟨gp, 0x3E0, 6, 0, 2, 0⟩, .stt ⟨gp, 1, 2, 0, 2, 1⟩, .atom ⟨gp, 1, 6, 0, 1, 0⟩,
    .atom ⟨gp, 1, 6, 0x90000, 2, 0⟩, .atom ⟨gp, 0x3CA, 6, 0, 2, 0⟩, .atom ⟨gp, 1, 6, 0, 2, 5⟩, .atomf ⟨gp, 1, 6, 0x30000, 2, 0⟩,
    .cas ⟨gp, 1, 6, 0, 5, 0⟩, .cas ⟨gp, 1, 6, 0, 3, 0⟩, .flush ⟨gp, 1, 6, 0, 2, 3⟩, .inv ⟨gp, 1, 6, 0, 1, 0⟩, .zero ⟨gp, 0x3E0, 6, 0, 2, 0⟩,
    .zero ⟨gp, 1, 6, 0, 2, 1⟩] = true := by decide +kernel

-- Matrix: tile, accumulator and gauge numbers past their range, slots that must be zero, odd pairs, modifiers past their range.
theorem test_illformed_matrix : refusesAll [
    .tdesc ⟨gp, 16, 1, 0, 0, 0⟩, .tdesc ⟨gp, 8, 1, 0, 0, 1⟩, .tdesc ⟨gp, 1, 1, 1, 0, 0⟩, .tload ⟨gp, 1, 5, 0, 0, 0⟩, .tload ⟨gp, 1, 6, 2, 0, 0⟩,
    .tload ⟨gp, 1, 6, 7, 0, 8⟩, .tload ⟨gp, 1, 6, 0, 0, 16⟩, .tstore ⟨gp, 1, 6, 0, 1, 0⟩, .tfromh ⟨gp, 1, 0x3C0, 1, 2, 0⟩,
    .ttoh ⟨gp, 1, 1, 1, 2, 1⟩, .tzero ⟨gp, 1, 0, 0, 0, 2⟩, .mma ⟨gp, 8, 0, 1, 0, 0⟩, .mma ⟨gp, 0, 0, 1, 0, 1⟩, .accz ⟨gp, 8, 0, 0, 0, 0⟩,
    .drain ⟨gp, 0, 1, 2, 3, 0⟩, .drain ⟨gp, 0, 1, 2, 0x3CA, 1⟩, .accget ⟨gp, 1, 0, 0, 0, 3⟩, .accget ⟨gp, 1, 0, 0, 0, 0⟩,
    .accput ⟨gp, 0, 1, 0, 0, 0⟩, .accput ⟨gp, 0, 1, 0, 0, 3⟩, .ttrans ⟨gp, 1, 16, 0, 0, 0⟩, .gset ⟨gp, 0, 1, 0, 0, 0⟩,
    .gset ⟨gp, 64, 1, 0, 0, 0⟩, .gset ⟨gp, 1, 1, 0, 0, 8⟩, .gget ⟨gp, 1, 0, 0, 0, 0⟩] = true := by decide +kernel

-- Control: slots that must be zero, an odd pair, a table of no entry, a barrier past 7, a cause past 31, an unassigned selector; BRM's NEG with `pt`.
theorem test_illformed_control : refusesAll [
    .br ⟨gp, 1, 1, 0⟩, .brm ⟨gp, 1, 0, 0⟩ 0xF8000001 0, .brm ⟨gp, 1, 0, 0⟩ 0 0xF800000100000000, .jtab ⟨gp, 1, 5, 0⟩, .jtab ⟨gp, 1, 0x3CA, 1⟩,
    .jind ⟨gp, 0, 41, 0⟩, .jind ⟨gp, 1, 40, 0⟩, .call ⟨gp, 1, 41, 0⟩, .exit ⟨gp, 0, 0, 1⟩, .bar ⟨gp, 0, 0, 8⟩, .rejoin ⟨gp, 0, 1, 0⟩,
    .kill ⟨gp, 0, 0x3CA, 0⟩, .trap ⟨gp, 0, 1, 32⟩, .trap ⟨gp, 0, 0x3CB, 0⟩, .fragq ⟨gp, 0, 1, 3⟩, .fragq ⟨gp, 0, 1, 16⟩] = true := by
  decide +kernel

-- Predicates: `pt` as a destination, PE equal to PD, a port as a source, a condition past the table, a tag where none is taken.
theorem test_illformed_predicate : refusesAll [
    .icmp ⟨gp, 15, 1, 2, 3, 15, 0, 0, 3⟩, .icmp ⟨gp, 1, 1, 2, 3, 15, 0, 0, 3⟩, .icmp ⟨gp, 1, 2, 0x3E0, 3, 15, 0, 0, 3⟩,
    .icmp ⟨gp, 1, 2, 2, 3, 15, 0, 8, 3⟩, .fcmp ⟨gp, 1, 2, 2, 3, 15, 1, 0, 11⟩, .pand ⟨gp, 1, 2, 0, 0, 1, 2, 0, 31⟩,
    .pand ⟨gp, 1, 15, 0, 0, 1, 2, 4, 31⟩, .pand ⟨gp, 1, 15, 0, 0, 1, 2, 0, 3⟩, .pnot ⟨gp, 1, 15, 0, 0, 1, 2, 0, 31⟩,
    .pany ⟨gp, 1, 15, 0, 0, 1, 0, 3, 31⟩, .pset ⟨gp, 1, 15, 1, 0, 0, 0, 0, 31⟩, .pset ⟨gp, 1, 15, 0x3C0, 0, 0, 0, 2, 31⟩] = true := by
  decide +kernel

-- Engines, control registers and register space: special registers and ports where none may stand, chain and semaphore numbers past their range,
-- a FENCE of no kind, an unassigned control register, an odd pair.
theorem test_illformed_other : refusesAll [
    .cput ⟨gp, 5, 1, 0, 0, 0⟩, .cput ⟨gp, 6, 0x3C0, 0, 0, 0⟩, .ctail ⟨gp, 6, 0, 0, 4, 0⟩, .ctail ⟨gp, 6, 0, 0, 256, 2⟩,
    .ctailOpen ⟨gp, 6, 0, 0, 4, 4⟩, .semadd ⟨gp, 0x3E0, 0, 0, 1, 0⟩, .semadd ⟨gp, 1, 0, 0, 64, 0⟩, .semadd ⟨gp, 1, 2, 0, 1, 0⟩,
    .semwait ⟨gp, 1, 0, 0, 1, 4⟩, .semread ⟨gp, 0x3CA, 0, 0, 1, 0⟩, .publish ⟨gp, 6, 1, 0, 0, 5⟩, .enq ⟨gp, 6, 0, 0, 0, 16⟩,
    .svc ⟨gp, 6, 1, 7, 0, 0⟩, .mwait ⟨gp, 6, 1, 2, 0, 2⟩, .mwait ⟨gp, 6, 7, 2, 0, 1⟩, .collabort ⟨gp, 1, 1, 0, 0, 0⟩,
    .fence ⟨gp, 0, 0, 0, 0, 3⟩, .fence ⟨gp, 0, 0, 0, 0, 0x1D⟩, .fence ⟨gp, 0, 0, 0, 0, 32⟩, .talloc ⟨gp, 1, 2, 0, 3, 0⟩,
    .talloc ⟨gp, 1, 2, 3, 1, 0⟩, .talloc ⟨gp, 1, 2, 0, 1, 60⟩, .tfree ⟨gp, 0x3CA, 0, 0, 0, 0⟩,
    .csrr ⟨gp, 1, 0, 5, 0⟩, .csrr ⟨gp, 1, 0, 3, 0⟩, .csrw ⟨gp, 0, 1, 0, 1⟩, .clock ⟨gp, 1, 0, 0, 0⟩, .clock ⟨gp, 2, 0, 0, 2⟩,
    .errq ⟨gp, 2, 0, 0, 6⟩, .errq ⟨gp, 1, 0, 0, 0⟩, .errq ⟨gp, 0, 3, 0, 5⟩,
    .mov ⟨gp, 1, 2, 0, 1, 31, 0⟩, .rget ⟨gp, 1, 2, 0, 1, 31, 0⟩, .rget ⟨gp, 1, 2, 0, 2, 31, 0⟩, .rput ⟨gp, 1, 2, 3, 0, 31, 0⟩,
    .sbind ⟨gp, 1, 2, 3, 0, 31, 0⟩, .sbind ⟨gp, 0x3E0, 0x3CA, 3, 0, 31, 0⟩, .sstat ⟨gp, 2, 1, 0, 0, 31, 0⟩,
    .sstat ⟨gp, 2, 0x3E0, 0, 3, 31, 0⟩] = true := by decide +kernel

theorem test_decode_integer : decodes [
    (64, 0x00078080280C2004, .iadd ⟨⟨false, 15⟩, 4, 5, 6, 0x40, 1, 0⟩),
    (64, 0x0019FC3E50123F88, .isub ⟨⟨true, 3⟩, 0x3E1, 0x3CA, 9, 0x7F, 2, 0⟩),
    (64, 0x002777FF0780008C, .imul ⟨⟨false, 14⟩, 0x3BF, 0x3E0, 0x3C0, 1, 3, 0⟩),
    (64, 0x00378040200C1FA0, .imulh ⟨⟨false, 15⟩, 2, 4, 6, 0x3F, 8, 0⟩),
    (64, 0x004000201007F39C, .imad ⟨⟨false, 0⟩, 1, 2, 3, 0x3E7, 7, 0⟩),
    (64, 0x0057803E5806017C, .imin ⟨⟨false, 15⟩, 1, 0x3CB, 3, 2, 31, 0⟩),
    (64, 0x0067814058181018, .imax ⟨⟨false, 15⟩, 10, 11, 12, 0x20, 6, 0⟩),
    (64, 0x0077814058002094, .iabs ⟨⟨false, 15⟩, 10, 11, 0, 0x41, 5, 0⟩),
    (64, 0x0087815E4000207C, .ineg ⟨⟨false, 15⟩, 10, 0x3C8, 0, 0x40, 31, 0⟩),
    (64, 0x0097C03014060060, .and ⟨⟨false, 15⟩, 0x201, 0x202, 0x203, 0, 24, 0⟩),
    (64, 0x00A7C03014060000, .or ⟨⟨false, 15⟩, 0x201, 0x202, 0x203, 0, 0, 0⟩),
    (64, 0x00B780A01808007C, .xor ⟨⟨false, 15⟩, 5, 3, 4, 0, 31, 0⟩),
    (64, 0x00C7C0301000001C, .not ⟨⟨false, 15⟩, 0x201, 0x202, 0, 0, 7, 0⟩),
    (64, 0x00D780201006001C, .shl ⟨⟨false, 15⟩, 1, 2, 3, 0, 7, 0⟩),
    (64, 0x00E7802010060018, .shr ⟨⟨false, 15⟩, 1, 2, 3, 0, 6, 0⟩),
    (64, 0x00F780201006000C, .sar ⟨⟨false, 15⟩, 1, 2, 3, 0, 3, 0⟩),
    (64, 0x0107802010060020, .rotl ⟨⟨false, 15⟩, 1, 2, 3, 0, 8, 0⟩),
    (64, 0x0117802010000060, .popc ⟨⟨false, 15⟩, 1, 2, 0, 0, 24, 0⟩),
    (64, 0x012780201000000C, .clz ⟨⟨false, 15⟩, 1, 2, 0, 0, 3, 0⟩),
    (64, 0x013780201000001C, .brev ⟨⟨false, 15⟩, 1, 2, 0, 0, 7, 0⟩),
    (64, 0x01478180681C0A2C, .sel ⟨⟨false, 15⟩, 12, 13, 14, 20, 11, 0⟩),
    (64, 0x0157814058180014, .clmul ⟨⟨false, 15⟩, 10, 11, 12, 0, 5, 0⟩),
    (64, 0x016781A058180014, .clmulh ⟨⟨false, 15⟩, 13, 11, 12, 0, 5, 0⟩),
    (64, 0x017780201006000C, .bfx ⟨⟨false, 15⟩, 1, 2, 3, 0, 3, 0⟩),
    (64, 0x018780201006027C, .bfi ⟨⟨false, 15⟩, 1, 2, 3, 4, 31, 0⟩),
    (64, 0x019780201006007C, .shuf ⟨⟨false, 15⟩, 1, 2, 3, 0, 31, 0⟩),
    (64, 0x01A78020100003FC, .bcast ⟨⟨false, 15⟩, 1, 2, 0, 7, 31, 0⟩),
    (64, 0x01B780401800010C, .ireduce ⟨⟨false, 15⟩, 2, 3, 0, 2, 3, 0⟩),
    (64, 0x01C78120200A037C, .dot4 ⟨⟨false, 15⟩, 9, 4, 5, 6, 31, 0⟩)] = true := by decide +kernel

theorem test_decode_float : decodes [
    (64, 0x100181405818002D, .fadd ⟨⟨false, 3⟩, 10, 11, 12, 0, 11, 1⟩),
    (64, 0x1017802010061FA7, .fsub ⟨⟨false, 15⟩, 1, 2, 3, 0x3F, 9, 3⟩),
    (64, 0x10278100481401AA, .fmul ⟨⟨false, 15⟩, 8, 9, 10, 3, 10, 2⟩),
    (64, 0x10378280A82A0B2C, .ffma ⟨⟨false, 15⟩, 20, 21, 21, 22, 11, 0⟩),
    (64, 0x104780201006022C, .fmin ⟨⟨false, 15⟩, 1, 2, 3, 4, 11, 0⟩),
    (64, 0x105780201006022C, .fmax ⟨⟨false, 15⟩, 1, 2, 3, 4, 11, 0⟩),
    (64, 0x106780201000022C, .fabs ⟨⟨false, 15⟩, 1, 2, 0, 4, 11, 0⟩),
    (64, 0x1077802010000230, .fneg ⟨⟨false, 15⟩, 1, 2, 0, 4, 12, 0⟩),
    (64, 0x108780201000022D, .frcp ⟨⟨false, 15⟩, 1, 2, 0, 4, 11, 1⟩),
    (64, 0x109780201000022E, .frsq ⟨⟨false, 15⟩, 1, 2, 0, 4, 11, 2⟩),
    (64, 0x10A780201000022F, .fsqrt ⟨⟨false, 15⟩, 1, 2, 0, 4, 11, 3⟩),
    (64, 0x10B780201006022C, .fdiv ⟨⟨false, 15⟩, 1, 2, 3, 4, 11, 0⟩),
    (64, 0x10C780201000002C, .fexp2 ⟨⟨false, 15⟩, 1, 2, 0, 0, 11, 0⟩),
    (64, 0x10D780201000002C, .flog2 ⟨⟨false, 15⟩, 1, 2, 0, 0, 11, 0⟩),
    (64, 0x10E780201000002C, .fsinpi ⟨⟨false, 15⟩, 1, 2, 0, 0, 11, 0⟩),
    (64, 0x10F780201000002C, .fcospi ⟨⟨false, 15⟩, 1, 2, 0, 0, 11, 0⟩),
    (64, 0x110780201000002C, .fclass ⟨⟨false, 15⟩, 1, 2, 0, 0, 11, 0⟩),
    (64, 0x111780201000002E, .frnd ⟨⟨false, 15⟩, 1, 2, 0, 0, 11, 2⟩),
    (64, 0x112780201006002D, .fscale ⟨⟨false, 15⟩, 1, 2, 3, 0, 11, 1⟩),
    (64, 0x1137802010060228, .fdot2 ⟨⟨false, 15⟩, 1, 2, 3, 4, 10, 0⟩),
    (64, 0x114080401800002C, .freduce ⟨⟨false, 1⟩, 2, 3, 0, 0, 11, 0⟩)] = true := by decide +kernel

theorem test_decode_convert : decodes [
    (64, 0x20078500400006AD, .cvt ⟨⟨false, 15⟩, 0x28, 8, 0, 13, 11, 1⟩),
    (64, 0x201780201006172C, .cvts ⟨⟨false, 15⟩, 1, 2, 3, 0x2E, 11, 0⟩),
    (64, 0x20278040400006AC, .scalesel ⟨⟨false, 15⟩, 2, 8, 0, 13, 11, 0⟩),
    (64, 0x203780200001FC7C, .tag ⟨⟨false, 15⟩, 1, 0, 0, 0x3F8, 31, 0⟩),
    (64, 0x204780201000107C, .tagr ⟨⟨false, 15⟩, 1, 2, 0, 0x20, 31, 0⟩),
    (64, 0x205780201000008C, .pack ⟨⟨false, 15⟩, 1, 2, 0, 1, 3, 0⟩),
    (64, 0x20678020100002C4, .unpack ⟨⟨false, 15⟩, 1, 2, 0, 5, 17, 0⟩),
    (64, 0x2077880080000204, .bpsplit ⟨⟨false, 15⟩, 0x40, 16, 0, 4, 1, 0⟩),
    (64, 0x20878A0200000254, .bpjoin ⟨⟨false, 15⟩, 0x50, 0x40, 0, 4, 21, 0⟩)] = true := by decide +kernel

theorem test_decode_immediate : decodes [
    (64, 0x30078020040008E0, .movi ⟨⟨false, 15⟩, 1, 0, 0x8001, 3, true⟩),
    (128, 0x0123456789ABCDEF3007828000000210, .moviW ⟨⟨false, 15⟩, 20, 0, 0, 8, false⟩ 0x123456789ABCDEF),
    (64, 0x3017802017FFFFC0, .iaddi ⟨⟨false, 15⟩, 1, 2, 0xFFFF, 31, false⟩),
    (64, 0x302780201007F9E0, .andi ⟨⟨false, 15⟩, 1, 2, 0xFF, 7, true⟩),
    (64, 0x303780201091A1E0, .ori ⟨⟨false, 15⟩, 1, 2, 0x1234, 7, true⟩),
    (64, 0x30478020121909C0, .xori ⟨⟨false, 15⟩, 1, 2, 0x4321, 7, false⟩),
    (64, 0x30578060100020C0, .shli ⟨⟨false, 15⟩, 3, 2, 4, 3, false⟩),
    (64, 0x30678380D00107C0, .shri ⟨⟨false, 15⟩, 28, 26, 0x20, 31, false⟩),
    (64, 0x307780201001F8C0, .sari ⟨⟨false, 15⟩, 1, 2, 0x3F, 3, false⟩),
    (64, 0x30878020140000C0, .imuli ⟨⟨false, 15⟩, 1, 2, 0x8000, 3, false⟩),
    (64, 0x3097810037FE07C0, .lea ⟨⟨false, 15⟩, 8, 6, 0xFFC0, 31, false⟩)] = true := by decide +kernel

theorem test_decode_load : decodes [
    (64, 0x4007806030002028, .ld ⟨⟨false, 15⟩, 3, 6, 0x40, 2, 8⟩),
    (64, 0x4017806030000023, .lda ⟨⟨false, 15⟩, 3, 6, 0, 2, 3⟩),
    (64, 0x40278120A00401A0, .ldt ⟨⟨false, 15⟩, 9, 20, 0x803, 2, 0⟩),
    (64, 0x4037818030008038, .ldu ⟨⟨false, 15⟩, 12, 6, 0x100, 3, 8⟩),
    (64, 0x4047800030000047, .pref ⟨⟨false, 15⟩, 0, 6, 0, 4, 7⟩)] = true := by decide +kernel

theorem test_decode_store : decodes [
    (64, 0x5007806030002023, .st ⟨⟨false, 15⟩, 3, 6, 0x40, 2, 3⟩),
    (64, 0x5017806030000023, .stl ⟨⟨false, 15⟩, 3, 6, 0, 2, 3⟩),
    (64, 0x50278120A00401A0, .stt ⟨⟨false, 15⟩, 9, 20, 0x803, 2, 0⟩),
    (64, 0x503780A030000423, .atom ⟨⟨false, 15⟩, 5, 6, 8, 2, 3⟩),
    (64, 0x504780A031000422, .atomf ⟨⟨false, 15⟩, 5, 6, 0x20008, 2, 2⟩),
    (64, 0x5057814030000833, .cas ⟨⟨false, 15⟩, 10, 6, 16, 3, 3⟩),
    (64, 0x5067812030000021, .flush ⟨⟨false, 15⟩, 9, 6, 0, 2, 1⟩),
    (64, 0x5077815E57FFFFB2, .inv ⟨⟨false, 15⟩, 10, 0x3CA, 0xFFFFF, 3, 2⟩),
    (64, 0x5087812030000020, .zero ⟨⟨false, 15⟩, 9, 6, 0, 2, 0⟩)] = true := by decide +kernel

theorem test_decode_matrix : decodes [
    (64, 0x6007806140000000, .tdesc ⟨⟨false, 15⟩, 3, 0x28, 0, 0, 0⟩),
    (64, 0x6017800030100008, .tload ⟨⟨false, 15⟩, 0, 6, 8, 0, 8⟩),
    (64, 0x6027804030000000, .tstore ⟨⟨false, 15⟩, 2, 6, 0, 0, 0⟩),
    (64, 0x60378020A02A0B00, .tfromh ⟨⟨false, 15⟩, 1, 20, 21, 22, 0⟩),
    (64, 0x604781E008040180, .ttoh ⟨⟨false, 15⟩, 15, 1, 2, 3, 0⟩),
    (64, 0x605781E000000001, .tzero ⟨⟨false, 15⟩, 15, 0, 0, 0, 1⟩),
    (64, 0x6067800000020000, .mma ⟨⟨false, 15⟩, 0, 0, 1, 0, 0⟩),
    (64, 0x607780E000000001, .accz ⟨⟨false, 15⟩, 7, 0, 0, 0, 1⟩),
    (64, 0x6087800010061903, .drain ⟨⟨false, 15⟩, 0, 2, 3, 0x32, 3⟩),
    (64, 0x609780803800000C, .accget ⟨⟨false, 15⟩, 4, 7, 0, 0, 12⟩),
    (64, 0x60A780E028000002, .accput ⟨⟨false, 15⟩, 7, 5, 0, 0, 2⟩),
    (64, 0x60B7806060000000, .ttrans ⟨⟨false, 15⟩, 3, 12, 0, 0, 0⟩),
    (64, 0x60C7806050000002, .gset ⟨⟨false, 15⟩, 3, 10, 0, 0, 2⟩),
    (64, 0x60D7828018000000, .gget ⟨⟨false, 15⟩, 20, 3, 0, 0, 0⟩)] = true := by decide +kernel

theorem test_decode_control : decodes [
    (64, 0x7000FFFFFFB00000, .br ⟨⟨false, 1⟩, 0x7FFFFFB, 0, 0⟩),
    (192, 0xF80000009800003F100000070800001F7017800000300000, .brm ⟨⟨false, 15⟩, 3, 0, 0⟩ 0x100000070800001F 0xF80000009800003F),
    (64, 0x7027800001401405, .jtab ⟨⟨false, 15⟩, 20, 5, 5⟩),
    (64, 0x703780000000A000, .jind ⟨⟨false, 15⟩, 0, 0x28, 0⟩),
    (64, 0x704780000400A000, .call ⟨⟨false, 15⟩, 0x40, 0x28, 0⟩),
    (64, 0x705780000000A000, .ret ⟨⟨false, 15⟩, 0, 0x28, 0⟩),
    (64, 0x7067800000000000, .exit ⟨⟨false, 15⟩, 0, 0, 0⟩),
    (64, 0x7077800000000003, .bar ⟨⟨false, 15⟩, 0, 0, 3⟩),
    (64, 0x7087800000000000, .barc ⟨⟨false, 15⟩, 0, 0, 0⟩),
    (64, 0x7097800000000000, .yield ⟨⟨false, 15⟩, 0, 0, 0⟩),
    (64, 0x70A7FFFFFFC00000, .rejoin ⟨⟨false, 15⟩, 0x7FFFFFC, 0, 0⟩),
    (64, 0x70B7800000002400, .kill ⟨⟨false, 15⟩, 0, 9, 0⟩),
    (64, 0x70C7800000000000, .tfence ⟨⟨false, 15⟩, 0, 0, 0⟩),
    (64, 0x70D7800000002405, .trap ⟨⟨false, 15⟩, 0, 9, 5⟩),
    (64, 0x70E7800000000000, .nop ⟨⟨false, 15⟩, 0, 0, 0⟩),
    (64, 0x70F7800000002400, .fragq ⟨⟨false, 15⟩, 0, 9, 0⟩)] = true := by decide +kernel

theorem test_decode_predicate : decodes [
    (64, 0x8007890060278086, .icmp ⟨⟨false, 15⟩, 1, 2, 3, 4, 15, 0, 2, 3⟩),
    (64, 0x8017F7807E538198, .fcmp ⟨⟨false, 15⟩, 14, 15, 3, 0x3CA, 7, 0, 6, 12⟩),
    (64, 0x80279F80000090BE, .pand ⟨⟨false, 15⟩, 3, 15, 0, 0, 1, 2, 2, 31⟩),
    (64, 0x80379F800000907E, .por ⟨⟨false, 15⟩, 3, 15, 0, 0, 1, 2, 1, 31⟩),
    (64, 0x80479F800007F0FE, .pxor ⟨⟨false, 15⟩, 3, 15, 0, 0, 15, 14, 3, 31⟩),
    (64, 0x80579F800000803E, .pnot ⟨⟨false, 15⟩, 3, 15, 0, 0, 1, 0, 0, 31⟩),
    (64, 0x8067CF800004003E, .pmov ⟨⟨false, 15⟩, 9, 15, 0, 0, 8, 0, 0, 31⟩),
    (64, 0x8077A7800001807E, .pany ⟨⟨false, 15⟩, 4, 15, 0, 0, 3, 0, 1, 31⟩),
    (64, 0x80878F81200000BE, .pset ⟨⟨false, 15⟩, 1, 15, 9, 0, 0, 0, 2, 31⟩)] = true := by decide +kernel

theorem test_decode_engine : decodes [
    (64, 0x900780C050000000, .cput ⟨⟨false, 15⟩, 6, 10, 0, 0, 0⟩),
    (64, 0x9014014000000000, .ctail ⟨⟨false, 8⟩, 10, 0, 0, 0, 0⟩),
    (64, 0x9017810000000104, .ctailOpen ⟨⟨false, 15⟩, 8, 0, 0, 2, 4⟩),
    (64, 0x9027808000000280, .semadd ⟨⟨false, 15⟩, 4, 0, 0, 5, 0⟩),
    (64, 0x903780C000000282, .semwait ⟨⟨false, 15⟩, 6, 0, 0, 5, 2⟩),
    (64, 0x904780E000000280, .semread ⟨⟨false, 15⟩, 7, 0, 0, 5, 0⟩),
    (64, 0x905780C048000003, .publish ⟨⟨false, 15⟩, 6, 9, 0, 0, 3⟩),
    (64, 0x906780C000000002, .enq ⟨⟨false, 15⟩, 6, 0, 0, 0, 2⟩),
    (64, 0x907780C04F940000, .svc ⟨⟨false, 15⟩, 6, 9, 0x3CA, 0, 0⟩),
    (64, 0x908780C03F940000, .mwait ⟨⟨false, 15⟩, 6, 7, 0x3CA, 0, 0⟩),
    (64, 0x9097812000000000, .collabort ⟨⟨false, 15⟩, 9, 0, 0, 0, 0⟩),
    (64, 0x90A78280A800008E, .talloc ⟨⟨false, 15⟩, 20, 21, 0, 1, 14⟩),
    (64, 0x90B7828000000000, .tfree ⟨⟨false, 15⟩, 20, 0, 0, 0, 0⟩),
    (64, 0x90C780000000001B, .fence ⟨⟨false, 15⟩, 0, 0, 0, 0, 27⟩)] = true := by decide +kernel

theorem test_decode_csr : decodes [
    (64, 0xA00780C000080000, .csrr ⟨⟨false, 15⟩, 6, 0, 16, 0⟩),
    (64, 0xA0178000F0018000, .csrw ⟨⟨false, 15⟩, 0, 30, 3, 0⟩),
    (64, 0xA027800010000000, .csrs ⟨⟨false, 15⟩, 0, 2, 0, 0⟩),
    (64, 0xA037801E58010000, .csrc ⟨⟨false, 15⟩, 0, 0x3CB, 2, 0⟩),
    (64, 0xA047828000000001, .clock ⟨⟨false, 15⟩, 20, 0, 0, 1⟩),
    (64, 0xA057800010000005, .errq ⟨⟨false, 15⟩, 0, 2, 0, 5⟩)] = true := by decide +kernel

theorem test_decode_regspace : decodes [
    (64, 0xB00780E01800007C, .mov ⟨⟨false, 15⟩, 7, 3, 0, 0, 31, 0⟩),
    (64, 0xB0178100280000FC, .rget ⟨⟨false, 15⟩, 8, 5, 0, 1, 31, 0⟩),
    (64, 0xB0278000180A007C, .rput ⟨⟨false, 15⟩, 0, 3, 5, 0, 31, 0⟩),
    (64, 0xB037FC405018007C, .sbind ⟨⟨false, 15⟩, 0x3E2, 10, 12, 0, 31, 0⟩),
    (64, 0xB047811F1800017C, .sstat ⟨⟨false, 15⟩, 8, 0x3E3, 0, 2, 31, 0⟩)] = true := by decide +kernel

-- Small states.

/-- A slot's value in all 32 lanes of a line. -/
def splat (v : Nat) : BitVec 1024 := BitVec.ofNat 1024 (v * ((2 ^ 1024 - 1) / (2 ^ 32 - 1)))

/-- Lines by number, tag and value. -/
def tLines (l : List (Nat × Nat × Nat)) : Table Line := l.map (fun e => (e.1, ⟨splat e.2.2, BitVec.ofNat 5 e.2.1⟩))

/-- The group that `withFetchWord` places, with these lines. -/
def tGroup (l : List (Nat × Nat × Nat)) : Group := { placeGroup with win := tLines l }

/-- The team that `withFetchWord` places, with semaphores 0 to 7 and two tile-table entries. -/
def tTeam : Team := { placeTeam with semCnt := 8, handles := [0, 1] }

/-- A device in which fragment 0 of the group in slot 0 of core 0 issues. -/
def tState (g : Group) (f : Fragment) : State :=
  { State.reset.placed 0 with script := [], cur := some ⟨0, 0, 0⟩, groups := [(0, g)], frags := [(0, f)], teams := [(0, tTeam)] }

def tWho (g : Group) (f : Fragment) : Who := ⟨0, 0, 0, g, f, tTeam⟩

/-- It issues. -/
theorem tIssues {s : State} {w : Who} (h : s.who? = some w ∧ w.f.slot = w.slot ∧ w.f.entered = true ∧ w.f.mask ≠ 0) : Issues s w where
  who := h.1
  slot := h.2.1
  entered := h.2.2.1
  lanes := h.2.2.2

/-- A vector instruction may issue. -/
def vecOk (s : State) (w : Who) (gd : Guard) (etag : Nat) (accept : Nat → Bool) (uses : List Use) (d : BitVec 10) (n : Nat) (resTag : Nat → Nat) :
    Bool :=
  decide (s.who? = some w ∧ w.f.slot = w.slot ∧ w.f.entered = true ∧ w.f.mask ≠ 0) &&
    match w.vecCheck (w.act gd) etag accept uses d resTag with
    | .ok fm => fm.t.isSome && !w.vecBeyond fm uses d (resTag fm.tag) && uses.all (fun u => !Fld.isPort u.field) && operandOf d == .v n
    | .error _ => false

theorem vecOk_ready {s : State} {w : Who} {gd : Guard} {etag : Nat} {accept : Nat → Bool} {uses : List Use} {d : BitVec 10} {n : Nat}
    {resTag : Nat → Nat} (h : vecOk s w gd etag accept uses d n resTag = true) : ∃ fm, VecReady s w gd etag accept uses d n resTag fm := by
  unfold vecOk at h
  cases hc : w.vecCheck (w.act gd) etag accept uses d resTag with
  | error c => rw [hc] at h; simp at h
  | ok fm =>
    rw [hc] at h
    simp only [Bool.and_eq_true, decide_eq_true_eq, beq_iff_eq, Bool.not_eq_true', List.all_eq_true] at h
    have pass := h.2
    exact ⟨fm, {
      issues := tIssues h.1, checks := hc, given := pass.1.1.1, inside := pass.1.1.2, regs := pass.1.2, dest := pass.2 }⟩

def okPlan (e : Except Nat Plan) : Bool := match e with | .ok _ => true | .error _ => false

/-- An instruction's checks pass. -/
def planOk (s : State) (w : Who) (gd : Guard) (n : Nat) (e : Except Nat Plan) : Bool :=
  decide (s.who? = some w ∧ w.f.slot = w.slot ∧ w.f.entered = true ∧ w.f.mask ≠ 0) &&
    match e with
    | .ok p => decide (p.failing (w.act gd) = [] ∧ p.late = none ∧ p.holds s w (w.act gd) = false
        ∧ p.flow.extra w.f n (w.act gd) (w.f.mask &&& ~~~(w.act gd)) ≤ (s.pool w.core).length ∧ w.t.twin = none ∧ w.g.fence = none)
    | .error _ => false

theorem planOk_passes {s : State} {w : Who} {gd : Guard} {n : Nat} {e : Except Nat Plan} (h : planOk s w gd n e = true) :
    Issues s w ∧ ∃ p, e = .ok p ∧ Passes s w gd n p := by
  unfold planOk at h
  cases e with
  | error c => simp at h
  | ok p =>
    simp only [Bool.and_eq_true, decide_eq_true_eq] at h
    obtain ⟨lanes, late, free, pool, alone, unfenced⟩ := h.2
    exact ⟨tIssues h.1, p, rfl, { lanes, late, free, pool, twin := .inl alone, fence := .inl unfenced }⟩

/-- The checks of an instruction over lines pass. -/
def linesOk (w : Who) (o : LinesOp) : Bool :=
  !o.bad && !o.wrong
    && o.srcs.all (fun b => (match w.checkBlock b with | .ok _ => true | .error _ => false) && !w.beyondField b.x b.lines
      && !w.oddLines b)
    && !w.beyond o.d o.lines

theorem linesOk_ready {w : Who} {o : LinesOp} (h : linesOk w o = true) : LinesReady w o := by
  simp only [linesOk, Bool.and_eq_true, Bool.not_eq_eq_eq_not, Bool.not_true, List.all_eq_true] at h
  refine ⟨h.1.1.1, fun b hb => (h.1.2 b hb).2, h.1.1.2, fun b hb => ?_, fun b hb => (h.1.2 b hb).1.2, h.2⟩
  have := (h.1.2 b hb).1.1
  split at this
  · assumption
  · cases this

-- Witnesses: vector instructions.

def gV : Group := tGroup [(1, 3, 7), (2, 3, 5), (3, 3, 1), (4, 11, 0x3F800000), (5, 11, 0x40000000), (6, 3, 2), (7, 10, 0x3F803F80), (8, 8, 4), (9, 8, 0),
  (10, 1, 0x01020304), (11, 5, 0x01010101)]
def sV : State := tState gV placeFragment
def wV : Who := tWho gV placeFragment

theorem witness_integer :
    (∃ fm, VecReady sV wV gp 3 Tg.int [.fmt 1, .fmt 2] 959 959 id fm) ∧ (∃ fm, VecReady sV wV ⟨true, 3⟩ 31 Tg.int [.fmt 1] 0 0 id fm)
    ∧ (∃ fm, VecReady sV wV gp 3 Tg.int [.fmt 1, .fmt 2, .fmt 3] 3 3 id fm) ∧ (∃ fm, VecReady sV wV gp 8 Tg.int [.fmt 8, .fmt 0x3CB] 12 12 id fm) :=
  ⟨vecOk_ready (by decide +kernel), vecOk_ready (by decide +kernel), vecOk_ready (by decide +kernel), vecOk_ready (by decide +kernel)⟩

theorem witness_bits :
    (∃ fm, VecReady sV wV gp 31 Tg.bits [.fmt 1, .fmt 2] 3 3 id fm) ∧ (∃ fm, VecReady sV wV gp 31 Tg.shift [.fmt 1, .fmt 2] 3 3 id fm)
    ∧ (∃ fm, VecReady sV wV gp 0 Tg.bits [.fmt 20] 3 3 id fm) ∧ (∃ fm, VecReady sV wV gp 0 Tg.bits [.fmt 20] 3 3 countTag fm) :=
  ⟨vecOk_ready (by decide +kernel), vecOk_ready (by decide +kernel), vecOk_ready (by decide +kernel), vecOk_ready (by decide +kernel)⟩

theorem witness_fields :
    (∃ fm, VecReady sV wV gp 3 Tg.shift [.fmt 1, .line 2 Tg.word] 3 3 id fm)
    ∧ (∃ fm, VecReady sV wV gp 3 Tg.shift [.fmt 1, .line 2 Tg.word, .fmt 3] 3 3 id fm)
    ∧ (let f : FmtV := ⟨gp, 12, 10, 11, 1, 31, 0⟩
      ∃ fm, VecReady sV wV gp 31 Tg.any (dot4Op f wV).uses 12 12 (dot4Op f wV).resTag fm) :=
  ⟨vecOk_ready (by decide +kernel), vecOk_ready (by decide +kernel), vecOk_ready (by decide +kernel)⟩

theorem witness_crosslane :
    (∃ fm, VecReady sV wV gp 31 Tg.any [.fmt 0x3C0] 12 12 id fm) ∧ (∃ fm, VecReady sV wV gp 31 Tg.any [.fmt 4, .fmt 5] 12 12 id fm)
    ∧ (∃ fm, VecReady sV wV gp 31 Tg.any [.fmt 8, .line 1 Tg.word] 12 12 id fm)
    ∧ (∃ fm, VecReady sV wV gp 31 Tg.int [.fmt 1] 12 12 id fm) ∧ (∃ fm, VecReady sV wV gp 31 Tg.bits [.fmt 20] 12 12 id fm) :=
  ⟨vecOk_ready (by decide +kernel), vecOk_ready (by decide +kernel), vecOk_ready (by decide +kernel), vecOk_ready (by decide +kernel),
    vecOk_ready (by decide +kernel)⟩

theorem witness_float :
    (∃ fm, VecReady sV wV gp 11 Tg.flt [.fmt 4, .fmt 5] 12 12 id fm) ∧ (∃ fm, VecReady sV wV gp 31 Tg.flt [.fmt 4] 12 12 id fm)
    ∧ (∃ fm, VecReady sV wV gp 31 Tg.flt [.fmt 4, .fmt 5, .fmt 0x3CB] 12 12 id fm) ∧ (∃ fm, VecReady sV wV gp 31 Tg.flt [.fmt 4] 12 12 classTag fm)
    ∧ (∃ fm, VecReady sV wV gp 31 Tg.flt [.fmt 4, .line 1 (· == Tg.i32)] 12 12 id fm)
    ∧ (∃ fm, VecReady sV wV gp 31 (fun t => t == Tg.f16 || t == Tg.bf16) [.fmt 7, .fmt 7, .line 4 (· == Tg.f32)] 12 12 (fun _ => Tg.f32) fm) :=
  ⟨vecOk_ready (by decide +kernel), vecOk_ready (by decide +kernel), vecOk_ready (by decide +kernel), vecOk_ready (by decide +kernel),
    vecOk_ready (by decide +kernel), vecOk_ready (by decide +kernel)⟩

theorem witness_immediate :
    (∃ fm, VecReady sV wV gp 3 Tg.any [] 12 12 id fm) ∧ (∃ fm, VecReady sV wV gp 8 Tg.any [] 12 12 id fm)
    ∧ (∃ fm, VecReady sV wV gp 3 Tg.int [.fmt 1] 12 12 id fm) ∧ (∃ fm, VecReady sV wV gp 3 Tg.bits [.fmt 1] 12 12 id fm)
    ∧ (∃ fm, VecReady sV wV gp 8 Tg.shift [.fmt 8] 12 12 id fm)
    ∧ (∃ fm, VecReady sV wV gp Tg.n64 Tg.any [.pair 8 (fun t => Tg.dword t && ((31 : BitVec 5) == 31 || t == 31))] 12 12 (fun _ => Tg.n64) fm) :=
  ⟨vecOk_ready (by decide +kernel), vecOk_ready (by decide +kernel), vecOk_ready (by decide +kernel), vecOk_ready (by decide +kernel),
    vecOk_ready (by decide +kernel), vecOk_ready (by decide +kernel)⟩

-- Witnesses: stream ports, conversions, lines, indexed registers.

/-- A page that core 0 holds with every bit that loads and stores need, at 0x20000 of memory; the address is the page's own. -/
def tTlb : TlbEntry := ⟨1, 0, 0, 0x20000, 4096, 0, BitVec.ofNat 64 (1 + 2 + 4 + 8 + 32 + 0x20000 + 2 ^ 52 + 2 ^ 53)⟩

/-- The device with that page, whose frames core 0 owns in its L1. -/
def tPaged (g : Group) (f : Fragment) : State := { tState g f with
  tlb := [tTlb, placeTlb], bolts := (List.range 16).map (fun i => ⟨0, 0x200 + i, 0, 16, true, 0, 0, 0, 0, none⟩) }

/-- A lane's stream of 16 words from 0x20000. -/
def tBind (write : Bool) (l : Nat) : Binding := ⟨BitVec.ofNat 64 (0x20000 + 64 * l), write, 3, 16, 1, 1, 4, 0, 0, 0, 0, 0, false⟩

def gS : Group := { gV with
  streams := (List.range 32).map (fun l => (l, tBind false l)) ++ (List.range 32).map (fun l => (32 + l, tBind true l)) }
def sS : State := tPaged gS placeFragment
def wS : Who := tWho gS placeFragment

/-- What the first clause of the statement about stream ports asks of an instruction. -/
def StreamReady (s : State) (w : Who) (iw : Nat) (op : VecOp) : Prop :=
  Issues s w ∧ ∃ fm p, w.vecCheck (w.act op.g) op.etag op.accept op.uses op.d op.resTag = .ok fm ∧ vecPlan s op w = .ok p ∧ Passes s w op.g iw p
    ∧ (s.loadPorts w (w.act op.g) (portsOf (op.uses.map Use.field))).2.2 = []
    ∧ (((op.eval (op.input s w fm (s.loadPorts w (w.act op.g) (portsOf (op.uses.map Use.field))).2.1 (w.act op.g))).map (gaugeLane
        (if op.gauge = 0 then none else some (s.gauge w.core op.gauge)) (op.resTag fm.tag))).map (fun y => y.1.lane)).Nodup

def streamOk (s : State) (w : Who) (iw : Nat) (op : VecOp) : Bool :=
  planOk s w op.g iw (vecPlan s op w) && (s.loadPorts w (w.act op.g) (portsOf (op.uses.map Use.field))).2.2 == [] &&
    match w.vecCheck (w.act op.g) op.etag op.accept op.uses op.d op.resTag with
    | .ok fm => decide ((((op.eval (op.input s w fm (s.loadPorts w (w.act op.g) (portsOf (op.uses.map Use.field))).2.1 (w.act op.g))).map (gaugeLane
        (if op.gauge = 0 then none else some (s.gauge w.core op.gauge)) (op.resTag fm.tag))).map (fun y => y.1.lane)).Nodup)
    | .error _ => false

theorem streamOk_ready {s : State} {w : Who} {iw : Nat} {op : VecOp} (h : streamOk s w iw op = true) : StreamReady s w iw op := by
  unfold streamOk at h
  cases hc : w.vecCheck (w.act op.g) op.etag op.accept op.uses op.d op.resTag with
  | error c => rw [hc] at h; simp at h
  | ok fm =>
    rw [hc] at h
    simp only [Bool.and_eq_true, beq_iff_eq, decide_eq_true_eq] at h
    obtain ⟨⟨h1, h2⟩, h3⟩ := h
    obtain ⟨hi, p, hp, hq⟩ := planOk_passes h1
    exact ⟨hi, fm, p, hc, hp, hq, h2, h3⟩

-- From a read port to a register, and from a register and a read port to a write port; the instructions are vector instructions by definition.
theorem witness_streams :
    (∀ f : FmtV, exec (.iadd f) sS = sS.issueVec (.iadd f) 1 (arith2 f (fun a b => a + b)))
    ∧ StreamReady sS wS 1 (arith2 ⟨gp, 3, 0x3E0, 2, 0, 3, 0⟩ (fun a b => a + b))
    ∧ StreamReady sS wS 1 (arith2 ⟨gp, 0x3E1, 1, 0x3E0, 0, 3, 0⟩ (fun a b => a + b)) :=
  ⟨fun _ => rfl, streamOk_ready (by decide +kernel), streamOk_ready (by decide +kernel)⟩

-- MOV to a write port.
theorem witness_stream_mov :
    let f : FmtV := ⟨gp, 0x3E1, 1, 0, 0, 31, 0⟩
    (Issues sS wS ∧ ∃ p, vecPlan sS (movOp f) wS = .ok p ∧ Passes sS wS gp 1 p)
    ∧ wS.vecCheck (wS.act gp) 31 Tg.any [.fmt f.a] f.d id = .ok ⟨some 3, false⟩ ∧ operandOf f.a = .v 1 ∧ operandOf f.d = .port 1
    ∧ (∀ l, (wS.act gp).getLsbD l = true → wS.g.binding 1 l = some (tBind true l))
    ∧ ∀ l, (wS.act gp).getLsbD l = true → PagesReady sS wS (tBind true l).addr (tBind true l).size := by
  refine ⟨planOk_passes (by decide +kernel), by rfl, by decide, by decide, ?_, ?_⟩
  · have h : ∀ l < 32, wS.g.binding 1 l = some (tBind true l) := by decide +kernel
    exact fun l hl => h l (BitVec.lt_of_getLsbD hl)
  · have h : ∀ l < 32, ∀ p ∈ pageParts (tBind true l).addr (tBind true l).size, sS.tlbReady 0 0 p.1 true = true := by decide +kernel
    exact fun l hl => h l (BitVec.lt_of_getLsbD hl)

theorem witness_conversions :
    Issues sV wV
    ∧ (cvtCheck ⟨gp, 12, 1, 0, 11, 3, 1⟩ wV = .ok 3 ∧ operandOf 12 = .v 12 ∧ wV.beyondField 1 (cvtUnits 3 (cvtElems 3 11) * Tg.unitLines 3) = false
      ∧ wV.beyondField 12 (cvtUnits 11 (cvtElems 3 11) * Tg.unitLines 11) = false)
    -- from a read port to a register, and from registers to a write port
    ∧ (let f : FmtV := ⟨gp, 12, 0x3E0, 0, 11, 3, 1⟩
      (Issues sS wS ∧ ∃ p, cvtPlan sS f wS = .ok p ∧ Passes sS wS gp 1 p) ∧ cvtCheck f wS = .ok 3
        ∧ (sS.loadPorts wS (wS.act gp) (portsOf [f.a])).2.2 = [] ∧ operandOf f.a = .port 0 ∧ operandOf f.d = .v 12)
    ∧ (let f : FmtV := ⟨gp, 0x3E1, 4, 0, 3, 11, 0⟩
      (Issues sS wS ∧ ∃ p, cvtPlan sS f wS = .ok p ∧ Passes sS wS gp 1 p) ∧ cvtCheck f wS = .ok 11
        ∧ (sS.loadPorts wS (wS.act gp) (portsOf [f.a])).2.2 = [] ∧ operandOf f.d = .port 1 ∧ Fld.isPort f.a = false
        ∧ ∀ l, (wS.act gp).getLsbD l = true → wS.g.binding 1 l = some (tBind true l) ∧ PagesReady sS wS (tBind true l).addr (tBind true l).size)
    ∧ LinesReady (tWho (tGroup ((List.range 32).map (fun n => (n, 11, 0x3F800000)) ++ [(40, 3, 2)])) placeFragment)
        (cvtsOp sV ⟨gp, 48, 0, 40, 13, 31, 1⟩ (tWho (tGroup ((List.range 32).map (fun n => (n, 11, 0x3F800000)) ++ [(40, 3, 2)])) placeFragment))
    ∧ LinesReady (tWho (tGroup ((List.range 32).map (fun n => (n, 11, 0x3F800000)))) placeFragment)
        (scaleselOp sV ⟨gp, 48, 0, 0, 13, 31, 0⟩ (tWho (tGroup ((List.range 32).map (fun n => (n, 11, 0x3F800000)))) placeFragment)) :=
  ⟨tIssues (by decide +kernel), ⟨by rfl, by decide, by decide +kernel, by decide +kernel⟩,
    ⟨planOk_passes (by decide +kernel), by rfl, by decide +kernel, by decide, by decide⟩,
    ⟨planOk_passes (by decide +kernel), by rfl, by decide +kernel, by decide, by decide, fun l hl => ⟨witness_stream_mov.2.2.2.2.1 l hl, witness_stream_mov.2.2.2.2.2 l hl⟩⟩,
    linesOk_ready (by decide +kernel), linesOk_ready (by decide +kernel)⟩

theorem witness_lines :
    wV.beyond 928 (0x3E3 / 32 + 1) = false
    ∧ (LinesReady wV (tagrOp ⟨gp, 20, 928, 0, 32, 31, 0⟩ wV) ∧ wV.beyond 928 32 = false)
    ∧ LinesReady (tWho (tGroup [(0, 3, 1), (1, 3, 1), (2, 3, 1), (3, 3, 1)]) placeFragment)
        (packOp sV ⟨gp, 20, 0, 0, 0, 3, 0⟩ (tWho (tGroup [(0, 3, 1), (1, 3, 1), (2, 3, 1), (3, 3, 1)]) placeFragment))
    ∧ LinesReady wV (unpackOp sV ⟨gp, 956, 10, 0, 4, 1, 0⟩ wV)
    ∧ LinesReady (tWho (tGroup ((List.range 8).map (fun n => (n, 1, 0x40)))) placeFragment)
        (bpsplitOp ⟨gp, 20, 0, 0, 8, 31, 0⟩ (tWho (tGroup ((List.range 8).map (fun n => (n, 1, 0x40)))) placeFragment))
    ∧ (let w := tWho (tGroup ((List.range 8).map (fun n => (n, 21, 0x40)))) placeFragment
      let f : FmtV := ⟨gp, 20, 0, 0, 0, 31, 0⟩
      LinesReady w (bpjoinOp f w) ∧ w.planesRead f ≤ 8) :=
  ⟨by decide +kernel, ⟨linesOk_ready (by decide +kernel), by decide +kernel⟩, linesOk_ready (by decide +kernel), linesOk_ready (by decide +kernel),
    linesOk_ready (by decide +kernel), linesOk_ready (by decide +kernel), by decide +kernel⟩

theorem witness_indexed :
    (Issues sV wV ∧ ∃ p, rgetPlan sV ⟨gp, 12, 1, 0, 0, 31, 0⟩ wV = .ok p ∧ Passes sV wV gp 1 p)
    ∧ (Issues sV wV ∧ ∃ p, rgetPlan sV ⟨gp, 12, 6, 0, 1, 8, 0⟩ wV = .ok p ∧ Passes sV wV gp 1 p)
    ∧ (Issues sV wV ∧ ∃ p, rputPlan sV ⟨gp, 0, 0x3CB, 6, 1, 31, 0⟩ wV = .ok p ∧ Passes sV wV gp 1 p)
    ∧ Fld.isPort 1 = false ∧ operandOf 12 = .v 12 :=
  ⟨planOk_passes (by decide +kernel), planOk_passes (by decide +kernel), planOk_passes (by decide +kernel), by decide, by decide⟩

/-- Line 20 holds a stream descriptor of R87: words of tag I32 to read, 4 by 3 by 2 of them. -/
def gD : Group := { gV with win := gV.win ++ [(20, ⟨BitVec.ofNat 1024 (3 + 4 * 2 ^ 32 + 3 * 2 ^ 64 + 2 * 2 ^ 96 + 4 * 2 ^ 128), 3⟩)] }

theorem witness_binding :
    (Issues (tState gD placeFragment) (tWho gD placeFragment) ∧ ∃ p, sbindPlan (tState gD placeFragment) ⟨gp, 0x3E2, 8, 20, 0, 31, 0⟩ (tWho gD placeFragment) = .ok p
      ∧ Passes (tState gD placeFragment) (tWho gD placeFragment) gp 1 p)
    ∧ (Issues sV wV ∧ ∃ p, sbindPlan sV ⟨gp, 0x3E0, 0x3CA, 0x3CA, 0, 31, 0⟩ wV = .ok p ∧ Passes sV wV gp 1 p)
    ∧ wellFormed (.sbind ⟨gp, 0x3E0, 0x3CA, 0x3CA, 0, 31, 0⟩) = true
    ∧ (operandOf 958 = .v 958 ∧ wV.beyond 958 2 = false)
    ∧ (let b : Binding := ⟨0, false, 3, 4, 3, 2, 4, 0, 0, 0, 0, 0, false⟩
      b.i0 = 0 ∧ b.i1 = 0 ∧ b.i2 = 0 ∧ b.ended = false ∧ 0 < b.n0 ∧ 0 < b.n1 ∧ 0 < b.n2 ∧ 23 < b.n0 * b.n1 * b.n2 ∧ 24 = b.n0 * b.n1 * b.n2) :=
  ⟨planOk_passes (by decide +kernel), planOk_passes (by decide +kernel), by decide, ⟨by decide, by decide +kernel⟩, by decide⟩

-- Witnesses: predicates and control registers.

theorem witness_compare :
    Issues sV wV ∧ wV.vecCheck (wV.act gp) 3 Tg.icmp [.fmt 1, .fmt 2] 0 (fun _ => 0) = .ok ⟨some 3, false⟩
    ∧ wV.vecCheck (wV.act gp) 31 (fun t => t == Tg.f32 || t == Tg.f64) [.fmt 4, .fmt 0x3CA] 0 (fun _ => 0) = .ok ⟨some 11, false⟩
    ∧ wV.beyondField 1 1 = false ∧ wV.beyondField 0x3CA 1 = false :=
  ⟨tIssues (by decide +kernel), by rfl, by rfl, by decide +kernel, by decide +kernel⟩

theorem witness_pset_mask :
    Mask.leader (wV.act gp) = some 0 ∧ wV.checkSrc (wV.act gp) 1 1 (fun t => Tg.maskLine t && ((31 : BitVec 5) == 31 || t == 31)) = .ok ()
    ∧ wV.beyondField 1 1 = false := ⟨by decide +kernel, by rfl, by decide +kernel⟩

/-- The context has an error ring of four slots at 0x20000, with three records and one of them acknowledged. -/
def tRing : Ring := ⟨0x20000, 0x20000, 2, 3, 1, 0, false⟩
def sR : State := { sV with ctxs := Table.put sV.ctxs 0 { sV.ctx 0 with ring := some tRing } }

theorem witness_csr_reads :
    Issues sR wV ∧ operandOf 958 = .v 958 ∧ wV.beyond 958 2 = false ∧ (sR.ctx wV.ctx).ring = some tRing
    ∧ (Issues sR wV ∧ ∃ p, errqPlan sR ⟨gp, 0, 8, 0, 5⟩ wV = .ok p ∧ Passes sR wV gp 1 p) ∧ Mask.leader (wV.act gp) = some 0 ∧ wV.g.fence = none
    -- a FENCE.rel that has not performed
    ∧ (let g : Group := { gV with fence := some 2, horizon := 7 }
      Issues (tState g placeFragment) (tWho g placeFragment) ∧ g.fence = some 2 ∧ (tState g placeFragment).relReady g 2 = false
        ∧ (tWho g placeFragment).act gp ≠ 0) :=
  ⟨tIssues (by decide +kernel), by decide, by decide +kernel, by rfl, planOk_passes (by decide +kernel), by decide +kernel, by rfl,
    tIssues (by decide +kernel), by rfl, by decide +kernel, by decide +kernel⟩

-- A 32-bit source for `gs.mode`, `gs.flags`, `gs.status` and `gs.uft`, a pair for `gs.mend`.
theorem witness_csr_writes :
    Issues sV wV ∧ Mask.leader (wV.act gp) = some 0
    ∧ (wV.checkSrc (wV.act gp) 1 1 Tg.word = .ok () ∧ wV.beyondField 1 1 = false)
    ∧ (wV.checkSrc (wV.act gp) 8 2 Tg.dword = .ok () ∧ wV.beyondField 8 2 = false)
    ∧ wV.checkEither 1 = .ok () :=
  ⟨tIssues (by decide +kernel), by decide +kernel, ⟨by rfl, by decide +kernel⟩, ⟨by rfl, by decide +kernel⟩, by rfl⟩

-- Witnesses: control.

/-- Word 0 of the block is 0x10000, the address of the block's header; lines 30 and 31 hold that address. -/
def gC : Group := tGroup [(1, 3, 7), (30, 0, 0x10000), (31, 0, 0)]
def sC : State := { State.reset.placed 0x10000 with
  script := [], cur := some ⟨0, 0, 0⟩, groups := [(0, gC)], frags := [(0, placeFragment)], teams := [(0, tTeam)] }
def wC : Who := tWho gC placeFragment

/-- Every active lane's target passes, and the pool has room. -/
def jumpOk (s : State) (w : Who) (g : Guard) (tgt : Nat → Nat) : Bool :=
  (List.range 32).all (fun l => !(w.act g).getLsbD l || s.checkTarget w.core w.ctx (tgt l) == none)
    && decide ((destsOf ((Mask.lanes (w.act g)).map (fun l => (l, tgt l))) (w.act g) (w.others g) (w.f.next 1)).length ≤ (s.pool w.core).length + 1)

theorem jumpOk_ready {s : State} {w : Who} {g : Guard} {tgt : Nat → Nat} (h : jumpOk s w g tgt = true) :
    (∀ l, (w.act g).getLsbD l = true → s.checkTarget w.core w.ctx (tgt l) = none)
    ∧ (destsOf ((Mask.lanes (w.act g)).map (fun l => (l, tgt l))) (w.act g) (w.others g) (w.f.next 1)).length ≤ (s.pool w.core).length + 1 := by
  simp only [jumpOk, Bool.and_eq_true, List.all_eq_true, List.mem_range, Bool.or_eq_true, Bool.not_eq_true', beq_iff_eq, decide_eq_true_eq] at h
  refine ⟨fun l hl => ?_, h.2⟩
  rcases h.1 l (BitVec.lt_of_getLsbD hl) with h | h
  · rw [hl] at h; cases h
  · exact h

theorem witness_branches :
    Issues sC wC
    -- BR and CALL back to the block's own header
    ∧ ((∀ l, (wC.act gp).getLsbD l = true → sC.checkTarget 0 0 (wC.target (offC (-1))) = none)
      ∧ (destsOf ((Mask.lanes (wC.act gp)).map (fun l => (l, wC.target (offC (-1))))) (wC.act gp) (wC.others gp) (wC.f.next 1)).length ≤ (sC.pool 0).length + 1)
    ∧ (operandOf 30 = .v 30 ∧ wC.beyond 30 2 = false)
    -- BRM, by no pair and by pair 1
    ∧ (∀ l, (wC.act gp).getLsbD l = true → sC.checkTarget 0 0 (wC.target (brmOffset wC.g (offC (-1)) l [0, 0, 0, 0])) = none)
    ∧ (∀ l, (wC.act gp).getLsbD l = true → sC.checkTarget 0 0 (wC.target (brmOffset wC.g (offC 0) l [0, 0x7FFFFFFF, 0, 0])) = none)
    -- JTAB through the table at the block's word 0
    ∧ ((wC.checkSrc (wC.act gp) 31 1 Tg.word = .ok () ∧ wC.beyondField 31 1 = false)
      ∧ (0 ≤ jtabIndex sC ⟨gp, 0, 31, 1⟩ wC 0 ∧ jtabIndex sC ⟨gp, 0, 31, 1⟩ wC 0 < 1) ∧ sC.fetchFail 0 0 0x10008 = none
      ∧ sC.checkTarget 0 0 (sC.fetchWord 0 0 0x10008).toNat = none)
    -- JIND and RET
    ∧ (wC.checkSrc (wC.act gp) 30 2 Tg.dword = .ok () ∧ wC.beyondField 30 2 = false)
    ∧ (∀ l, (wC.act gp).getLsbD l = true → sC.checkTarget 0 0 (wC.dword sC 30 l) = none)
    -- BR to a word that is no header
    ∧ (wC.t.twin = none ∧ wC.act gp = wC.f.mask ∧ (∃ e, sC.checkTarget 0 0 (wC.target (offC 1)) = some e ∧ e.cause < 0x080) ∧ wC.g.mendReg = 0
      ∧ sC.pool 0 = 16 :: (List.range 47).map (· + 17)) := by
  refine ⟨tIssues (by decide +kernel), jumpOk_ready (tgt := fun _ => wC.target (offC (-1))) (by decide +kernel), ⟨by decide, by decide +kernel⟩,
    (jumpOk_ready (tgt := fun l => wC.target (brmOffset wC.g (offC (-1)) l [0, 0, 0, 0])) (by decide +kernel)).1,
    (jumpOk_ready (tgt := fun l => wC.target (brmOffset wC.g (offC 0) l [0, 0x7FFFFFFF, 0, 0])) (by decide +kernel)).1,
    ⟨⟨by rfl, by decide +kernel⟩, by decide +kernel, by decide +kernel, by decide +kernel⟩, ⟨by rfl, by decide +kernel⟩,
    (jumpOk_ready (tgt := fun l => wC.dword sC 30 l) (by decide +kernel)).1, by rfl, by decide +kernel, ?_, by decide +kernel, by decide +kernel⟩
  exact ⟨⟨Cause.badTarget, 0x10010, false, false, [], none, false⟩, by decide +kernel, by decide⟩

/-- A fragment of lanes 0 to 15 that is mending a remnant whose block was the one at 0x10000. -/
def fM : Fragment := { placeFragment with mask := 0xFFFF, mend := true, mcause := Cause.handle, oblk := 0x10000 }

-- BAR in a mending fragment; BAR where lanes 0 to 15 arrive and the others go on; a barrier that stands complete, and one that does not.
theorem witness_barriers :
    (let f := { placeFragment with mask := 0xFFFF }
      let g := { gC with preds := [(0, 0xFF)] }
      Issues (tState g fM) (tWho g fM) ∧ fM.mend = true
      ∧ Issues (tState g f) (tWho g f) ∧ f.mend = false ∧ (tWho g f).act ⟨false, 0⟩ ≠ 0 ∧ (tState g f).relReady g 2 = true ∧ (tState g f).fenceReady g = true
      ∧ (tWho g f).others ⟨false, 0⟩ ≠ 0 ∧ (tState g f).pool 0 ≠ [])
    ∧ (let g := { gC with arr := [(3, BitVec.allOnes 32), (8, 1)] }
      let s := tState g placeFragment
      (∃ e ∈ [(0, g)], Table.getD e.2.arr 0 8 ≠ e.2.live)
      ∧ (∀ e ∈ [(0, g)], Table.find s.groups e.1 = some e.2 ∧ Table.getD e.2.arr 0 3 = e.2.live) ∧ (∃ e ∈ [(0, g)], e.2.live ≠ 0)
      ∧ ([(0, g)].map Prod.fst).Nodup
      ∧ (∀ a ∈ [true, false],
        let k : SavedTeam := ⟨tTeam, [(0, { gC with arr := if a then [(8, BitVec.allOnes 32)] else [] })], [], [], [], [], [], [], [], [], false⟩
        k.arrived = a ∧ ([(7, k)].map Prod.fst).Nodup)) := by
  refine ⟨⟨tIssues (by decide +kernel), rfl, tIssues (by decide +kernel), rfl, by decide +kernel, by decide +kernel, by decide +kernel,
    by decide +kernel, by decide +kernel⟩, ?_⟩
  intro g s
  refine ⟨⟨_, .head _, by decide +kernel⟩, ?_, ⟨_, .head _, by decide +kernel⟩, by simp, by decide +kernel⟩
  intro e he
  simp only [List.mem_singleton] at he
  subst he
  exact ⟨rfl, by decide +kernel⟩

theorem witness_exit :
    Issues sC wC ∧ wC.f.slot = wC.slot ∧ wC.fi < 64 ∧ wC.act gp ≠ 0 ∧ Mask.leader (wC.act gp) = some 0
    ∧ wC.checkSrc (wC.act gp) 1 1 Tg.maskLine = .ok () ∧ wC.beyondField 1 1 = false ∧ BitVec.ofNat 32 (wC.word sC 1 0) ≠ 0 :=
  ⟨tIssues (by decide +kernel), rfl, by decide, by decide +kernel, by decide +kernel, by rfl, by decide +kernel, by decide +kernel⟩

-- TFENCE with and without a raised flag; YIELD with another fragment that may run; REJOIN of a mend to the block's own header.
theorem witness_control :
    wC.g.raised = 0 ∧ ({ gC with flags := 0x1FF } : Group).raised ≠ 0
    ∧ (let s := { sC with frags := [(0, { placeFragment with mask := 0xFFFF }), (16, { placeFragment with mask := 0xFFFF0000, idx := 1 })] }
      let w := tWho gC { placeFragment with mask := 0xFFFF }
      Issues s w ∧ w.act gp ≠ 0 ∧ w.f.idx + 1 < Hdr.length w.f.hdr ∧ w.g.run = some w.fi
      ∧ ∃ e ∈ s.fragsOf 0 0, e.1 ≠ w.fi ∧ e.2.eligible w.g = true ∧ Table.find w.g.passes e.1 = none)
    ∧ (operandOf 959 = .v 959 ∧ wC.beyond 959 1 = false)
    ∧ (let w := tWho gC fM
      Issues (tState gC fM) w ∧ w.f.mend = true ∧ w.rejoinTarget ⟨gp, -1, 0, 0⟩ = some 0x10000 ∧ (tState gC fM).checkTarget 0 0 0x10000 = none
      ∧ w.act gp ≠ 0 ∧ (tState gC fM).pool 0 ≠ []) := by
  refine ⟨by decide +kernel, by decide +kernel, ⟨tIssues (by decide +kernel), by decide +kernel, by decide +kernel, rfl, ?_⟩, ⟨by decide, by decide +kernel⟩,
    tIssues (by decide +kernel), rfl, by decide +kernel, by decide +kernel, by decide +kernel, by decide +kernel⟩
  exact ⟨(16, _), List.mem_filterMap.mpr ⟨16, by simp, rfl⟩, by decide, by decide +kernel, rfl⟩

theorem witness_traps :
    Issues sC wC ∧ wC.t.twin = none ∧ wC.act gp ≠ 0 ∧ sC.pool 0 = 16 :: (List.range 47).map (· + 17) ∧ wC.beyondField 1 1 = false :=
  ⟨tIssues (by decide +kernel), rfl, by decide +kernel, by decide +kernel, by decide +kernel⟩

/-- A header like the block's that lets its remnants mend, and a group whose mend block is at 0x10000. -/
def fH : Fragment := { placeFragment with hdr := placeHeader ||| 0x800 }
def gH : Group := { gC with mendReg := 0x10000 }

-- A lane fault that mends; one that the program may not resolve; a fragment fault of IADD, whose sources' tags differ.
theorem witness_faults :
    (let s := tState gH fH
      let w := tWho gH fH
      let e : Nat × LaneFail := (3, { cause := Cause.handle })
      Issues s w ∧ e ∈ [e] ∧ (∀ x ∈ [e], x.2.cause = e.2.cause) ∧ s.pool 0 = 16 :: (List.range 47).map (· + 17)
      ∧ (userResolvable e.2.cause = true ∧ w.f.mend = false ∧ w.g.mendReg ≠ 0 ∧ Hdr.mend w.f.hdr = true)
      ∧ s.checkTarget 0 0 w.g.mendReg.toNat = none ∧ userResolvable Cause.unmapped = false)
    ∧ (let f : FmtV := ⟨gp, 3, 1, 4, 0, 31, 0⟩
      Issues sV wV ∧ exec (.iadd f) sV = sV.issue (.iadd f) gp 1 (vecPlan sV (arith2 f (fun a b => a + b)))
      ∧ vecPlan sV (arith2 f (fun a b => a + b)) wV = .error Cause.tagMismatch ∧ 0x041 ≤ Cause.tagMismatch ∧ Cause.tagMismatch ≤ 0x04B) :=
  ⟨⟨tIssues (by decide +kernel), by simp, by simp, by decide +kernel, by decide +kernel, by decide +kernel, by decide⟩,
    tIssues (by decide +kernel), rfl, by rfl, by decide, by decide⟩

/-- The group's turn has come, and its fragment is about to move. -/
theorem tMoves {s : State} {w : Who}
    (who : (s.powered = true ∧ (w.core < 720 ∧ w.slot < 16) ∧ s.mayIssue w.core w.slot = true) ∧ s.group? w.core w.slot = some w.g ∧ Table.find s.teams w.g.tid = some w.t)
    (may : (s.ctx w.ctx).mode = .live ∧ w.t.stopping = false ∧ s.pending w.core w.slot = false ∧ w.g.held = none
      ∧ s.sram.contains (slotKey w.core w.slot) = false)
    (does : w.g.run = some w.fi ∧ s.frag? w.core w.fi = some w.f ∧ w.f.eligible w.g = true ∧ w.f.acq = none) : Moves s w :=
  let ⟨⟨power, place, turn⟩, group, team⟩ := who
  let ⟨live, stays, idle, free, sound⟩ := may
  let ⟨run, frag, ready, owes⟩ := does
  { power, place, turn, group, team, live, stays, idle, free, run, frag, ready, owes, sound }

/-- A fragment that stands at a header and has not entered the block. -/
def fE (blk : Nat) : Fragment := { placeFragment with entered := false, hdr := 0, blk := blk }

-- Entering a block; a word that is no header; and an instruction that is about to be fetched.
theorem witness_step :
    (∀ blk ∈ [0x10000, 0x10008], Moves (tState gC (fE blk)) (tWho gC (fE blk)) ∧ (fE blk).entered = false ∧ tTeam.twin = none
      ∧ (tState gC (fE blk)).fetchFail 0 0 blk = none)
    ∧ Hdr.valid (((tState gC (fE 0x10000)).fetchIword 0 0 0x10000).fetchWord 0 0 0x10000) = true
    ∧ Hdr.valid (((tState gC (fE 0x10008)).fetchIword 0 0 0x10008).fetchWord 0 0 0x10008) = false
    ∧ (Moves sC wC ∧ wC.f.entered = true ∧ wC.t.twin = none ∧ wC.f.idx < Hdr.length wC.f.hdr ∧ ∀ a ∈ wC.f.iaddr :: sC.iwordsAt wC, sC.fetchFail 0 0 a = none)
    ∧ (∃ r, decode ((sC.iwordsAt wC).map (sC.fetchWord 0 0)) = .error r)
    ∧ (let s := { State.reset.placed 0x70E7800000000000 with cur := some ⟨0, 0, 0⟩ }
      let w : Who := ⟨0, 0, 0, placeGroup, placeFragment, placeTeam⟩
      Moves s w ∧ w.f.entered = true ∧ w.t.twin = none ∧ w.f.idx < Hdr.length w.f.hdr ∧ (∀ a ∈ w.f.iaddr :: s.iwordsAt w, s.fetchFail 0 0 a = none)
      ∧ decode ((s.iwordsAt w).map (s.fetchWord 0 0)) = .ok (.nop ⟨gp, 0, 0, 0⟩)
      ∧ w.firstCheck (s.fetchWord 0 0 w.f.iaddr) (s.iwordsAt w).length = none)
    -- MOVI.W with an odd register for a 64-bit tag, which its first word shows
    ∧ (let s := { State.reset.placed 0x300782A000000210 with cur := some ⟨0, 0, 0⟩ }
      let w : Who := ⟨0, 0, 0, placeGroup, placeFragment, placeTeam⟩
      Moves s w ∧ w.f.entered = true ∧ w.t.twin = none ∧ w.f.idx < Hdr.length w.f.hdr ∧ (∀ a ∈ w.f.iaddr :: s.iwordsAt w, s.fetchFail 0 0 a = none)
      ∧ w.firstCheck (s.fetchWord 0 0 w.f.iaddr) (s.iwordsAt w).length = some Cause.illegalField)
    ∧ (Instr.deviceReset).isEvent = true ∧ sC.powered = true := by
  refine ⟨?_, by decide +kernel, by decide +kernel, ⟨tMoves (by decide +kernel) (by decide +kernel) (by decide +kernel), rfl, rfl, by decide +kernel, by decide +kernel⟩,
    ⟨.illegalField, by rfl⟩,
    ⟨tMoves (by decide +kernel) (by decide +kernel) (by decide +kernel), rfl, rfl, by decide +kernel, by decide +kernel, by rfl, by decide +kernel⟩,
    ⟨tMoves (by decide +kernel) (by decide +kernel) (by decide +kernel), rfl, rfl, by decide +kernel, by decide +kernel, by decide +kernel⟩, by rfl, by rfl⟩
  intro blk hb
  simp only [List.mem_cons, List.not_mem_nil, or_false] at hb
  rcases hb with rfl | rfl
  all_goals exact ⟨tMoves (by decide +kernel) (by decide +kernel) (by decide +kernel), rfl, rfl, by decide +kernel⟩

-- Witnesses: memory. Lines 30 and 31 hold 0x20000 in every lane, lines 32 and 33 hold 512, line 34 a handle, line 36 zero.

def gL : Group := tGroup [(1, 3, 7), (2, 3, 5), (3, 3, 1), (4, 11, 0x3F800000), (5, 11, 0x40000000), (30, 0, 0x20000), (31, 0, 0), (32, 0, 512), (33, 0, 0),
  (34, 0, 4096), (36, 0, 0), (38, 0, 0x200020)]
def tHandle : Handle := ⟨1, 0, 0, 32, 64, 4, 0, false⟩
def sL : State := { tPaged gL placeFragment with handles := [(0, tHandle)] }
def wL : Who := tWho gL placeFragment

theorem pagesReady_one {s : State} {w : Who} {va n : Nat} (h : (pageParts va n).all (fun p => s.tlbReady w.core w.ctx p.1 true) = true) :
    PagesReady s w va n := fun p hp => List.all_eq_true.mp h p hp

theorem lanes_all {m : Mask} {p : Nat → Prop} (h : ∀ l < 32, p l) : ∀ l, m.getLsbD l = true → p l := fun l hl => h l (BitVec.lt_of_getLsbD hl)

-- Nothing drops a store to the package's own memory.
theorem noDrops {s : State} {k : Nat} (h : tierOf k = 0) : s.dropsStore k = false := by simp [State.dropsStore, State.cxlDown, State.peerDown, h]

theorem noDrops_frame {s : State} {j : Nat} (h : j < 2 ^ 40) : ∀ k, k / 256 = j / 256 → s.dropsStore k = false := fun k hk =>
  noDrops (by simp only [tierOf]; omega)

theorem dataReady_reg {s : State} {w : Who} {act : Mask} {x : BitVec 10} {write : Bool} {n : Nat}
    (h : (!w.dataPortBad act x write n && (s.portFails w act x write).isEmpty && !s.asksStall (s.portAsks w act [] x write)
      && w.g.fence == none) = true) : DataReady s w act x write n := by
  simp only [Bool.and_eq_true, Bool.not_eq_true', beq_iff_eq, List.isEmpty_iff] at h
  exact ⟨h.1.1.1, h.1.1.2, h.1.2, fun _ => h.2⟩

/-- A group whose loads may go to a register or, by port 1, to memory. -/
def gLS : Group := { gL with streams := gS.streams }
def sLS : State := tPaged gLS placeFragment
def wLS : Who := tWho gLS placeFragment

-- A load to a register, and one to the write port.
theorem witness_loads :
    (∀ d ∈ [(12 : BitVec 10), 0x3E1],
      let f : FmtM := ⟨gp, d, 30, 0, 2, 0⟩
      LoadReady sLS wLS f
      ∧ ∀ l < 32, sLS.probe wLS.core wLS.ctx (wLS.memAddr sLS f f.off20 l) f.bytes .load false true = none
        ∧ ReadReady sLS wLS (wLS.memAddr sLS f f.off20 l) f.bytes)
    ∧ Mask.leader (wLS.act gp) = some 0
    ∧ (let f : FmtM := ⟨gp, 12, 30, 0, 2, 0⟩
      let va := fun l => wLS.memAddr sLS f f.off20 l
      Fld.isPort f.data = false ∧ (∀ l < 32, sLS.probe wLS.core wLS.ctx (va l) f.bytes .load true true = none
        ∧ sLS.mixed (sLS.keyAt wLS.core wLS.ctx (va l) false) f.bytes = false)
      ∧ sLS.asksStall (sLS.asksFor none wLS [] ((Mask.lanes (wLS.act gp)).map (fun l => (l, va l, f.bytes)))) = false
      ∧ (sLS.narrow wLS 0).2 = false ∧ wLS.g.mixchk = false)
    ∧ (let f : FmtM := ⟨gp, 12, 34, 0x9024, 2, 0⟩
      Issues sL wL ∧ wL.act gp ≠ 0 ∧ DataReady sL wL (wL.act gp) f.data true f.bytes ∧ wL.t.twin = none ∧ handleCheck f wL = .ok ()
      ∧ f.handleBeyond wL = false ∧ wL.dataPortTag (wL.act gp) f.data (placeTag 2 false) = .ok ()
      ∧ ∀ l < 32, (wL.tileElement sL f l).isSome = true) := by
  refine ⟨fun d hd => ?_, by decide +kernel, by decide +kernel, tIssues (by decide +kernel), by decide +kernel, dataReady_reg (by decide +kernel),
    rfl, by rfl, by decide +kernel, by rfl, by decide +kernel⟩
  have ha : wLS.act gp ≠ 0 := by decide +kernel
  have hs : (2 : BitVec 3).toNat ≤ 4 := by decide
  have ht : placeTag (2 : BitVec 3).toNat ((0 : BitVec 4).getLsbD 3) = placeTag 2 false := by decide
  have h : ∀ d ∈ [(12 : BitVec 10), 0x3E1],
      (!wLS.dataPortBad (wLS.act gp) d true 4 && (sLS.portFails wLS (wLS.act gp) d true).isEmpty
        && !sLS.asksStall (sLS.portAsks wLS (wLS.act gp) [] d true) && wLS.g.fence == none) = true
      ∧ wLS.dataPortTag (wLS.act gp) d (placeTag 2 false) = .ok () ∧ FmtM.beyond ⟨gp, d, 30, 0, 2, 0⟩ wLS 1 = false := by
    intro d hd
    simp only [List.mem_cons, List.not_mem_nil, or_false] at hd
    rcases hd with rfl | rfl <;> exact ⟨by decide +kernel, by rfl, by decide +kernel⟩
  have hp : ∀ l < 32, sLS.probe wLS.core wLS.ctx (wLS.memAddr sLS ⟨gp, d, 30, 0, 2, 0⟩ 0 l) 4 .load false true = none
      ∧ (pageParts (wLS.memAddr sLS ⟨gp, d, 30, 0, 2, 0⟩ 0 l) 4).all (fun p => sLS.tlbReady wLS.core wLS.ctx p.1 false) = true := by
    simp only [List.mem_cons, List.not_mem_nil, or_false] at hd
    rcases hd with rfl | rfl <;> decide +kernel
  exact ⟨⟨tIssues (by decide +kernel), rfl, ha, hs, by rfl, dataReady_reg (h d hd).1, by rw [ht]; exact (h d hd).2.1, (h d hd).2.2⟩,
    fun l hl => ⟨(hp l hl).1, fun p hq => List.all_eq_true.mp (hp l hl).2 p hq⟩⟩

/-- A load of lanes 0 and 31 that has gone out: to the register of `data`, one byte of lane 31 still to be read. -/
def qL (data : BitVec 10) (m : List (Nat × Nat)) : PendingLoad :=
  ⟨data, 2, false, none, 0, [(0x20000, 4), (0x20008, 4)], [], [⟨0, 0x20000, 7, [], [], 5⟩, ⟨31, 0x20008, 9, m, [], 6⟩]⟩

-- A group with an outstanding load of two lanes, with a byte to read and without; to the last line, and to a write port.
theorem witness_load_return :
    (∀ d ∈ [(958 : BitVec 10), 0x3E1], ∀ m ∈ [[], [(3, 0x2000B)]],
      let g := { gLS with loads := [qL d m] }
      let s := tPaged g placeFragment
      s.group? 0 0 = some g ∧ Table.find s.teams g.tid = some tTeam ∧ g.loads = qL d m :: []
        ∧ ((qL d m).parts.map (·.lane)).Nodup ∧ (∀ x ∈ (qL d m).parts, x.lane < 32)
        ∧ ((s.waitUncached 0 0 (qL d m).accs).fetchAsks 0 0 (qL d m).accs (qL d m).spans).any (s.waitUncached 0 0 (qL d m).accs).stalled = false
        ∧ (∀ x ∈ (qL d m).parts.map (LanePart.read s 0 0 (fun _ => true)), x.poison = []))
    ∧ (∀ x ∈ (qL 958 []).parts, x.miss = []) ∧ operandOf (958 : BitVec 10) = .v 958 ∧ operandOf (0x3E1 : BitVec 10) = .port 1
    ∧ (let w := tWho { gLS with loads := [qL 0x3E1 []] } placeFragment
      w.core = 0 ∧ w.slot = 0 ∧ w.t = tTeam
      ∧ ∀ x ∈ (qL 0x3E1 []).parts, ∃ b, w.g.binding 1 x.lane = some b ∧ PagesReady (tPaged w.g placeFragment) w b.addr b.size) := by
  refine ⟨by decide +kernel, by decide +kernel, by decide, by decide, rfl, rfl, rfl, fun x hx => ?_⟩
  have h : ∀ l < 32, (pageParts (tBind true l).addr (tBind true l).size).all
      (fun p => (tPaged { gLS with loads := [qL 0x3E1 []] } placeFragment).tlbReady 0 0 p.1 true) = true := by decide +kernel
  have hb : ∀ l < 32, ({ gLS with loads := [qL 0x3E1 []] } : Group).binding 1 l = some (tBind true l) := by decide +kernel
  have hl : ∀ x ∈ (qL 0x3E1 []).parts, x.lane < 32 := by decide +kernel
  exact ⟨_, hb _ (hl x hx), pagesReady_one (h _ (hl x hx))⟩

theorem witness_stores :
    let f : FmtM := ⟨gp, 1, 30, 0, 2, 1⟩
    (Issues sL wL ∧ Fld.isPort f.data = false ∧ ∀ l, (wL.act gp).getLsbD l = true → PagesReady sL wL (wL.memAddr sL f f.off20 l) f.bytes)
    ∧ (Issues sL wL ∧ ∃ p, stPlan sL f wL = .ok p ∧ Passes sL wL gp 1 p)
    ∧ (Issues sL wL ∧ ∃ p, stlPlan sL f wL = .ok p ∧ Passes sL wL gp 1 p) ∧ wL.g.mixchk = false
    ∧ (Issues sL wL ∧ ∃ p, sttPlan sL ⟨gp, 1, 34, 0x9024, 2, 0⟩ wL = .ok p ∧ Passes sL wL gp 1 p) := by
  refine ⟨⟨tIssues (by decide +kernel), by decide, lanes_all ?_⟩, planOk_passes (by decide +kernel), planOk_passes (by decide +kernel), by decide +kernel,
    planOk_passes (by decide +kernel)⟩
  have h : ∀ l < 32, (pageParts (wL.memAddr sL ⟨gp, 1, 30, 0, 2, 1⟩ 0 l) 4).all (fun p => sL.tlbReady 0 0 p.1 true) = true := by decide +kernel
  exact fun l hl => pagesReady_one (h l hl)

theorem witness_store_frame :
    (0 : Nat) < 720 ∧ 0x200F8 % 256 + [1, 2, 3, 4, 5, 6, 7, 8].length ≤ 256 ∧ sL.dropsStore 0x200F8 = false := by decide +kernel

theorem witness_atomics :
    let f : FmtM := ⟨gp, 2, 30, 0, 2, 0⟩
    let fw : FmtM := ⟨gp, 30, 30, 0, 3, 0⟩
    (operandOf f.data = .v f.data.toNat ∧ Mask.leader (wL.act gp) = some 0 ∧ (sL.narrow wL 0).2 = false)
    ∧ (Issues sL wL ∧ ∃ p, atomOpPlan sL f wL = .ok p ∧ Passes sL wL gp 1 p)
    ∧ (Issues sL wL ∧ ∃ p, atomOpPlan sL fw wL = .ok p ∧ Passes sL wL gp 1 p)
    ∧ (Issues sL wL ∧ ∃ p, atomfPlan sL ⟨gp, 4, 30, 0, 2, 0⟩ wL = .ok p ∧ Passes sL wL gp 1 p)
    ∧ (Issues sL wL ∧ ∃ p, casPlan sL f wL = .ok p ∧ Passes sL wL gp 1 p)
    ∧ (operandOf (40 : BitVec 10) = .v 40 ∧ Issues sL wL ∧ ∃ p, casPlan sL ⟨gp, 40, 30, 0, 4, 0⟩ wL = .ok p ∧ Passes sL wL gp 1 p)
    ∧ (∀ n ∈ [4, 8, 16],
      (sL.holdAll wL n (wL.memAddr sL f 0) (Mask.lanes (wL.act gp))).atomPoison wL n (wL.memAddr sL f 0) (Mask.lanes (wL.act gp)) = []) := by
  refine ⟨⟨by decide, by decide +kernel, by decide +kernel⟩, planOk_passes (by decide +kernel), planOk_passes (by decide +kernel),
    planOk_passes (by decide +kernel), planOk_passes (by decide +kernel), ⟨by decide, planOk_passes (by decide +kernel)⟩, by decide +kernel⟩

theorem witness_atom_lane :
    sL.group? 0 0 = some gL ∧ gL.mixchk = false
    ∧ ∀ q ∈ [((0x20FF8 : Nat), (8 : Nat)), (0x20FF0, 16)], PagesReady sL wL q.1 q.2
      ∧ (let key := sL.keyAt 0 0 q.1 true
        sL.mixed key q.2 = false ∧ sL.dropsStore key = false ∧ key % q.2 = 0) := by
  refine ⟨by decide +kernel, by decide +kernel, fun q hq => ?_⟩
  simp only [List.mem_cons, List.not_mem_nil, or_false] at hq
  rcases hq with rfl | rfl
  · exact ⟨pagesReady_one (by decide +kernel), by decide +kernel⟩
  · exact ⟨pagesReady_one (by decide +kernel), by decide +kernel⟩

-- Ranges of 512 bytes, and one of none (line 36).
theorem witness_ranges :
    let f : FmtM := ⟨gp, 32, 30, 0, 2, 0⟩
    let start := wL.memAddr sL f f.off20 0
    Issues sL wL ∧ (wL.checkSrc (wL.act gp) 30 2 Tg.dword = .ok () ∧ wL.beyondField 30 2 = false)
    ∧ (∀ l < 32, ReadReady sL wL (wL.memAddr sL f f.off20 l) f.bytes)
    ∧ Mask.leader (wL.act gp) = some 0 ∧ wL.t.twin = none
    ∧ (∀ d ∈ [(32 : BitVec 10), 36], rangeCheck ⟨gp, d, 30, 0, 2, 0⟩ wL = .ok () ∧ FmtM.beyond ⟨gp, d, 30, 0, 2, 0⟩ wL 1 = false)
    ∧ (rangeCheck ⟨gp, 32, 30, 0, 3, 0⟩ wL = .ok () ∧ FmtM.beyond ⟨gp, 32, 30, 0, 3, 0⟩ wL 2 = false ∧ wL.dword sL 32 0 = 512)
    ∧ wL.word sL 32 0 = 512 ∧ wL.word sL 36 0 = 0
    ∧ (start % 256 = 0 ∧ 512 % 256 = 0 ∧ sL.probe wL.core wL.ctx start 512 .zero false true = none ∧ wL.g.fence = none
      ∧ sL.asksStall (sL.asksFor (some .zero) wL [] [(0, start, 512)]) = false)
    ∧ (∀ q, q < 512 / 256 → PagesReady sL wL (start + 256 * q) 256) ∧ ∀ j < 2 ^ 40, ∀ k, k / 256 = j / 256 → sL.dropsStore k = false := by
  refine ⟨tIssues (by decide +kernel), ⟨by rfl, by decide +kernel⟩, ?_, by decide +kernel, rfl, ?_, ⟨by rfl, by decide +kernel, by decide +kernel⟩,
    by decide +kernel, by decide +kernel, by decide +kernel, fun q hq => pagesReady_one ?_, fun j hj => noDrops_frame hj⟩
  · have h : ∀ l < 32, (pageParts (wL.memAddr sL ⟨gp, 32, 30, 0, 2, 0⟩ 0 l) 4).all (fun p => sL.tlbReady 0 0 p.1 false) = true := by decide +kernel
    exact fun l hl p hp => List.all_eq_true.mp (h l hl) p hp
  · intro d hd
    simp only [List.mem_cons, List.not_mem_nil, or_false] at hd
    rcases hd with rfl | rfl <;> exact ⟨by rfl, by decide +kernel⟩
  have h : ∀ q < 2, (pageParts (wL.memAddr sL ⟨gp, 32, 30, 0, 2, 0⟩ 0 0 + 256 * q) 256).all (fun p => sL.tlbReady 0 0 p.1 true) = true := by
    decide +kernel
  exact h q hq

-- TALLOC at level 1, at level 2 for a team of the cluster that stands on a core and for one that has been saved, and where the shape has no
-- rows; TFREE.
theorem witness_handles :
    Issues sL wL ∧ Mask.leader (wL.act gp) = some 0
    ∧ (sL.hasTeam wL.t 0 = true ∧ wL.checkSrc (wL.act gp) 36 1 Tg.word = .ok () ∧ wL.beyondField 36 1 = false)
    ∧ (sL.holderTeam wL.t 0).isSome = true
    ∧ (let k : SavedTeam := ⟨{ tTeam with num := 1 }, [], [], [], [], [], [], [], [], [], false⟩
      let s := { sL with saved := [(9, k)] }
      s.hasTeam wL.t 1 = true ∧ s.holderTeam wL.t 1 = none)
    ∧ (wL.checkSrc (wL.act gp) 38 1 Tg.word = .ok () ∧ wL.beyondField 38 1 = false ∧ operandOf 40 = .v 40 ∧ wL.beyond 40 1 = false)
    ∧ ((sL.allocate 1 0 wL.t wL.t.cluster 0x20 0x20 4).isSome = true ∧ sL.allocate 1 0 wL.t wL.t.cluster 0 32 4 = none)
    ∧ (wL.checkSrc (wL.act gp) 34 1 Tg.word = .ok () ∧ wL.beyondField 34 1 = false ∧ sL.handleOf 0 wL.g.tid wL.t (wL.word sL 34 0) = some (0, tHandle)) :=
  ⟨tIssues (by decide +kernel), by decide +kernel, ⟨by decide +kernel, by rfl, by decide +kernel⟩, by decide +kernel, by decide +kernel,
    ⟨by rfl, by decide +kernel, by decide, by decide +kernel⟩, by decide +kernel, by rfl, by decide +kernel, by decide +kernel⟩

-- Witnesses: matrix. Lines 100 to 107 and 140 and 150 hold bytes (tag I8), 200 to 263 an integer accumulator, 300 to 363 a float one,
-- 400 to 431 words of F32; line 20 holds the words of a tile descriptor.

def tTiles : Table TileDesc := [(0, ⟨12800, 32, 1, 0, 32, false, 0, 0⟩), (1, ⟨51200, 32, 11, 0, 64, false, 0, 0⟩), (2, ⟨17920, 4, 1, 0, 32, true, 19200, 0⟩),
  (3, ⟨12800, 16, 1, 0, 16, false, 0, 0⟩)]
def gT : Group := { gL with
  win := tLines [(2, 3, 5)] ++ [(20, ⟨BitVec.ofNat 1024 (12800 + (32 * 2 ^ 26 + 1 * 2 ^ 21 + 32) * 2 ^ 32), 0⟩)]
    ++ tLines ([(30, 0, 0x20000), (31, 0, 0), (34, 0, 4096), (36, 0, 0)] ++ (List.range 8).map (fun i => (100 + i, 1, 0x01020304)) ++ [(140, 1, 1), (150, 1, 1)]
      ++ (List.range 64).map (fun i => (200 + i, Tg.a56i, i)) ++ (List.range 64).map (fun i => (300 + i, Tg.a56f, 0))
      ++ (List.range 32).map (fun i => (400 + i, 11, 0x3F800000))),
  tiles := tTiles, accs := [(0, 25600), (1, 38400)] }
def sT : State := { tPaged gT placeFragment with handles := [(0, tHandle)] }
def wT : Who := tWho gT placeFragment

theorem witness_tile_state :
    Issues sT wT ∧ wT.act gp ≠ 0
    ∧ (wT.checkLines 20 1 Tg.word = .ok () ∧ 20 < wT.g.lines ∧ parseTile (12800) (32 * 2 ^ 26 + 1 * 2 ^ 21 + 32) 0 0 = some ⟨12800, 32, 1, 0, 32, false, 0, 0⟩
      ∧ ((wT.g.line 20).slot 0).toNat = 12800 ∧ ((wT.g.line 20).slot 1).toNat = 32 * 2 ^ 26 + 1 * 2 ^ 21 + 32
      ∧ ((wT.g.line 20).slot 2).toNat = 0 ∧ ((wT.g.line 20).slot 3).toNat = 0 ∧ parseAcc 12800 = some 12800)
    ∧ (wT.checkLines 2 1 Tg.word = .ok () ∧ 2 < wT.g.lines ∧ parseTile 5 5 5 5 = none ∧ parseAcc 5 = none ∧ ((wT.g.line 2).slot 0).toNat = 5)
    ∧ (∃ p, gsetPlan ⟨gp, 1, 36, 0, 0, 4⟩ wT = .ok p) ∧ wT.beyond 36 1 = false ∧ wT.beyond 959 1 = false := by
  refine ⟨tIssues (by decide +kernel), by decide +kernel, ⟨by rfl, by decide +kernel⟩, ⟨by rfl, by decide +kernel⟩, ⟨_, by rfl⟩, by decide +kernel,
    by decide +kernel⟩

-- Rows of tile 0, and of tile 2, which has scale bytes.
theorem witness_tile_rows :
    let f : FmtT := ⟨gp, 0, 30, 0, 0, 0⟩
    let fs : FmtT := ⟨gp, 2, 30, 30, 0, 8⟩
    let fh : FmtT := ⟨gp, 0, 34, 36, 36, 0⟩
    Issues sT wT
    ∧ ((wT.g.tile 0).rowBytes % Tg.bytes (wT.g.tile 0).tag = 0 ∧ (wT.g.tile 2).rowBytes % Tg.bytes (wT.g.tile 2).tag = 0)
    ∧ (Issues sT wT ∧ ∃ p, tloadPlan sT f wT = .ok p ∧ Passes sT wT gp 1 p)
    ∧ (∀ v ∈ (sT.loadLanes wT ((rowLanes (wT.act gp) 32).map (fun l => (l, wT.dword sT 30 l, 32))) 0).2, v.2.2.2 = [])
    ∧ (Issues sT wT ∧ ∃ p, tfromhPlan sT fh wT = .ok p ∧ Passes sT wT gp 1 p)
    ∧ ((wT.g.tile 0).rows ≠ 0 ∧ wT.tileBeyond (wT.g.tile 0) = false)
    ∧ (Issues sT wT ∧ ∃ p, tloadPlan sT fs wT = .ok p ∧ Passes sT wT gp 1 p)
    ∧ (∀ v ∈ (sT.loadLanes wT ((rowLanes (wT.act gp) 4).flatMap (rowAccs sT wT fs (wT.g.tile 2))) 0).2, v.2.2.2 = [])
    ∧ ((wT.g.tile 2).se = true ∧ (wT.g.tile 2).rows ≠ 0 ∧ wT.tileBeyond (wT.g.tile 2) = false)
    ∧ (Issues sT wT ∧ ∃ p, tstorePlan sT fs wT = .ok p ∧ Passes sT wT gp 1 p)
    ∧ (Issues sT wT ∧ ∃ p, tstorePlan sT f wT = .ok p ∧ Passes sT wT gp 1 p)
    ∧ (∀ l < 32, PagesReady sT wT (wT.dword sT 30 l) 32 ∧ PagesReady sT wT (wT.dword sT 30 l) 1)
    ∧ (Issues sT wT ∧ ∃ p, ttohPlan sT fh wT = .ok p ∧ Passes sT wT gp 1 p) := by
  refine ⟨tIssues (by decide +kernel), by decide +kernel, planOk_passes (by decide +kernel), by decide +kernel, planOk_passes (by decide +kernel),
    by decide +kernel, planOk_passes (by decide +kernel), by decide +kernel, by decide +kernel, planOk_passes (by decide +kernel),
    planOk_passes (by decide +kernel), ?_, planOk_passes (by decide +kernel)⟩
  have h : ∀ l < 32, (pageParts (wT.dword sT 30 l) 32).all (fun p => sT.tlbReady 0 0 p.1 true) = true
      ∧ (pageParts (wT.dword sT 30 l) 1).all (fun p => sT.tlbReady 0 0 p.1 true) = true := by decide +kernel
  exact fun l hl => ⟨pagesReady_one (h l hl).1, pagesReady_one (h l hl).2⟩

theorem witness_accumulators :
    Issues sT wT ∧ wT.accBeyond (wT.g.acc 0) = false ∧ wT.act gp ≠ 0
    ∧ (∀ n ∈ [0, 1], wT.checkAcc (wT.g.acc n) = .ok () ∧ wT.accBeyond (wT.g.acc n) = false) ∧ wT.beyond 896 64 = false
    ∧ (wT.checkLines 200 64 (accputOk 0) = .ok () ∧ wT.beyond 200 64 = false)
    ∧ (wT.checkLines 400 32 (accputOk 1) = .ok () ∧ wT.beyond 400 32 = false) := by
  refine ⟨tIssues (by decide +kernel), by decide +kernel, by decide +kernel, ?_, by decide +kernel, ⟨by rfl, by decide +kernel⟩,
    ⟨by rfl, by decide +kernel⟩⟩
  intro n hn
  simp only [List.mem_cons, List.not_mem_nil, or_false] at hn
  rcases hn with rfl | rfl
  · exact ⟨by rfl, by decide +kernel⟩
  · exact ⟨by rfl, by decide +kernel⟩

theorem witness_matrix_queue :
    (Issues sT wT ∧ ∃ p, mmaPlan ⟨gp, 0, 0, 0, 0, 0⟩ wT = .ok p ∧ Passes sT wT gp 1 p)
    ∧ (Issues sT wT ∧ ∃ p, drainPlan sT ⟨gp, 0, 1, 0, 36, 0⟩ wT = .ok p ∧ Passes sT wT gp 1 p)
    ∧ (Issues sT wT ∧ ∃ p, ttransPlan sT ⟨gp, 3, 0, 0, 0, 0⟩ wT = .ok p ∧ Passes sT wT gp 1 p)
    ∧ (∀ i ∈ [Instr.mma ⟨gp, 0, 0, 0, 0, 0⟩, .drain ⟨gp, 0, 1, 0, 36, 0⟩, .ttrans ⟨gp, 3, 0, 0, 0, 0⟩],
        let m : MatrixOp := ⟨0, i, BitVec.allOnes 32, none, 0x10008, 0⟩
        let s := { sT with mq := [(0, [m])] }
        Table.getD s.mq [] 0 = m :: [] ∧ s.group? 0 m.slot = some gT ∧ Table.find s.teams gT.tid = some tTeam)
    ∧ (gT.tile 0).rows ≤ 32
    ∧ (∀ n ∈ [1, 3], Tg.bp (gT.tile n).tag = false ∧ (gT.tile n).rowBytes % Tg.bytes (gT.tile n).tag = 0) :=
  ⟨planOk_passes (by decide +kernel), planOk_passes (by decide +kernel), planOk_passes (by decide +kernel), by decide +kernel, by decide +kernel,
    by decide +kernel⟩

-- Witnesses: engines and synchronization. At 0x20000 stands a chain control block: entries at 0x20100, 16 of them, no count.

def tBlock : List Byte := leBytes 0x20100 8 ++ leBytes 4 8 ++ List.replicate 48 0
def gQ : Group := tGroup [(1, 3, 7), (2, 3, 5), (30, 0, 0x20000), (31, 0, 0), (36, 0, 0), (37, 0, 0), (44, 0, 20), (45, 0, 0), (46, 0, 2), (47, 0, 0), (48, 0, 0x20100), (50, 0, 4096)]
def sQ : State := { tPaged gQ placeFragment with mem := sV.mem.writes 0x20000 tBlock, colls := [(5, ⟨4, 0, [], 7, [], 0⟩)] }
def wQ : Who := tWho gQ placeFragment

/-- The same device where the page has SV. -/
def sQv : State := { sQ with tlb := [{ tTlb with val := tTlb.val ||| 256 }, placeTlb] }

/-- The same device where the team holds open copy chain 0 of core 0, with two of its sixteen positions taken. -/
def tChain : Chain := { Chain.closed with isOpen := true, base := 0x20100, logn := 4, tail := 2 }
def sQc : State := { sQ with chains := [(chainKey (.copy 0 0), tChain)] }

-- A tail that moves, one that need not, one too far, and a chain that the team does not hold open.
theorem witness_chain_instructions :
    let f : FmtE := ⟨gp, 30, 1, 0, 0, 0⟩
    (Issues sQ wQ ∧ wQ.act gp ≠ 0)
    ∧ (Issues sQ wQ ∧ ∃ p, cputPlan sQ f wQ = .ok p ∧ Passes sQ wQ gp 1 p) ∧ PagesReady sQ wQ (wQ.dword sQ 30 0) 64
    ∧ (Issues sQ wQ ∧ ∃ p, ctailOpenPlan sQ f wQ = .ok p ∧ Passes sQ wQ gp 1 p) ∧ (sQ.leaderRead wQ 0 0x20000 64).2.2 = []
    ∧ (∀ a ∈ [(36 : BitVec 10), 44, 46], wQ.checkSrc (wQ.act gp) a 2 Tg.dword = .ok () ∧ wQ.beyondField a 2 = false) ∧ wQ.t.twin = none
    ∧ (Issues sQc wQ ∧ (sQc.chain (.copy 0 0)).isOpen = true ∧ (sQc.chain (.copy 0 0)).holder = wQ.holds (.copy 0 0)
      ∧ (sQc.chain (.copy 0 0)).closing = false ∧ wQ.dword sQc 46 0 ≤ 2 ∧ 2 < wQ.dword sQc 44 0 ∧ 2 ^ 4 < wQ.dword sQc 44 0 - 0)
    ∧ (let x := { tChain with tail := 0 }
      let s := { sQ with chains := [(chainKey (.copy 0 0), x)] }
      s.chain (.copy 0 0) = x ∧ x.tail < wQ.dword s 46 0 ∧ wQ.dword s 46 0 - x.done ≤ 2 ^ x.logn ∧ s.relReady wQ.g 1 = true)
    ∧ (sQ.chain (.copy 0 0)).isOpen = false := by
  refine ⟨⟨tIssues (by decide +kernel), by decide +kernel⟩, planOk_passes (by decide +kernel), pagesReady_one (by decide +kernel),
    planOk_passes (by decide +kernel), by decide +kernel, ?_, by rfl, ⟨tIssues (by decide +kernel), by decide +kernel⟩, by decide +kernel, by decide +kernel⟩
  intro a ha
  simp only [List.mem_cons, List.not_mem_nil, or_false] at ha
  rcases ha with rfl | rfl | rfl <;> exact ⟨by rfl, by decide +kernel⟩

-- Semaphore 5 of the team counts 6; SEMADD of 7, SEMWAIT with DEC for 5 and for 7, SEMREAD; a list of one waiter that is met.
theorem witness_semaphores :
    let s := { sQ with sems := [(5, 6)] }
    (Issues s wQ ∧ wQ.act gp ≠ 0 ∧ wQ.sem s ⟨gp, 1, 0, 0, 5, 2⟩ = some (.live 5))
    ∧ (Issues s wQ ∧ ∃ p, semaddPlan s ⟨gp, 1, 0, 0, 5, 0⟩ wQ = .ok p ∧ Passes s wQ gp 1 p)
    ∧ (Issues s wQ ∧ ∃ p, semwaitPlan s ⟨gp, 2, 0, 0, 5, 2⟩ wQ = .ok p ∧ Passes s wQ gp 1 p) ∧ (serveWaiters 5 6 s.semq).2.1 = []
    ∧ (wQ.word s 2 0 ≤ 6 ∧ 6 < wQ.word s 1 0)
    ∧ (Issues s wQ ∧ ∃ p, semwaitPlan s ⟨gp, 1, 0, 0, 5, 2⟩ wQ = .ok p ∧ Passes s wQ gp 1 p)
    ∧ (Issues s wQ ∧ ∃ p, semreadPlan s ⟨gp, 959, 0, 0, 5, 0⟩ wQ = .ok p ∧ Passes s wQ gp 1 p) ∧ operandOf 959 = .v 959
    ∧ (Issues s wQ ∧ ∃ p, semaddPlan s ⟨gp, 1, 36, 0, 5, 1⟩ wQ = .ok p ∧ Passes s wQ gp 1 p ∧ wQ.sem s ⟨gp, 1, 36, 0, 5, 1⟩ = some (.live 5)) := by
  refine ⟨⟨tIssues (by decide +kernel), by decide +kernel, by decide +kernel⟩, planOk_passes (by decide +kernel), planOk_passes (by decide +kernel),
    by decide +kernel, by decide +kernel, planOk_passes (by decide +kernel), planOk_passes (by decide +kernel), by decide, ?_⟩
  obtain ⟨h, p, h1, h2⟩ := planOk_passes (s := { sQ with sems := [(5, 6)] }) (w := wQ) (gd := gp) (n := 1)
    (e := semaddPlan { sQ with sems := [(5, 6)] } ⟨gp, 1, 36, 0, 5, 1⟩ wQ) (by decide +kernel)
  exact ⟨h, p, h1, h2, by decide +kernel⟩

theorem witness_engine_requests :
    let f : FmtE := ⟨gp, 30, 2, 36, 0, 0⟩
    (Issues sQ wQ ∧ wQ.act gp ≠ 0)
    ∧ (∀ b ∈ [(50 : BitVec 10), 36], Issues sQv wQ ∧ ∃ p, publishPlan sQv ⟨gp, 30, b, 0, 0, 0⟩ wQ = .ok p ∧ Passes sQv wQ gp 1 p)
    ∧ (wQ.word sQv 50 0 ≠ 0 ∧ wQ.word sQv 36 0 = 0 ∧ (sQv.narrow wQ 0).2 = false)
    ∧ (Issues sQ wQ ∧ ∃ p, enqPlan sQ f wQ = .ok p ∧ Passes sQ wQ gp 1 p)
    ∧ ((sQ.leaderRead wQ 0 0x20000 128).2.2 = [] ∧ sQ.poolAccepts = true ∧ ({ sQ with credits := [(5, 16384)] }).poolAccepts = false)
    ∧ (Issues sQ wQ ∧ ∃ p, svcPlan sQ f wQ = .ok p ∧ Passes sQ wQ gp 1 p)
    ∧ (∀ b ∈ [(2 : BitVec 10), 48], Issues sQ wQ ∧ ∃ p, mwaitPlan sQ ⟨gp, 30, b, 36, 0, 0⟩ wQ = .ok p ∧ Passes sQ wQ gp 1 p)
    ∧ ((sQ.armRead wQ 0 0x20000 4).2.2 = [] ∧ leNat (sQ.armRead wQ 0 0x20000 4).2.1 = wQ.word sQ 48 0
      ∧ leNat (sQ.armRead wQ 0 0x20000 4).2.1 ≠ wQ.word sQ 2 0)
    ∧ (Issues sQ wQ ∧ ∃ p, collabortPlan sQ ⟨gp, 2, 0, 0, 0, 0⟩ wQ = .ok p ∧ Passes sQ wQ gp 1 p)
    ∧ (Table.find sQ.colls (collKey 0 (wQ.word sQ 2 0 % 65536))).isSome = true
    ∧ (∀ m ∈ [(1 : BitVec 7), 9, 17], Issues sQ wQ ∧ ∃ p, fencePlan sQ ⟨gp, 0, 0, 0, 0, m⟩ wQ = .ok p ∧ Passes sQ wQ gp 1 p)
    ∧ (∀ m ∈ [(1 : BitVec 7), 9, 17], (sQ.narrow wQ (m.toNat % 8)).2 = false) ∧ wQ.g.loads = [] := by
  refine ⟨⟨tIssues (by decide +kernel), by decide +kernel⟩, fun b hb => planOk_passes ?_, by decide +kernel, planOk_passes (by decide +kernel), by decide +kernel,
    planOk_passes (by decide +kernel), fun b hb => planOk_passes ?_, by decide +kernel, planOk_passes (by decide +kernel), by decide +kernel,
    fun m hm => planOk_passes ?_, by decide +kernel, by rfl⟩
  · have h : ∀ b ∈ [(50 : BitVec 10), 36], planOk sQv wQ gp 1 (publishPlan sQv ⟨gp, 30, b, 0, 0, 0⟩ wQ) = true := by decide +kernel
    exact h b hb
  · have h : ∀ b ∈ [(2 : BitVec 10), 48], planOk sQ wQ gp 1 (mwaitPlan sQ ⟨gp, 30, b, 36, 0, 0⟩ wQ) = true := by decide +kernel
    exact h b hb
  · have h : ∀ m ∈ [(1 : BitVec 7), 9, 17], planOk sQ wQ gp 1 (fencePlan sQ ⟨gp, 0, 0, 0, 0, m⟩ wQ) = true := by decide +kernel
    exact h m hm

-- Witnesses: chains. The context's tables map the first 2^30 bytes of memory at their own addresses, with A and D set; the next
-- entry of the chain stands at 0x20100.

def tMapped : State := { sL with
  mem := ((sL.mem.writes 0x40000 (leBytes 0x41001 8)).writes 0x41000 (leBytes 0x42001 8)).writes 0x42000
    (leBytes (1 + 2 + 4 + 8 + 32 + 2 ^ 52 + 2 ^ 53) 8),
  ctxs := Table.put sL.ctxs 0 { sL.ctx 0 with root := 0x40000 },
  sems := [(5, 6)], colls := [(5, ⟨2, 0, [], 7, [(1, [1, 0, 0, 0])], 0⟩)],
  streams := [(0, ⟨some 0, 2 ^ 31, 0, 65536, 0, 1, 0, 0, 0, 0, []⟩)] }

/-- The chain in front of its first entry. -/
def tOpen : Chain := { Chain.closed with isOpen := true, base := 0x20100, logn := 4, tail := 2, stamps := [(2, 0, 0)] }

/-- The device with those 64 bytes as the entry of a chain. -/
def sE (c : ChainRef) (b : List Byte) : State := { tMapped with mem := tMapped.mem.writes 0x20100 b, chains := [(chainKey c, tOpen)] }

/-- The device once the engine has read them. -/
def uE (c : ChainRef) (b : List Byte) : State := ((sE c b).engineRead c 0 0x20100 64).1

/-- The fields of an entry, by their widths in bytes, filled up to 64. -/
def entryBytes (fs : List (Nat × Nat)) : List Byte :=
  let b := fs.flatMap (fun e => leBytes e.2 e.1)
  b ++ List.replicate (64 - b.length) 0

def readOk (c : ChainRef) (b : List Byte) : Bool :=
  let s := sE c b
  let x := s.chain c
  let r := s.engineRead c x.ctx (x.slot x.nxt) 64
  decide (s.mayTake x = true ∧ chainGood c = true ∧ s.probe (engineOf c) x.ctx (x.slot x.nxt) 64 .load false false = none
    ∧ s.asksStall (s.engineWaits (engineOf c) x.ctx false (s.partsAt (engineOf c) x.ctx (x.slot x.nxt) 64)) = false
    ∧ (x.ctx = 0 ∧ x.slot x.nxt = 0x20100) ∧ (r.2.1 = b ∧ r.2.2.2 = []))

/-- In some state the engine of a chain may take a well-formed entry of a type. -/
def entryGood (s : State) (c : ChainRef) (ty : Nat) (b : List Byte) : Bool :=
  let x := s.chain c
  let r := s.engineRead c x.ctx (x.slot x.nxt) 64
  let h := leField b 0 8
  decide ((s.mayTake x = true ∧ chainGood c = true ∧ s.probe (engineOf c) x.ctx (x.slot x.nxt) 64 .load false false = none
      ∧ s.asksStall (s.engineWaits (engineOf c) x.ctx false (s.partsAt (engineOf c) x.ctx (x.slot x.nxt) 64)) = false ∧ r.2.1 = b ∧ r.2.2.2 = [])
    ∧ hdrGood c h = true ∧ bits h 0 8 = ty ∧ accepts c ty = true ∧ (fnOf h = false ∨ x.started = []) ∧ x.genOf x.nxt = (s.ctx x.ctx).gen)

/-- The state once it has read the entry. -/
def taken (s : State) (c : ChainRef) : State := (s.engineRead c (s.chain c).ctx ((s.chain c).slot (s.chain c).nxt) 64).1

theorem entryGood_at {s : State} {c : ChainRef} {ty : Nat} {b : List Byte} (h : entryGood s c ty b = true) : EntryAt s (taken s c) c ty b := by
  obtain ⟨⟨takes, good, probe, free, entry⟩, header, type, known, alone, fresh⟩ := of_decide_eq_true h
  exact {
    read := { takes, good, probe, free, entry := ⟨_, Prod.ext rfl (Prod.ext entry.1 (Prod.ext rfl entry.2))⟩ }
    header, type, known, fresh, alone := fun hf => alone.resolve_left (by simp [hf]) }

theorem readOk_read {c : ChainRef} {b : List Byte} (h : readOk c b = true) : EntryRead (sE c b) (uE c b) c b := by
  obtain ⟨takes, good, probe, free, ⟨ctx, at_⟩, entry⟩ := of_decide_eq_true h
  refine {
    takes, good, probe, free
    entry := ⟨((sE c b).engineRead c ((sE c b).chain c).ctx (((sE c b).chain c).slot ((sE c b).chain c).nxt) 64).2.2.1,
      Prod.ext ?_ (Prod.ext entry.1 (Prod.ext rfl entry.2))⟩ }
  rw [ctx, at_]
  rfl

def entryOk (c : ChainRef) (ty : Nat) (b : List Byte) : Bool :=
  let s := sE c b
  let x := s.chain c
  let h := leField b 0 8
  readOk c b && decide (hdrGood c h = true ∧ bits h 0 8 = ty ∧ accepts c ty = true ∧ (fnOf h = false ∨ x.started = [])
    ∧ x.genOf x.nxt = (s.ctx x.ctx).gen)

theorem entryOk_at {c : ChainRef} {ty : Nat} {b : List Byte} (h : entryOk c ty b = true) : EntryAt (sE c b) (uE c b) c ty b := by
  obtain ⟨read, head⟩ := (Bool.and_eq_true _ _).mp h
  obtain ⟨header, type, known, alone, fresh⟩ := of_decide_eq_true head
  exact { read := readOk_read read, header, type, known, fresh, alone := fun hf => alone.resolve_left (by simp [hf]) }

def cC : ChainRef := .copy 0 0
def bNop : List Byte := entryBytes [(8, 0)]
def bCopy : List Byte := entryBytes [(8, 1), (8, 0x20000), (8, 0x20400), (8, 16)]
def bLost : List Byte := entryBytes [(8, 1), (8, 2 ^ 40), (8, 0x20400), (8, 16)]
def bCopy3d : List Byte := entryBytes [(8, 2), (8, 0x20000), (8, 0x20400), (4, 16), (2, 1), (2, 1), (4, 0x100), (4, 0), (4, 16), (4, 0)]
def bCopyh : List Byte := entryBytes [(8, 3), (8, 0x20000), (4, 4096), (4, 0), (4, 0), (4, 1), (4, 16)]
def bWait (thr : Nat) : List Byte := entryBytes [(8, 5), (2, 5), (2, 0), (4, thr), (1, 1)]
def bLink : List Byte := entryBytes [(8, 6), (8, 0x20200), (8, 4)]

/-- Two entries that stop their chains: a header with a reserved bit set, and a source that nothing maps. -/
def bRsv : List Byte := entryBytes [(8, 2 ^ 48)]

theorem wordSound {s : State} {c : ChainRef}
    (h : ((s.probe (engineOf c) (s.chain c).ctx (s.chain c).cwaddr 8 .store true false).all (fun e => !lossCause e.cause)) = true) :
    WordSound s c := by
  intro e he
  rw [he] at h
  simpa using h

/-- The COPYH entry where the tile-table entry that it names, at level 2, has left with a saved team. -/
def bCopyhS : List Byte := entryBytes [(8, 3), (8, 0x20000), (4, 8192), (4, 0), (4, 0), (4, 1), (4, 16)]
def sSaved : State := { sE cC bCopyhS with
  handles := [], saved := [(9, ⟨{ tTeam with num := 1 }, [], [], [], [(0, { tHandle with level := 2 }, 0, List.replicate 128 7)], [], [], [], [], [], false⟩)] }

theorem witness_chain_entries :
    (EntryRead (sE cC bRsv) (uE cC bRsv) cC bRsv ∧ hdrGood cC (leField bRsv 0 8) = false ∧ WordSound (uE cC bRsv) cC)
    ∧ WordSound (uE cC (entryBytes [(8, 0), (8, 1)])) cC
    ∧ EntryAt (sE cC bNop) (uE cC bNop) cC 0 bNop
    ∧ EntryAt (sE cC (entryBytes [(8, 0), (8, 1)])) (uE cC (entryBytes [(8, 0), (8, 1)])) cC 0 (entryBytes [(8, 0), (8, 1)])
    ∧ EntryAt (sE cC (entryBytes [(8, 4)])) (uE cC (entryBytes [(8, 4)])) cC 4 (entryBytes [(8, 4)])
    ∧ (EntryAt (sE cC bCopy) (uE cC bCopy) cC 1 bCopy ∧ ((Move.start (uE cC bCopy)).row (uE cC bCopy) cC 0 0x20000 0x20400 16 false).over = false)
    ∧ (EntryAt (sE cC bLost) (uE cC bLost) cC 1 bLost
      ∧ (let m := (Move.start (uE cC bLost)).row (uE cC bLost) cC 0 (2 ^ 40) 0x20400 16 false
        m.lost = [] ∧ m.held = [] ∧ m.fail = some { cause := Cause.unmapped } ∧ lossCause Cause.unmapped = false ∧ WordSound m.s cC))
    ∧ EntryAt (sE cC bCopy3d) (uE cC bCopy3d) cC 2 bCopy3d
    ∧ (EntryAt (sE cC bCopyh) (uE cC bCopyh) cC 3 bCopyh ∧ (CopyH.of bCopyh).good bCopyh = true
      ∧ Table.find (uE cC bCopyh).teams ((sE cC bCopyh).chain cC).holder = some tTeam
      ∧ (uE cC bCopyh).storeOf ((sE cC bCopyh).chain cC).holder (leField bCopyh 16 4) = some (.live 0 tHandle) ∧ leField bCopyh 32 4 % tHandle.es = 0)
    ∧ sSaved.storeOf (sSaved.chain cC).holder (leField bCopyhS 16 4) = some (.saved 9 0 { tHandle with level := 2 })
    ∧ (∀ thr ∈ [6, 7], EntryAt (sE cC (bWait thr)) (uE cC (bWait thr)) cC 5 (bWait thr) ∧ semRefGood cC 5 = true
      ∧ (uE cC (bWait thr)).entrySem cC 5 = some (.live 5) ∧ (uE cC (bWait thr)).semq = [] ∧ Table.getD (uE cC (bWait thr)).sems 0 5 = 6)
    ∧ EntryAt (sE cC bLink) (uE cC bLink) cC 6 bLink := by
  refine ⟨⟨readOk_read (by decide +kernel), by decide +kernel, wordSound (by decide +kernel)⟩, wordSound (by decide +kernel), entryOk_at (by decide +kernel),
    entryOk_at (by decide +kernel), entryOk_at (by decide +kernel), ⟨entryOk_at (by decide +kernel), by decide +kernel⟩,
    ⟨entryOk_at (by decide +kernel), by decide +kernel, by decide +kernel, by decide +kernel, by decide, wordSound (by decide +kernel)⟩,
    entryOk_at (by decide +kernel), ⟨entryOk_at (by decide +kernel), by decide +kernel⟩, by decide +kernel, ?_, entryOk_at (by decide +kernel)⟩
  have h : ∀ thr ∈ [6, 7], entryOk cC 5 (bWait thr) = true ∧ semRefGood cC 5 = true
      ∧ (uE cC (bWait thr)).entrySem cC 5 = some (.live 5) ∧ (uE cC (bWait thr)).semq = [] ∧ Table.getD (uE cC (bWait thr)).sems 0 5 = 6 := by
    decide +kernel
  exact fun thr ht => ⟨entryOk_at (h thr ht).1, (h thr ht).2⟩

/-- A translation that needs no new bit changes nothing. -/
theorem touch_same {s : State} {core ctx va pte base size : Nat} {val : Dword} {store : Bool} (h : s.xlat core ctx va store = .leaf pte base size val)
    (hm : s.mem.writeNat pte 8 (s.mem.readNat pte 8 ||| (2 ^ 52 + if store then 2 ^ 53 else 0)) = s.mem) (hc : ¬ core < 720 ∧ s.badSyms = []) :
    s.touch core ctx va store = s := by
  unfold State.touch
  split
  · rfl
  · rw [h]; simp only [readBlocks_sound hc.2, ite_self, hm, hc.1, if_false]

/-- The stale case: the entry carries generation 1, the context's is 0. -/
def sOld : State := { sE cC bNop with chains := [(chainKey cC, { tOpen with stamps := [(2, 1, 0)] })] }

theorem witness_chain_entries_move :
    (let f : Nat → Nat → Nat := fun lo n => leField bCopy3d lo n
      let u := uE cC bCopy3d
      let at_ : Nat → Nat → Nat → Nat → Nat → Nat := fun base f1 f2 i j => wrap 64 ((f base 8 : Int) + i * signed 32 (f f1 4) + j * signed 32 (f f2 4))
      1 ≤ f 24 4 ∧ f 24 4 ≤ 2 ^ 24 ∧ f 28 2 ≠ 0 ∧ f 30 2 ≠ 0 ∧ f 48 4 ≤ 1 ∧ f 52 12 = 0
      ∧ ((List.range (f 28 2 * f 30 2)).foldl (fun m k =>
          let i := k % f 28 2
          let j := k / f 28 2
          m.row u cC 0 (at_ 8 32 36 i j) (at_ 16 40 44 i j) (f 24 4) (f 48 4 == 1)) (Move.start u)).over = false)
    ∧ (let m := (Move.start (uE cC bCopyh)).plainRow cC ((sE cC bCopyh).chain cC) (CopyH.of bCopyh) 0
      leField bCopyh 28 4 = 1 ∧ bits (leField bCopyh 40 4) 2 1 = 0 ∧ m.over = false)
    ∧ (leField bLink 8 8 % 64 = 0 ∧ 1 ≤ leField bLink 16 1 ∧ leField bLink 16 1 ≤ 16 ∧ leField bLink 17 47 = 0)
    ∧ (let x := sOld.chain cC
      sOld.mayTake x = true ∧ (sOld.probe (engineOf cC) 0 (x.slot x.nxt) 64 .load false false).isNone = true
      ∧ (sOld.engineRead cC 0 (x.slot x.nxt) 64).2.1 = bNop ∧ (sOld.engineRead cC 0 (x.slot x.nxt) 64).2.2.2 = [] ∧ x.genOf x.nxt ≠ (sOld.ctx 0).gen)
    ∧ (let m := Move.start tMapped
      m.over = false ∧ pageParts 0x20400 2 = [(0x20400, 2)] ∧ (m.s.probe (engineOf cC) 0 0x20400 2 .store false false).isNone = true
      ∧ m.s.touch (engineOf cC) 0 0x20400 true = m.s ∧ m.s.keyAt (engineOf cC) 0 0x20400 true = 0x20400
      ∧ m.s.asksStall (m.s.engineWaits (engineOf cC) 0 true [(0x20400, 2)]) = false ∧ ∀ k, k / 256 = 0x20400 / 256 → m.s.dropsStore k = false) := by
  refine ⟨by decide +kernel, by decide +kernel, by decide +kernel, by decide +kernel, by decide +kernel, by decide +kernel, by decide +kernel,
    touch_same (pte := 0x42000) (base := 0) (size := 2 ^ 30) (val := BitVec.ofNat 64 (1 + 2 + 4 + 8 + 32 + 2 ^ 52 + 2 ^ 53)) (by decide +kernel)
      (by decide +kernel) (by decide +kernel), by decide +kernel, by decide +kernel, noDrops_frame (by decide)⟩

/-- The chain after its first entry has started with a header. -/
def sDone (c : ChainRef) (h gen : Nat) (b : List Byte) : State := { tMapped with
  chains := [(chainKey c, { tOpen with nxt := 1, cwaddr := 0x20000, started := [⟨0, BitVec.ofNat 64 h, 0, gen, .ready, b, none⟩] })] }

/-- An earlier completion word of the chain that has not performed. -/
def cwFlight (c : ChainRef) : Flight := ⟨1, 0x20000, engineOf c, chainKey c, cwLane, 50, 0, 1, false, [], 0⟩

-- NOP, NOP with SG to semaphore 5, NOP with CW, with both, LINK, and a stale NOP.
theorem witness_entry_completion :
    (∀ q ∈ [((0 : Nat), (0 : Nat)), (0x300050200, 0), (0x100, 0), (0x300050300, 0), (6, 0), (0, 1)],
      let s := sDone cC q.1 q.2 bLink
      let e : Started := ⟨0, BitVec.ofNat 64 q.1, 0, q.2, .ready, bLink, none⟩
      (s.chain cC).started = e :: [] ∧ (s.chain cC).closing = false ∧ s.mayComplete cC e = true ∧ (s.ctx (s.chain cC).ctx).mode = .live)
    ∧ (∀ h ∈ [0x300050200, 0x300050300], ∀ fl ∈ [[], [cwFlight cC]],
      let s := { sDone cC h 0 [] with flight := fl }
      (Table.find s.teams ((s.chain cC).team cC)).isSome = true ∧ s.entrySem cC (bits h 16 16) = some (.live 5)
        ∧ s.semEnded ((s.chain cC).team cC) (bits h 31 1 == 1) (bits h 24 7) = false ∧ s.cwFlights cC (s.chain cC) = fl
        ∧ (∀ f ∈ fl, s.switched f.key = false) ∧ s.switched (s.keyAt (engineOf cC) 0 0x20000 true) = false)
    -- a completion word where nothing is mapped
    ∧ (let s := { tMapped with chains := [(chainKey cC, { tOpen with nxt := 1, cwaddr := 2 ^ 40, started := [⟨0, 0x100, 0, 0, .ready, [], none⟩] })] }
      let x := s.chain cC
      (x.started = ⟨0, 0x100, 0, 0, .ready, [], none⟩ :: [] ∧ x.closing = false ∧ s.mayComplete cC ⟨0, 0x100, 0, 0, .ready, [], none⟩ = true)
        ∧ s.cwWaits cC x = false ∧ x.cwaddr ≠ 0 ∧ max s.time 0 = s.time
        ∧ ∃ z, s.probe (engineOf cC) x.ctx x.cwaddr 8 .store true false = some z ∧ lossCause z.cause = false)
    ∧ (let s := sDone cC 0x100 0 []
      let x := s.chain cC
      s.cwWaits cC x = false ∧ x.cwaddr ≠ 0 ∧ x.cwaddr % 8 = 0 ∧ (s.probe (engineOf cC) x.ctx x.cwaddr 8 .store true false).isNone = true
      ∧ (∀ r, s.touch (engineOf cC) x.ctx x.cwaddr r = s)
      ∧ (let key := s.keyAt (engineOf cC) x.ctx x.cwaddr true
        key % 8 = 0 ∧ s.dropsStore key = false ∧ max s.time 0 = s.time))
    ∧ (sDone cC 0 1 []).time = 0 ∧ ((sDone cC 0 1 []).ctx 0).gen = 0 := by
  refine ⟨by decide +kernel, by decide +kernel,
    ⟨by decide +kernel, by decide +kernel, by decide +kernel, by decide +kernel, { cause := Cause.unmapped, addr := 2 ^ 40 }, by decide +kernel, by decide⟩,
    ⟨by decide +kernel, by decide +kernel, by decide +kernel, by decide +kernel, fun r => ?_, by decide +kernel⟩,
    by decide +kernel, by decide +kernel⟩
  cases r <;> exact touch_same (pte := 0x42000) (base := 0) (size := 2 ^ 30) (val := BitVec.ofNat 64 (1 + 2 + 4 + 8 + 32 + 2 ^ 52 + 2 ^ 53))
    (by decide +kernel) (by decide +kernel) (by decide +kernel)

def cP : ChainRef := .press 0
def cL : ChainRef := .coll 0 0
def cS : ChainRef := .svc 0 0
def bAppend : List Byte := entryBytes [(8, 0x10), (8, 0x20000), (4, 256), (4, 0), (8, 0x20400)]
def bTrim (keep : Nat) : List Byte := entryBytes [(8, 0x12), (8, keep)]
def bSvc : List Byte := entryBytes [(8, 0x30), (4, 7), (4, 0), (8, 0), (8, 0x20400)]

/-- A collective of one element of I32 in group 5, of an attempt. -/
def bColl (ty att : Nat) : List Byte := entryBytes [(8, ty), (2, 5), (2, att), (1, 0), (1, 3), (2, 0), (8, 0x20000), (8, 0x20400), (8, 1)]

theorem witness_press :
    (EntryAt (sE cP bAppend) (uE cP bAppend) cP 0x10 bAppend
      ∧ (let r := (Move.start (uE cP bAppend)).read cP 0 (wrap 64 (0x20000 + 256 * 0 : Nat)) 256
        let y := r.1.s.stream 0
        r.1.over = false ∧ 512 ≤ y.room
        ∧ (({ r.1 with s := { r.1.s with streams := r.1.s.streams } } : Move).write cP 0 0x20400 (leBytes (y.last + 1) 8) false).over = false))
    ∧ EntryAt (sE cP (entryBytes [(8, 0x11)])) (uE cP (entryBytes [(8, 0x11)])) cP 0x11 (entryBytes [(8, 0x11)])
    ∧ (∀ k ∈ [1, 2], EntryAt (sE cP (bTrim k)) (uE cP (bTrim k)) cP 0x12 (bTrim k) ∧ leField (bTrim k) 16 48 = 0)
    ∧ (((uE cP (bTrim 2)).stream 0).dseq + 1 < leField (bTrim 2) 8 8 ∧ WordSound (uE cP (bTrim 2)) cP)
    -- a trim past posted records
    ∧ (let s := { sE cP (bTrim 2) with streams := [(0, ⟨some 0, 2 ^ 31, 0, 65536, 3, 1, 0, 0, 3, 1536, []⟩)] }
      EntryAt s (taken s cP) cP 0x12 (bTrim 2) ∧ ((taken s cP).stream 0).trimseq < 2 ∧ 2 ≤ ((taken s cP).stream 0).dseq + 1)
    -- a record that does not fit
    ∧ (let s := { sE cP bAppend with streams := [(0, ⟨some 0, 2 ^ 31, 0, 256, 0, 1, 0, 0, 0, 0, []⟩)] }
      (s.stream 0).room < 512 ∧ WordSound s cP)
    -- a record that has been posted and stands where the next one goes, in a log that holds one
    ∧ (let r : PressRec := ⟨1, 0, 0, List.replicate 512 1⟩
      let y : Stream := ⟨some 0, 2 ^ 31, 0, 1024, 1, 2, 0, 512, 1, 1024, [r]⟩
      (if y.len < y.nextOff + 512 then 0 else y.nextOff) = 0 ∧ y.recs.any (fun q => q.meets 0 512) = true ∧ 512 ≤ y.room)
    ∧ (EntryAt (sE cS bSvc) (uE cS bSvc) cS 0x30 bSvc ∧ leField bSvc 12 4 = 0 ∧ leField bSvc 24 8 % 8 = 0 ∧ leField bSvc 32 32 = 0
      ∧ (sE cS bSvc).fw.pending = false ∧ ((Move.start (uE cS bSvc)).write cS 0 0x20400 (leBytes 5 8) false).over = false)
    ∧ (let s := { sE cS bSvc with fw := ⟨false, true, [], []⟩ }
      EntryAt s (taken s cS) cS 0x30 bSvc ∧ s.fw.pending = true) := by
  refine ⟨⟨entryOk_at (by decide +kernel), by decide +kernel⟩, entryOk_at (by decide +kernel), ?_, ⟨by decide +kernel, wordSound (by decide +kernel)⟩,
    ⟨entryGood_at (by decide +kernel), by decide +kernel⟩, ⟨by decide +kernel, wordSound (by decide +kernel)⟩, by decide +kernel,
    ⟨entryOk_at (by decide +kernel), by decide +kernel⟩, entryGood_at (by decide +kernel), by decide +kernel⟩
  have h : ∀ k ∈ [1, 2], entryOk cP 0x12 (bTrim k) = true ∧ leField (bTrim k) 16 48 = 0 := by decide +kernel
  exact fun k hk => ⟨entryOk_at (h k hk).1, (h k hk).2⟩

/-- One whose root is no rank of the group. -/
def bCollRoot : List Byte := entryBytes [(8, 0x20), (2, 5), (2, 7), (1, 0), (1, 3), (2, 0), (8, 0x20000), (8, 0x20400), (8, 1), (4, 2)]

/-- A write to fabric peer 3 that has not been acknowledged. -/
def tFabric (id : Nat) : Flight := ⟨id, 3 * 2 ^ 52 + 3 * 2 ^ 43, engineOf (.coll 0 0), chainKey (.coll 0 0), 0, 90, 0, 1, false, [], 0⟩

/-- Port 1 has delivered flits up to 7, and reaches peer 3. -/
def tPort : Port := ⟨7, 20, 20, 15, none, none, 0, 0xFFFF, false, 0, false, 4, [3]⟩

-- Collectives of the group's attempt, with the other rank's data here, and of another attempt; one without the data; one of no rank as its root;
-- acknowledgements.
theorem witness_collectives :
    (∀ q ∈ [(0x20, 7), (0x21, 7), (0x22, 7), (0x23, 7), (0x24, 7), (0x20, 6)],
      EntryAt (sE cL (bColl q.1 q.2)) (uE cL (bColl q.1 q.2)) cL q.1 (bColl q.1 q.2)
      ∧ (Table.find (uE cL (bColl q.1 q.2)).colls (collKey 0 5)).isSome = true ∧ (CollOp.of (bColl q.1 q.2) 2).isSome = true)
    ∧ (∀ ty ∈ [0x20, 0x21, 0x22, 0x23, 0x24], ∃ o, CollOp.of (bColl ty 7) 2 = some o ∧ o.ready ⟨2, 0, [], 7, [(1, [1, 0, 0, 0])], 0⟩ = true
      ∧ (let g : Coll := ⟨2, 0, [], 7, [(1, [1, 0, 0, 0])], 0⟩
        let q := (Move.start (uE cL (bColl ty 7))).readAll cL 0 0x20000 (o.reads g * o.w)
        q.1.over = false ∧ (q.1.writeAll cL 0 0x20400 (o.result g q.2)).over = false))
    ∧ WordSound (uE cL (bColl 0x20 6)) cL
    ∧ (∃ o, CollOp.of (bColl 0x20 7) 2 = some o ∧ o.ready ⟨2, 0, [], 7, [], 0⟩ = false)
    ∧ (EntryAt (sE cL bCollRoot) (uE cL bCollRoot) cL 0x20 bCollRoot
      ∧ Table.find (uE cL bCollRoot).colls (collKey 0 5) = some ⟨2, 0, [], 7, [(1, [1, 0, 0, 0])], 0⟩ ∧ CollOp.of bCollRoot 2 = none
      ∧ WordSound (uE cL bCollRoot) cL)
    ∧ (let e : Started := ⟨0, 0x24, 0, 0, .fabric [3, 4], [], none⟩
      let s : State := { tMapped with
        chains := [(chainKey cL, { tOpen with nxt := 1, started := [e] })], flight := [tFabric 2, tFabric 3, tFabric 4], ports := [(1, tPort)] }
      let acks : Flight → Prop := fun a => (∃ e ∈ (s.chain cL).started, ∃ ids, e.await = .fabric ids ∧ a.id ∈ ids) ∧ s.time < a.tv ∧ s.reaches a.key = true
      s.flight = [tFabric 2] ++ tFabric 3 :: [tFabric 4] ∧ acks (tFabric 3) ∧ (∀ q ∈ [tFabric 2], ¬ acks q)
        ∧ ∀ a ∈ ({ s with flight := [] } : State).flight, ¬ acks a) := by
  refine ⟨?_, ?_, wordSound (by decide +kernel), ⟨_, by rfl, by decide +kernel⟩,
    ⟨entryOk_at (by decide +kernel), by decide +kernel, by decide +kernel, wordSound (by decide +kernel)⟩, ?_⟩
  rotate_left 2
  · refine ⟨rfl, ⟨⟨_, .head _, [3, 4], rfl, by decide⟩, by decide +kernel, by decide +kernel⟩, fun q hq h => ?_, fun a ha => nomatch ha⟩
    obtain ⟨⟨e, he, ids, ha, hm⟩, -⟩ := h
    obtain rfl : q = tFabric 2 := by simpa using hq
    obtain rfl : e = ⟨0, 0x24, 0, 0, .fabric [3, 4], [], none⟩ := List.mem_singleton.mp he
    injection ha with ha
    subst ha
    revert hm
    decide
  · have h : ∀ q ∈ [(0x20, 7), (0x21, 7), (0x22, 7), (0x23, 7), (0x24, 7), (0x20, 6)], entryOk cL q.1 (bColl q.1 q.2) = true
        ∧ (Table.find (uE cL (bColl q.1 q.2)).colls (collKey 0 5)).isSome = true ∧ (CollOp.of (bColl q.1 q.2) 2).isSome = true := by decide +kernel
    exact fun q hq => ⟨entryOk_at (h q hq).1, (h q hq).2⟩
  · intro ty hty
    simp only [List.mem_cons, List.not_mem_nil, or_false] at hty
    rcases hty with rfl | rfl | rfl | rfl | rfl <;> exact ⟨_, by rfl, by decide +kernel⟩

-- Witnesses: events inside a core, and service.

/-- A fragment asleep in MWAIT on frame 0x200, with a deadline and a store on its way. -/
def fA : Fragment := { placeFragment with st := .asleep (.mwait 0x200 (some 100) (some 50)) }
/-- A parked remnant in the middle of a block of three iwords. -/
def fP (c : Nat) : Fragment := { placeFragment with hdr := 0xF1 <<< 56 ||| 3 <<< 46, idx := 0, st := .parked, cause := c }

-- A waiting fragment and a waiting chain at a semaphore that counts 6; MWAIT; a held release; a table walk; a poisoned walk; a lease; a halted
-- group; a range.
theorem witness_core_events :
    (∀ who ∈ [SemWaiter.frag 0 0, .chain cC], let q : SemWait := ⟨who, 5, 6, true, false, 0⟩
      (serveWaiters 5 6 [q]).2.1 = [q])
    ∧ (placeFragment.entered = true ∧ placeFragment.idx < Hdr.length placeFragment.hdr)
    ∧ ((tPaged gL fA).frag? 0 0 = some fA ∧ fA.entered = true ∧ fA.idx < Hdr.length fA.hdr)
    ∧ (let i : Instr := .fence ⟨gp, 0, 0, 0, 0, 9⟩
      let g : Group := { gL with held := some (0, i), horizon := 7 }
      let s := tPaged g placeFragment
      s.group? 0 0 = some g ∧ g.held = some (0, i) ∧ g.loads = [] ∧ g.fence = none ∧ s.frag? 0 0 = some placeFragment
      ∧ Table.find s.teams g.tid = some tTeam)
    ∧ (let g : Group := { gL with fence := some 2, horizon := 7 }
      let s : State := { tPaged g placeFragment with time := 9 }
      s.group? 0 0 = some g ∧ g.held = none ∧ g.fence = some 2 ∧ g.loads = [] ∧ g.horizon ≤ s.time)
    ∧ (tMapped.walk 0 0x30000 = .leaf 0x42000 0 (2 ^ 30) (BitVec.ofNat 64 (1 + 2 + 4 + 8 + 32 + 2 ^ 52 + 2 ^ 53)) ∧ ({ tMapped with tlb := [] }).tlbHit 0 0 0x30000 = none)
    ∧ ({ tMapped with poison := [0x4100] }.walk 0 0x30000 = .poisoned Cause.hbmUncorr ∧ (tMapped.ctx 0).mode = .live)
    ∧ (let b : Bolt := ⟨0, 0x200, 0, 16, false, 0, 0, 0, 3, some 515⟩
      let s := { sL with bolts := [b, { b with frame := 0x201 }] }
      (∃ b ∈ s.bolts, b.cache = 0 ∧ b.frame = 0x200 ∧ b.owned = false ∧ b.lease = some 515)
      ∧ ∀ b ∈ s.bolts, ∀ x, (b.cache = 0 ∧ b.frame = 0x200 ∧ b.owned = false ∧ b.lease = some x) → 515 ≤ x)
    ∧ (let g : Group := { gL with halted := some (0, 1) }
      let s := tPaged g (fP Cause.handle)
      s.group? 0 0 = some g ∧ g.halted = some (0, 1) ∧ s.frag? 0 0 = some (fP Cause.handle) ∧ (fP Cause.handle).inBlock ∧ 1 ≤ (s.pool 0).length)
    ∧ (let g : Group := { gL with rangeOp := some ⟨true, 0, 0x20000, 256⟩ }
      let s := { tMapped with groups := [(0, g)] }
      s.group? 0 0 = some g ∧ g.rangeOp = some ⟨true, 0, 0x20000, 256⟩ ∧ Table.find s.teams g.tid = some tTeam ∧ s.spans 0 0x20000 256 = [(0x20000, 256)]
      ∧ s.asksStall ((s.spans 0 0x20000 256).flatMap (s.flushAsks 0 0 ⟨true, 0, 0x20000, 256⟩)) = false) := by
  and_intros
  any_goals decide +kernel
  · simp
  · exact fun _ => by decide +kernel

theorem witness_service :
    (let f := fP Cause.translation
      let s : State := { sC with frags := [(0, f)], ctxs := Table.put sC.ctxs 0 { sC.ctx 0 with limit := 1000, ring := some { tRing with cons := 2 } } }
      s.frag? 0 0 = some f ∧ f.st = .parked ∧ s.fragId 0 0 = (0 : BitVec 8).toNat ∧ s.group? 0 f.slot = some gC
      ∧ f.inBlock ∧ f.noInstr = false ∧ f.entered = true ∧ f.idx + f.iwords < Hdr.length f.hdr
      ∧ (s.checkTarget 0 (s.ctxAt 0 0) 0x10000).isNone = true
      ∧ s.checkTarget 0 (s.ctxAt 0 0) 0x10008 = some { cause := Cause.badTarget, addr := 0x10008 } ∧ lossCause Cause.badTarget = false
      ∧ (s.ctx (s.ctxAt 0 0)).limit ≠ 0
      ∧ (let r : Ring := { tRing with cons := 2 }
        (s.ctx (s.ctxAt 0 0)).ring = some r ∧ r.prod - r.cons < 2 ^ r.n - 1 ∧ s.poisonIn (r.key + 64 * (r.prod % 2 ^ r.n)) 64 = none
        ∧ ∀ i < 64, s.dropsStore (r.key + 64 * (r.prod % 2 ^ r.n) + i) = false))
    ∧ ({ fP Cause.translation with noInstr := true } : Fragment).noInstr = true
    ∧ (let k : SavedTeam := ⟨tTeam, [(0, gC)], [(3, fP Cause.handle)], [], [], [], [], [], [], [], false⟩
      let r : Ring := { tRing with cons := 2 }
      let s : State := { sC with
        teams := [], groups := [], frags := [], saved := [(0, k)], ctxs := Table.put sC.ctxs 0 { sC.ctx 0 with limit := 1000, ring := some r } }
      s.parkedAt 0 3 = none ∧ s.savedAt 0 3 = some (0, k) ∧ Table.find k.frags ((3 : BitVec 8).toNat % 64) = some (fP Cause.handle)
      ∧ (s.ctx k.team.ctx).limit ≠ 0 ∧ (s.ctx k.team.ctx).ring = some r ∧ r.prod - r.cons < 2 ^ r.n - 1
      ∧ s.poisonIn (r.key + 64 * (r.prod % 2 ^ r.n)) 64 = none)
    -- a context that runs, one that is not in use, and one that does not exist
    ∧ (0 < 1024 ∧ (sC.ctx 0).mode ≠ .free ∧ (sC.ctx 5).mode = .free ∧ 1024 ≤ 1024 ∧ sC.flight = []) := by
  and_intros
  any_goals decide +kernel
  exact fun _ => by decide +kernel

-- A team asked to stop, one that is stuck, one that is not, and one of a frozen context.
theorem witness_saving :
    (let tm : Team := { tTeam with stopping := true }
      let s : State := { sC with teams := [(0, tm)] }
      Table.find s.teams 0 = some tm ∧ tm.stopping = true ∧ (s.ctx tm.ctx).mode ≠ .frozen ∧ s.slotsOf 0 0 = [0] ∧ (∀ k ∈ s.slotsOf 0 0, s.quiesce 0 k = s ∧ s.stopped 0 k = true) ∧ s.chainsOf 0 0 = [])
    ∧ (let tm : Team := { tTeam with stuck := some 0 }
      let s : State := { sC with teams := [(0, tm)], frags := [(0, fP Cause.handle)], time := 2 ^ 24 }
      Table.find s.teams 0 = some tm ∧ (s.stuckNow 0 0 = true ∧ (∃ t0, tm.stuck = some t0 ∧ t0 + (s.ctx tm.ctx).descT ≤ s.time) ∧ (s.ctx tm.ctx).mode = .live)
      ∧ s.peersOf tm.cluster = [0] ∧ s.slotsOf 0 0 = [0] ∧ (∀ k ∈ s.slotsOf 0 0, s.quiesce 0 k = s ∧ s.stopped 0 k = true) ∧ s.chainsOf 0 0 = [])
    ∧ (Table.find sC.teams 0 = some tTeam ∧ sC.stuckNow 0 0 = false)
    ∧ (({ sC with ctxs := Table.put sC.ctxs 0 { sC.ctx 0 with mode := .frozen } }).ctx tTeam.ctx).mode = .frozen := by
  have h0 : ∀ k ∈ [0], k = 0 := by simp
  refine ⟨⟨by decide +kernel, rfl, by decide +kernel, by decide +kernel, fun k hk => ?_, by decide +kernel⟩,
    ⟨by decide +kernel, ⟨by decide +kernel, ⟨0, rfl, by decide +kernel⟩, by decide +kernel⟩, by decide +kernel, by decide +kernel, fun k hk => ?_,
      by decide +kernel⟩, by decide +kernel, by decide +kernel⟩
  · obtain rfl := h0 k hk
    exact ⟨rfl, by decide +kernel⟩
  · obtain rfl := h0 k hk
    exact ⟨rfl, by decide +kernel⟩

-- Witnesses: translation, flash, the Press.

theorem witness_translation :
    (Pte.x 0x10 = true ∧ Pte.x 0xC = false)
    ∧ ((∀ e ∈ [((0x42000 : Nat), (0xF : Dword)), (0x42008, 7)], Pte.x e.2 = false)
      ∧ [((0x42000 : Nat), (0xF : Dword)), (0x42008, 7)].Pairwise (fun a b => a.1 + 8 ≤ b.1 ∨ b.1 + 8 ≤ a.1))
    ∧ (let i : Inval := ⟨0, 0x20000, 4096, some 0⟩
      let s := { tMapped with invals := [i], mem := tMapped.mem.writes 0x42000 (leBytes (1 + 2 + 4 + 8 + 32 + 256 + 2 ^ 52 + 2 ^ 53) 8) }
      s.invals.find? (fun i => i.ctx == 0 && i.start == (0x20000 : Dword).toNat && i.len == (4096 : Dword).toNat) = some i ∧ i.publish.isSome = true
      ∧ s.shadowed 0 0x20000 4096 = [0x42000])
    ∧ (∀ c ∈ [Cause.flashWait, Cause.flashStall],
      let f : Fragment := { fP c with blocks := [[9]] }
      let s := { sC with frags := [(0, f)], reading := [9], busy := [] }
      s.reading.contains 9 = true ∧ s.busy.contains 9 = false ∧ s.frags.filter (fun e => e.2.st == .parked && e.2.cause == c) = [(0, f)]
      ∧ Table.find s.frags 0 = some f ∧ f.inBlock ∧ (∃ l ∈ f.blocks, l ≠ [] ∧ ∀ x ∈ l, x = 9) ∧ (∃ l ∈ f.blocks, 9 ∈ l)) := by
  refine ⟨by decide, by decide, by decide +kernel, fun c hc => ?_⟩
  simp only [List.mem_cons, List.not_mem_nil, or_false] at hc
  rcases hc with rfl | rfl
  all_goals exact ⟨by decide +kernel, by decide +kernel, by decide +kernel, by decide +kernel, fun _ => by decide +kernel, ⟨[9], .head _, by simp⟩,
    ⟨[9], .head _, by simp⟩⟩

theorem witness_press_streams :
    (let r : PressRec := ⟨1, 0, 0, [1, 2, 3]⟩
      let x : Stream := ⟨some 0, 2 ^ 31, 0, 2 ^ 20, 0, 1, 0, 0, 1, 3, [r]⟩
      x.recs.find? (fun r => r.seq == x.dseq + 1) = some r ∧ x.pa + 4096 + x.len ≤ 2 ^ 52 ∧ r.off + r.bytes.length ≤ x.len ∧ r.skip ≤ x.len
      ∧ x.ctx.isSome = true)
    ∧ (sV.stream 3).ctx = none ∧ (sV.stream 3).recs = [] ∧ (sV.ctx 0).mode ≠ .free ∧ (sV.ctx 5).mode = .free ∧ regionGood 3 (2 ^ 31) 0x1000 (2 ^ 20) = true ∧ regionGood 3 1 0x1000 (2 ^ 20) = false
    ∧ (let s : State := { sV with streams := [(3, { Stream.fresh with pa := 0x1000, len := 2 ^ 20 })] }
      (s.stream 3).ctx = none ∧ (s.stream 3).pa = 0x1000 ∧ (s.stream 3).len = 2 ^ 20)
    ∧ (let s : State := { tMapped with chains := [(chainKey cP, { tOpen with started := [⟨0, 0, 0, 0, .ready, [], none⟩] })] }
      (s.stream 0).ctx.isSome = true ∧ (s.chain cP).isOpen = true ∧ (s.chain cP).stopped = false ∧ (tMapped.chain cP).isOpen = false
      ∧ WordSound s cP) := by
  and_intros
  any_goals decide +kernel
  exact wordSound (by decide +kernel)

-- Witnesses: the Cutter. The context's tables also map 2^30 and up for fetching; the header at 0x10000 of memory is the kernels' entry.

/-- A launch node's descriptor: entry, flags, predecessors, cluster width, clusters, dies, where it reports, its successors. -/
def nodeDesc (entry flags pred cwid nclus dies doneAt succ : Nat) : List Byte :=
  leBytes entry 8 ++ leBytes flags 4 ++ leBytes pred 2 ++ leBytes 64 2 ++ leBytes cwid 2 ++ leBytes 1 1 ++ leBytes 2 1 ++ leBytes nclus 4 ++ leBytes 1 2
    ++ leBytes dies 1 ++ leBytes 2 1 ++ leBytes 0 4 ++ leBytes doneAt 8 ++ leBytes (if dies = 0 then 0x20000 else 0) 8 ++ leBytes 0 8 ++ leBytes succ 8
    ++ List.replicate 64 0

def tNode (desc : List Byte) (st : NodeSt) : Node := ⟨0, 0x20800, desc, st, 0, 1023, none, 0, 1, 0, 0, 0, 0, 0, false, false, 0, 0, []⟩

/-- A device without teams, whose context 0 may use cores 0 to 3 of tenancy 0, with these nodes. -/
def sN (ns : Table Node) : State := { tMapped with
  mem := tMapped.mem.writes 0x42008 (leBytes (1 + 2 + 4 + 16 + 32 + 2 ^ 52) 8), tlb := [], teams := [], groups := [], frags := [], handles := [],
  cur := none, accept := some 0xFF, nodes := ns, order := 9,
  ctxs := Table.put tMapped.ctxs 0 { tMapped.ctx 0 with alloc := [0, 1, 2, 3] }, tens := [(0, { tMapped.ten 0 with quota := 720, weight := 1 })] }

def nClosed : Node := tNode (nodeDesc 0x40010000 0 0 1 1 0 0 0) .ready
def nOpen : Node := tNode (nodeDesc 0x40010000 512 0 2 3 1 0 0) .ready
def nHost : Node := tNode (nodeDesc 0 1024 0 0 0 0 0 0) .ready
def nEngine : Node := tNode (nodeDesc 0x20100 2048 0 0 0 1 0 0) .ready
def nBad : Node := tNode (nodeDesc 0x40010000 0 0 13 1 0 0 0) .ready

theorem witness_dispatch :
    -- a submission, one that is refused, and one into a full pool
    (let s : State := sN [];
      s.accept.isSome = true ∧ (s.ctx 0).mode = .live ∧ (0x20800 : Dword).toNat % 128 = 0 ∧ s.poolAccepts = true
      ∧ (s.probe hostCore 0 0x20800 128 .load false false).isNone = true ∧ (s.loadVa hostCore 0 0 0x20800 128).2.2 = [])
    ∧ (sN []).probe hostCore 0 (2 ^ 40) 128 .load false false = some { cause := Cause.unmapped, addr := 2 ^ 40 } ∧ lossCause Cause.unmapped = false
    ∧ (0x20808 : Dword).toNat % 128 ≠ 0 ∧ ({ sN [] with credits := [(5, 16384)] }).poolAccepts = false
    -- a node of the host's
    ∧ (nHost.exec = 1 ∧ nClosed.exec ≠ 1 ∧ Table.find (sN [(7, { nHost with st := .placed })]).nodes 7 = some { nHost with st := .placed })
    -- the Cutter's choice
    ∧ (∀ n ∈ [nClosed, nOpen, nHost, nEngine, nBad], (let s := sN [(7, n)]
      Table.find s.nodes 7 = some n ∧ (s.ctx n.ctx).mode = .live ∧ n.st = .ready ∧ s.pickNode.map (fun k => (k.1, k.2.nid)) = some (0, 7) ∧ s.outranked 0 = false))
    ∧ (sN [(6, nClosed), (7, { nClosed with order := 2 })]).pickNode.map (fun k => (k.1, k.2.nid)) = some (0, 6)
    ∧ (sN [(7, nBad)]).verdict nBad = .fail { cause := 0x200 }
    ∧ (let s : State := { sN [(7, nClosed)] with poison := [0x4200] };
      s.verdict nClosed = .lost [(Cause.hbmUncorr, 2 ^ 64)] ∧ s.pickNode.map (fun k => (k.1, k.2.nid)) = some (0, 7))
    ∧ (sN [(7, nHost)]).verdict nHost = .good []
    ∧ (nEngine.exec = 2 ∧ (sN [(7, nEngine)]).verdict nEngine = .good [])
    ∧ (nClosed.exec = 0 ∧ nClosed.isOpen = false ∧ (let s := sN [(7, nClosed)]
      s.verdict nClosed = .good [0] ∧ (s.inQuota nClosed (s.seatAll 7 nClosed [0] 0)).isSome = true ∧ (s.seat 7 nClosed 0 0 0).isSome = true))
    ∧ (nOpen.exec = 0 ∧ nOpen.isOpen = true ∧ (let s := sN [(7, nOpen)]
      s.verdict nOpen = .good [] ∧ (s.placeCluster 7 nOpen 0).isSome = true))
    ∧ (let n : Node := { nOpen with st := .placed, next := 1 }
      let s := sN [(7, n)]
      (s.placeCluster 7 n 2).isSome = true ∧ (s.placeCluster 7 n 3).isSome = false) := by
  and_intros <;> decide +kernel

/-- A node that is over and reports at 0x20000; one that reports at semaphore 5 of team 0. -/
def nDone : Node := { tNode (nodeDesc 0x40010000 0 0 1 1 0 0x20000 0) .done with horizon := 40 }
def nSem : Node := { tNode (nodeDesc 0x40010000 4096 0 1 1 0 5 0) .done with team := some 0, origin := 0 }
/-- The same, of the team of number 0 in the cluster. -/
def nPeer : Node := { nSem with desc := nodeDesc 0x40010000 4096 0 1 1 0 (2 ^ 15 + 5) 0 }

theorem witness_node_complete :
    (let s : State := sN [(7, nDone)];
      Table.find s.nodes 7 = some nDone ∧ s.nodeOver 7 nDone = true ∧ (s.ctx nDone.ctx).mode = .live ∧ nDone.nsucc = 0 ∧ nDone.csem = false
      ∧ s.invalidating 0 nDone.doneAt = false ∧ nDone.doneAt ≠ 0 ∧ nDone.doneAt % 8 = 0
      ∧ (s.probe hostCore 0 nDone.doneAt 8 .store true false).isNone = true ∧ (∀ r, s.touch hostCore 0 nDone.doneAt r = s)
      ∧ (let key := s.keyAt hostCore 0 nDone.doneAt true
        key % 8 = 0 ∧ s.dropsStore key = false) ∧ (s.ctx 0).ring = none ∧ s.orphans = [] ∧ s.acked nDone.acks = true ∧ s.poolUsed ≤ 16384)
    ∧ (sN []).probe hostCore 0 (2 ^ 40) 8 .store true false = some { cause := Cause.unmapped, addr := 2 ^ 40 }
    -- one that reports at a semaphore, of a team that stands, that has ended, or that it names in the cluster
    ∧ (∀ n ∈ [nSem, nPeer], ∀ gs ∈ [[(0, gL)], []],
      let s := { sN [(7, n)] with teams := [(0, tTeam)], groups := gs }
      Table.find s.nodes 7 = some n ∧ s.nodeOver 7 n = true ∧ (s.ctx n.ctx).mode = .live ∧ n.nsucc = 0 ∧ n.csem = true
      ∧ s.orphans = [] ∧ s.acked n.acks = true ∧ s.poolUsed ≤ 16384 ∧ s.doneTeam n = some 0 ∧ n.team.isSome = true ∧ s.teamEnded 0 = gs.isEmpty
      ∧ s.semRef 0 false 0 (bits n.doneAt 0 6) = some (.live 5) ∧ bits n.doneAt 15 1 = (if n = nPeer then 1 else 0)
      ∧ (s.teams.find? (fun e => e.2.cluster == nPeer.cluster && e.2.num == bits nPeer.doneAt 8 7)).isSome = true)
    ∧ (let n := tNode (nodeDesc 0x40010000 0 2 1 1 0 0 0) .waiting
      (sN [(7, { n with pred := 2 })]).nodes.find? (fun e => e.2.ctx == 0 && e.2.addr == 0x20800 && e.2.st == .waiting && e.2.pred != 0) = some (7, { n with pred := 2 })
      ∧ (sN [(7, nDone)]).nodes.find? (fun e => e.2.ctx == 0 && e.2.addr == 0x20800 && e.2.st == .waiting && e.2.pred != 0) = none) := by
  and_intros
  any_goals decide +kernel
  intro r
  cases r <;> exact touch_same (pte := 0x42000) (base := 0) (size := 2 ^ 30) (val := BitVec.ofNat 64 (1 + 2 + 4 + 8 + 32 + 2 ^ 52 + 2 ^ 53))
    (by decide +kernel) (by decide +kernel) (by decide +kernel)

/-- A team of a node that may be pre-empted holds all of core 0's semaphores. -/
def sPre : State := { sN [(7, nClosed), (8, { tNode (nodeDesc 0x40010000 (5 + 32) 0 1 1 0 0 0) .placed with order := 3 })] with
  teams := [(3, { tTeam with node := 8, semCnt := 64, handles := [] })] }

/-- A saved team of one group with one fragment. -/
def tSaved (ready : Bool) : SavedTeam := ⟨{ tTeam with node := 8, handles := [] }, [(0, gL)], [(0, fA)], [], [], List.replicate 8 3, [], [], [], [], ready⟩

/-- It is of a node of PRIO 0; a node of PRIO 5 waits to be dispatched. -/
def nLater : Node := { tNode (nodeDesc 0x40010000 5 0 1 1 0 0 0) .ready with order := 2 }
def sRes (r : Bool) : State := { sN [(7, nLater), (8, { nClosed with st := .placed })] with saved := [(0, tSaved r)] }

theorem witness_preempt_and_restore :
    (Table.find sPre.nodes 7 = some nClosed ∧ nClosed.st = .ready ∧ (sPre.ctx 0).mode = .live ∧ sPre.placeable 7 nClosed = false
      ∧ sPre.choiceGood nClosed [3] = true)
    ∧ (∀ r ∈ [true, false], (let s := sRes r
      let k := tSaved r
      Table.find s.saved 0 = some k ∧ k.ready = r ∧ s.canRestore 0 0 k = true ∧ k.pending = [] ∧ k.waits = [] ∧ (k.groups.map Prod.fst).Nodup ∧ (k.frags.map Prod.fst).Nodup
      ∧ (∀ e ∈ k.groups, e.1 < 16) ∧ (∀ e ∈ k.frags, e.1 < 64) ∧ k.sems.length = k.team.semCnt ∧ k.team.semBase + k.team.semCnt ≤ 64))
    ∧ ({ sN [] with lostDies := [0] }).canRestore 0 0 (tSaved true) = false
    -- its node's turn has come, and goes before the other node; on the first core there is room, and none on a core of another die
    ∧ (let s := sRes true
      let k := tSaved true
      let n : Node := { nClosed with st := .placed }
      Table.find s.nodes k.team.node = some n ∧ (s.ctx n.ctx).mode = .live ∧ s.outranked (s.prioSaved k) = false ∧ s.prioSaved k = 0
      ∧ (s.inQuota n (s.restoreCluster 0 0)).isSome = true ∧ (s.inQuota n (s.restoreCluster 0 200)).isNone = true ∧ s.queued k.team = [(0, k)]
      ∧ rectCore (s.widthOf k.team.node) 0 k.team.num k.team.num = some 0
      ∧ s.pickNode.map (fun k => (k.1, k.2.nid)) = some (5, 7) ∧ s.outranked 5 = true)
    ∧ (let q : SvcReq := ⟨1, 2, 0x20000, false⟩
      let s := (sN []).updCtx 0 (fun x => { x with svcq := [q] })
      let u : State := s.updCtx 0 (fun x => { x with svcq := [] })
      let key := u.keyAt hostCore 0 0x20000 true
      (s.ctx 0).svcq = q :: [] ∧ s.fw.pending = false ∧ ({ s with fw := ⟨false, true, [], []⟩ } : State).fw.pending = true ∧ q.old = false
      ∧ s.invalidating 0 q.reply.toNat = false
      ∧ (u.probe hostCore 0 0x20000 8 .store true false).isNone = true ∧ key % 8 = 0 ∧ u.dropsStore key = false
      ∧ u.touch hostCore 0 0x20000 true = u) := by
  and_intros
  any_goals decide +kernel
  exact touch_same (pte := 0x42000) (base := 0) (size := 2 ^ 30) (val := BitVec.ofNat 64 (1 + 2 + 4 + 8 + 32 + 2 ^ 52 + 2 ^ 53))
    (by decide +kernel) (by decide +kernel) (by decide +kernel)

-- Witnesses: homes, ranges, patterns, management.

/-- A frame of a fabric peer's, which the home die reaches through the switch. -/
def fSw : Nat := 3 * 2 ^ 44

theorem witness_home :
    -- a request of die 1, one that no requester makes, one through the switch, and one there beside 64 sharers
    (let r : HomeReq := ⟨0x200, 1, 0⟩;
      sV.knows r = true ∧ (∀ e < 12, sV.crowded e r = false) ∧ sV.masked 0x200 = false ∧ (sV.dir 0x200).held = []
      ∧ sV.switched (0x200 * 256) = false ∧ sV.knows ⟨0x200, 9, 0⟩ = false)
    ∧ (let s : State := { sV with dirs := [(fSw, { Dir.empty with st := 1, sharers := List.range 64 })] }
      s.knows ⟨fSw, 7, 0⟩ = true ∧ s.switched (fSw * 256) = true ∧ (s.dir fSw).sharers ≠ [] ∧ s.masked fSw = false ∧ (s.dir fSw).held = []
      ∧ s.crowded 0 ⟨fSw, 7, 0⟩ = false ∧ s.crowded 0 ⟨fSw, 70, 0⟩ = true)
    -- a rule that stalls, and one that does not
    ∧ bits ((sV.patternAt 0).at 0 12).toNat 14 1 = 1 ∧ bits ((sV.patternAt 0).at 0 0).toNat 14 1 = 0
    -- a push that stands first for its frame at its die, and one that does not
    ∧ (let p : Push := ⟨1, 0x20004, 7, 3, 90, false⟩
      let s := { sV with pushes := [p, { p with key := 0x20008 }] }
      let first : Nat → Nat → Option Push := fun die key => s.pushes.find? (fun p => p.die == die && p.key / 256 == key / 256)
      first 1 0x20004 = some p ∧ first 1 0x20008 = some p ∧ p.key ≠ 0x20008 ∧ first 2 0x20004 = none) := by decide +kernel

theorem find_replicate {α : Type} (k j n : Nat) (v : α) (h : k ≠ j) : Table.find (List.replicate n (k, v)) j = none := by
  induction n with
  | zero => rfl
  | succ n ih => simp only [List.replicate_succ, Table.find, ih]; split <;> simp_all

-- The switch is full, however many frames it tracks.
theorem witness_switch_full :
    ∃ (s : State) (r : HomeReq), s.switched (r.frame * 256) = true ∧ (s.dir r.frame).sharers = [] ∧ Config.switchFrames < s.tracked.length := by
  refine ⟨{ sV with dirs := List.replicate (Config.switchFrames + 1) (fSw, { Dir.empty with sharers := [0] }) }, ⟨fSw + 1, 1, 0⟩, by rfl, ?_, ?_⟩
  · unfold State.dir Table.getD
    rw [find_replicate _ _ _ _ (by decide)]
    rfl
  · have h : State.switched { sV with dirs := List.replicate (Config.switchFrames + 1) (fSw, { Dir.empty with sharers := [0] }) } (fSw * 256) = true := by
      rfl
    simp only [State.tracked, List.filter_replicate, h]
    simp

/-- The words of a range of tenancy 3: the page at 0x20000, under pattern 1. -/
def tRange : Dword × Dword × Dword := (0x20000, 0x21000, BitVec.ofNat 64 (1 + 1 * 16 + 3 * 1024))

/-- An image of one state, which stalls every event. -/
def tImage : List Byte :=
  List.replicate 16 0 ++ [0x10] ++ List.replicate 15 0 ++ (List.range 16).flatMap (fun _ => [0, 0x40, 0, 0]) ++ List.replicate 960 0

def sI : State := { sV with mem := sV.mem.writes 0x30000 tImage, plsrc := 0x30000, accept := some 0xFF }

theorem witness_ranges_and_patterns :
    -- a write that is accepted, one to an entry past the table, and a frame that the new range covers
    (let e := rangeEntry tRange.1 tRange.2.1 tRange.2.2;
      ¬ (64 ≤ 2) ∧ e.ten = 3 ∧ (Table.find sV.ranges 2).isNone = true ∧ sV.rangeRefused 2 tRange.1 tRange.2.1 tRange.2.2 0 = false
      ∧ tRange.2.2.getLsbD 0 = true ∧ e.covers 0x200 = true ∧ e.covers 0x20F = true ∧ e.covers 0x210 = false ∧ sV.dirs = [])
    ∧ sV.rangeRefused 2 tRange.2.1 tRange.1 tRange.2.2 0 = true
    -- a command without GO, one while the feature is not accepted, an image that is good, one for a standard slot
    ∧ (0x30007 : BitVec 32).getLsbD 31 = false ∧ (0x80030007 : BitVec 32).getLsbD 31 = true ∧ sV.feature 1 = false ∧ sI.feature 1 = true
    ∧ bits (0x80030007 : BitVec 32).toNat 0 4 = 7 ∧ bits (0x80030007 : BitVec 32).toNat 16 6 = 3
    ∧ sI.mem.reads (keyOf 0 sI.plsrc.toNat) 1056 = tImage
    ∧ sI.imageBad 7 3 tImage = none ∧ sI.imageBad 5 3 tImage = some (0x08, none) ∧ sI.imageBad 7 3 (tImage.set 35 0xF0) = some (0x01, some 0) := by
  and_intros <;> decide +kernel

/-- A device whose page at 0x20000 is a device-shared range, and maps at its own address. -/
def sShared : State := { tMapped with ranges := [(0, ⟨true, 0x20, 0x21, 0, 0, 0, true⟩)], bolts := [] }

-- What a context needs to be given to tenancy 2, a request's context and one that another tenancy holds, a node of the host's; host threads' accesses.
theorem witness_management :
    (let s : State := { sV with tens := [(2, { sV.ten 2 with contexts := 4 })] };
      (5 < 1024 ∧ (2 : Dword).toNat < 64 ∧ (s.ctx 5).mode = .free ∧ s.held 2 < (s.ten 2).contexts) ∧ ¬ (s.ctx 0).mode = .free)
    ∧ (sV.accept = none ∧ sI.accept = some 0xFF)
    -- a register that does not exist; and of the CXL windows no other is set
    ∧ (regExists (.lease 1024) = false ∧ regExists (.lease 5) = true)
    ∧ (sV.cxl.Pairwise (fun a b => a.1 < b.1) ∧ (sV.cxl.filter (fun e => e.1 != 2)).foldl (fun n e => n + e.2.window) 0 = 0)
    ∧ ((sV.ctx 0).mode ≠ .free ∧ (sV.ctx 0).ten = 0 ∧ (sV.ctx 0).ten ≠ 1)
    ∧ (sV.collRefused 0 9 4 3 [] = false ∧ sV.collRefused 0 9 4 4 [] = true) ∧ 64 ≤ 70 ∧ 5 < 64
    ∧ ((sShared.ctx 0).mode ≠ .free ∧ (sShared.ctx 0).ten = 0 ∧ sShared.probe hostCore 0 0x20000 8 .load false false = none
      ∧ sShared.probe hostCore 0 0x20000 8 .store false false = none ∧ sShared.probe hostCore 0 0x21000 8 .load false false = none
      ∧ sShared.probe hostCore 0 0x21000 8 .store false false = none
      ∧ sShared.hostShared 0 0x20000 8 = true ∧ sShared.hostShared 0 0x21000 8 = false ∧ pageParts 0x20000 8 = [(0x20000, 8)]
      ∧ sShared.touchAll hostCore 0 0x20000 8 false = sShared ∧ sShared.touch hostCore 0 0x20000 true = sShared
      ∧ (let u := (sShared.partsAt hostCore 0 0x20000 8).foldl (fun s p => s.engineFetch hostCore 0 p.1 p.2) sShared
        (u.loadVa hostCore hostSlot 0 0x20000 8).2.2 = [])
      ∧ (let key := sShared.keyAt hostCore 0 0x20000 true
        key % 256 + 8 ≤ 256 ∧ sShared.dropsStore key = false))
    ∧ (let n := tNode (leBytes 0 8 ++ leBytes 1024 4 ++ List.replicate 116 0) .placed
      let s : State := { sV with nodes := [(7, n)] }
      Table.find s.nodes 7 = some n ∧ n.ctx = 0 ∧ n.exec = 1 ∧ n.st = .placed) := by
  have h : ∀ r, sShared.touch hostCore 0 0x20000 r = sShared := fun r => by
    cases r <;> exact touch_same (pte := 0x42000) (base := 0) (size := 2 ^ 30) (val := BitVec.ofNat 64 (1 + 2 + 4 + 8 + 32 + 2 ^ 52 + 2 ^ 53))
      (by decide +kernel) (by decide +kernel) (by decide +kernel)
  refine ⟨by decide +kernel, by decide +kernel, by decide +kernel, by decide +kernel, by decide +kernel, by decide +kernel, by decide, by decide,
    ⟨by decide +kernel, by decide +kernel, by decide +kernel, by decide +kernel, by decide +kernel, by decide +kernel, by decide +kernel, by decide +kernel,
      by decide +kernel, ?_, h true, by decide +kernel, by decide +kernel⟩, by decide +kernel⟩
  rw [State.touchAll, show pageParts 0x20000 8 = [(0x20000, 8)] by decide +kernel]
  exact h false

/-- A container of one code segment of 8 bytes for a page at 2^31: header, descriptor, body, key. -/
def tContainer (va : Nat) : List Byte :=
  ([0x53, 0x57, 0x46, 0x43] ++ leBytes 1 4 ++ leBytes 1 2 ++ leBytes 0 6 ++ leBytes 2640 8 ++ leBytes 1312 4 ++ leBytes 0 4 ++ leBytes 64 8 ++ leBytes 0 24)
    ++ (leBytes 0 8 ++ leBytes va 8 ++ leBytes 8 8 ++ leBytes 2624 8 ++ leBytes 0 4 ++ leBytes 2624 4 ++ List.replicate 2520 0)
    ++ [1, 2, 3, 4, 5, 6, 7, 8] ++ List.replicate 8 0 ++ List.replicate 1312 0x5A

/-- A device whose context 0 has a level-0 entry for the page at 2^31. -/
def sB : State := { sV with
  mem := ((((sV.mem.writes 0x40000 (leBytes 0x41001 8)).writes 0x41000 (leBytes 0x42001 8)).writes 0x42010 (leBytes 0x43001 8)).writes 0x43000
    (leBytes 0x44001 8)).writes 0x44000 (leBytes (0x50000 + 1 + 2 + 32) 8),
  ctxs := Table.put sV.ctxs 0 { sV.ctx 0 with root := 0x40000 } }

-- Whether the key hashes to its fuse and the segment measures and verifies is for SHA3-256, the fuses and ML-DSA-44, which the model leaves open.
theorem witness_containers :
    (let f := tContainer (2 ^ 31)
      let x := segmentAt f 64;
      (sB.ctx 0).mode ≠ .free ∧ containerBad f = false ∧ descriptorsOf f = [64] ∧ x.body.length = 8 ∧ x.kind = 0 ∧ x.pages = [2 ^ 31]
      ∧ sB.placesSegment 0 x = true ∧ sB.pageEntry 0 (2 ^ 31) = some (0x44000, 0x50023) ∧ 0x44000 + 8 ≤ keyOf (Pte.tier 0x50023) (Pte.pa 0x50023)
      ∧ x.rel = [] ∧ sB.revoked = [])
    ∧ (let f := tContainer (2 ^ 30)
      containerBad f = false ∧ ¬ ∀ x ∈ (descriptorsOf f).map (segmentAt f), sB.placesSegment 0 x = true)
    ∧ (sB.ctx 5).mode = .free ∧ containerBad [] = true := by decide +kernel

-- The page and its entry stand apart, in that container and in one of another version.
theorem witness_container_pages :
    ∀ f ∈ [tContainer (2 ^ 31), (tContainer (2 ^ 31)).set 4 2],
      (let ps := sB.preparedPages 0 (segmentsOf f)
      ps = [(2 ^ 31, 0x44000, 0x50023)] ∧ sB.EntriesApart 0 ps ∧ sB.FramesApart 0 ps)
    ∧ containerBad ((tContainer (2 ^ 31)).set 4 2) = true := by
  intro f hf
  have hp : ∀ f ∈ [tContainer (2 ^ 31), (tContainer (2 ^ 31)).set 4 2], sB.preparedPages 0 (segmentsOf f) = [(2 ^ 31, 0x44000, 0x50023)] := by
    decide +kernel
  rw [hp f hf]
  unfold State.EntriesApart State.FramesApart Apart
  exact ⟨⟨rfl, by decide +kernel, by decide +kernel⟩, by decide +kernel⟩

-- Witnesses: links, memory devices, resets.

/-- A flit's header: its number, the number it acknowledges, its kind, its channel. -/
def tFlit (seq ack : BitVec 12) (kind : BitVec 4) (vc : BitVec 3) : Dword :=
  seq.zeroExtend 64 <<< 52 ||| ack.zeroExtend 64 <<< 40 ||| kind.zeroExtend 64 <<< 36 ||| vc.zeroExtend 64 <<< 33

/-- What follows the header of a flit with a payload: the payload, and the CRC that the two have. -/
def wireRest (h : Dword) (p : List Byte) : List Byte := p ++ leBytes (Config.flitCrc (leBytes h.toNat 8 ++ p)).toNat 8

-- Whatever the CRC is, such a flit has it.
theorem witness_flit (h : Dword) (p : List Byte) (hp : p.length = 240) : let r := wireRest h p
    r.length = 248 ∧ leField r 240 8 = (Config.flitCrc (leBytes h.toNat 8 ++ r.take 240)).toNat := by
  intro r
  refine ⟨by rw [show r.length = _ from List.length_append, hp, leBytes_length], ?_⟩
  rw [show r.take 240 = p from List.take_left' hp, leField, show r.drop 240 = _ from List.drop_left' hp,
    List.take_of_length_le (Nat.le_of_eq (leBytes_length _ _)), leNat_leBytes, Nat.mod_eq_of_lt (by omega)]

theorem witness_links :
    (let s : State := { sV with ports := [(1, tPort), (2, { tPort with down := true }), (3, { tPort with training := true, failed := 0xFF })] };
      s.port 1 = tPort ∧ tPort.down = false ∧ tPort.training = false ∧ (s.port 2).down = true ∧ (s.port 3).down = false ∧ (s.port 3).training = true
      ∧ (s.port 3).rx = tPort.rx ∧ widest (s.port 3).failed = some 0xFF00 ∧ s.chains = [])
    ∧ (∀ k ∈ [(0 : BitVec 4), 2, 3], (tFlit 8 19 k 3).extractLsb' 52 12 = tPort.rx + 1 ∧ bits (tFlit 8 19 k 3).toNat 36 4 = k.toNat ∧ k.toNat < 5
      ∧ bits (tFlit 8 19 k 3).toNat 33 3 < 4)
    -- one that is no flit of a kind, or of a channel; one that has come before; one that comes too soon
    ∧ (¬ bits (tFlit 8 19 5 0).toNat 36 4 < 5 ∧ ¬ bits (tFlit 8 19 0 4).toNat 33 3 < 4 ∧ ¬ (tPort.rx - (tFlit 8 19 5 0).extractLsb' 52 12).toNat < 2048)
    ∧ ((tFlit 7 19 0 0).extractLsb' 52 12 ≠ tPort.rx + 1 ∧ (tPort.rx - (tFlit 7 19 0 0).extractLsb' 52 12).toNat < 2048)
    ∧ ((tFlit 9 19 0 0).extractLsb' 52 12 ≠ tPort.rx + 1 ∧ ¬ (tPort.rx - (tFlit 9 19 0 0).extractLsb' 52 12).toNat < 2048)
    -- a port goes down that alone reaches the peer of a write which an entry of a chain awaits
    ∧ (let e : Started := ⟨0, 0x24, 0, 0, .fabric [3], [], none⟩
      let y : Chain := { tOpen with nxt := 1, started := [e] }
      let s : State := { sV with ports := [(1, { tPort with failed := 0x1112 })], chains := [(chainKey cL, y)], flight := [tFabric 3] }
      (∀ e ∈ s.ctxs, e.2.ring = none) ∧ (∀ e ∈ s.chains, e.2.cwaddr = 0 ∧ e.2.closing = false) ∧ refOf (chainKey cL) = cL ∧ y.started = [e]
      ∧ e.await = .fabric [3] ∧ tierOf (tFabric 3).key = 3 ∧ tPort.peers.contains (bits (tFabric 3).key 43 9) = true
      ∧ (match exec (.laneRepair 1 9) s with | .next t => t.peerDown (tFabric 3).key | _ => false) = true)
    ∧ (widest (0xFE ||| 1#16 <<< 0) = some 0xFF00 ∧ widest (0x1112 ||| 1#16 <<< 9) = none)
    ∧ (let g : Coll := ⟨4, 0, [], 7, [], 0⟩
      let s : State := { sV with colls := [(collKey 0 5, g)] }
      Table.find s.colls (collKey 0 6) = none ∧ Table.find s.colls (collKey 0 5) = some g ∧ BitVec.ofNat 16 7 = g.attempt ∧ 2 < g.ranks ∧ 2 ≠ g.rank
      ∧ s.chains = [] ∧ BitVec.ofNat 16 6 ≠ g.attempt ∧ (g.attempt - BitVec.ofNat 16 6).toNat < 2 ^ 15) := by decide +kernel

theorem witness_memory_devices :
    ((sV.bankOf 0 3).owed = 0 ∧ (sV.bankOf 0 3).alert = false ∧ (sV.bankOf 0 3).postponed < 8)
    ∧ (let s : State := { sV with hbmStacks := [(0, ⟨2, [0, 0], 0, 0⟩)] };
      (s.stackOf 0).activates.Pairwise (· ≤ ·) ∧ 1 ≤ (s.stackOf 0).limit
      ∧ (s.stackOf 0).limit ≤ ((s.stackOf 0).activates.filter (fun a => decide (s.time < a + 2600))).length)
    ∧ (let s : State := { sV with hbmStacks := [(0, ⟨2, [0], 0, 0⟩)] };
      ((s.stackOf 0).activates.filter (fun a => decide (s.time < a + 2600))).length < (s.stackOf 0).limit)
    ∧ (∃ k, ({ sV with banks := [(k, ⟨8, 0, false⟩)] } : State).bankOf 0 3 = ⟨8, 0, false⟩)
    ∧ (∃ k, ({ sV with banks := [(k, ⟨8, 2, false⟩)] } : State).bankOf 0 3 = ⟨8, 2, false⟩) := by
  exact ⟨by decide +kernel, by decide +kernel, by decide +kernel, ⟨bankKey 0 3, by decide +kernel⟩, ⟨bankKey 0 3, by decide +kernel⟩⟩

theorem witness_dies :
    (let s : State := { sI with teams := [], groups := [], frags := [] };
      3 < 720 ∧ (∀ e ∈ s.teams, e.2.on 3 = false) ∧ (s.trierOf 3).running = none ∧ s.feature 7 = true ∧ s.wanted 3 0 10 = false
      ∧ (∀ c, (s.trierOf c).last = 0))
    ∧ (let s : State := { sI with trier := [(3, ⟨0, some 5, none⟩)] };
      (s.trierOf 3).running = some 5 ∧ s.wanted 3 0 3 = false)
    ∧ (let s : State := { sN [(7, nClosed)] with trier := [(0, ⟨0, some 5, none⟩)] };
      (s.trierOf 0).running = some 5 ∧ s.time < 5 + 260000 ∧ s.wanted 0 0 3 = true
      ∧ (let u : State := { s with time := 300000 }
        (u.trierOf 0).running = some 5 ∧ 5 + 260000 ≤ u.time ∧ u.wanted 0 0 3 = true))
    ∧ sI.lostDies.contains 2 = false ∧ ({ sI with lostDies := [2] }).lostDies.contains 2 = true := by
  refine ⟨⟨by decide, by decide +kernel, by decide +kernel, by decide +kernel, by decide +kernel, fun c => rfl⟩, by decide +kernel, by decide +kernel,
    by decide +kernel, by decide +kernel⟩

-- A core with a team, one without, for which site 185 is a spare and site 3 is none; a die whose twelve spares have all been used; a core that has
-- been withdrawn.
theorem witness_spare_sites :
    (∃ e ∈ sI.teams, e.2.on 0 = true)
    ∧ (3 < 720 ∧ (∀ e ∈ sI.teams, e.2.on 3 = false) ∧ 3 ∉ sI.withdrawn ∧ 185 ∈ (List.range 192).filter (sI.spare (dieOf 3))
      ∧ 3 ∉ (List.range 192).filter (sI.spare (dieOf 3)))
    ∧ (let s : State := { sI with failedSites := (List.range 12).map (180 + ·) }
      (∀ e ∈ s.teams, e.2.on 3 = false) ∧ 3 ∉ s.withdrawn ∧ (List.range 192).filter (s.spare (dieOf 3)) = [])
    ∧ 3 ∈ ({ sI with withdrawn := [3] } : State).withdrawn := by
  refine ⟨⟨_, .head _, by decide +kernel⟩, by decide +kernel, by decide +kernel, by decide +kernel⟩

-- Whether an image verifies is, as for containers, for the fuses and ML-DSA-44; an empty one does not.
theorem witness_resets :
    4 < ((sV.terminate 0).ten 0).vectors ∧ (sV.ctx 5).mode = .free ∧ 64 ≤ 64
    ∧ ((sV.ctxs.map Prod.fst).Nodup ∧ (sV.ctx 0).mode ≠ .free ∧ (sV.ctx 0).ten = 0)
    ∧ (∀ e ∈ sV.teams, e.2.ctx < 1024 ∧ (sV.ctx e.2.ctx).mode ≠ .free) ∧ sV.flight = [] ∧ dieOf 3 = 0
    ∧ (let r : PressRec := ⟨1, 0, 0, [1, 2, 3]⟩
      let q : PressRec := ⟨2, 3, 0, [4]⟩
      let x : Stream := ⟨some 0, 2 ^ 31, 0, 2 ^ 20, 1, 1, 0, 3, 2, 4, [r, q]⟩
      let y : Stream := { x with pa := 2 ^ 31 + 2 ^ 30 }
      let s : State := { sV with powered := false, streams := [(0, x), (1, y)] };
      s.powered = false ∧ (∀ e ∈ s.streams, e.2.pa + 4096 + e.2.len ≤ 2 ^ 52 ∧ ∀ r ∈ e.2.recs, r.off + r.bytes.length ≤ e.2.len)
      ∧ (0 < 1 ∧ (x.pa + (4096 + x.len) ≤ y.pa ∨ y.pa + (4096 + y.len) ≤ x.pa)) ∧ Table.find s.streams 0 = some x ∧ Table.find s.streams 1 = some y
      ∧ x.recs.Pairwise (fun a b => a.off + a.bytes.length ≤ b.off ∨ b.off + b.bytes.length ≤ a.off))
    ∧ (let s : State := { sV with streams := [(0, ⟨some 0, 2 ^ 31, 0, 2 ^ 20, 1, 1, 0, 3, 1, 3, [⟨1, 0, 0, [1, 2, 3]⟩]⟩)] };
      ∀ e ∈ s.streams, ∀ r ∈ (s.stream e.1).recs, r.seq ≤ (s.stream e.1).dseq)
    ∧ sV.fw.pending = false ∧ sV.imageGood [] = false
    ∧ (let s : State := { sV with fw := ⟨false, true, [], []⟩ };
      let q : SvcReq := ⟨1, 2, 0x20000, true⟩
      let u := s.updCtx 0 (fun x => { x with svcq := [q] })
      s.fw.pending = true ∧ (∀ e ∈ s.ctxs, ∀ r ∈ e.2.svcq, r.old = false) ∧ ∃ e ∈ u.ctxs, ∃ r ∈ e.2.svcq, r.old = true) := by
  and_intros <;> decide +kernel

-- Witnesses: the machine as a whole.

theorem witness_decode_encode :
    let i : Instr := .iadd ⟨⟨false, 1⟩, 2, 0, 1, 0, 3, 0⟩
    wellFormed i = true ∧ i.isEvent = false ∧ decode [0x0000_8040_0002_000C] = .ok i := ⟨by decide, by decide, by rfl⟩

theorem witness_canonical :
    let s : State := { State.reset with script := [.event (.registerWrite .plsrc 5)] }
    s.Canonical ∧ ∃ t, step s = .next t := ⟨⟨by decide +kernel, by decide +kernel⟩, ⟨_, by rfl⟩⟩

-- One step each. The expected values are the spec's: its worked examples, or its rules worked by hand on the operands that a comment names.

/-- Lane `l`'s slot of a line of the group in slot 0 of core 0, after a step; its tag; its flags; where its fragment stands. -/
def slotAfter (o : Host.Outcome State Fault Refusal) (n l : Nat) : Option Nat :=
  match o with | .next t => (t.group? 0 0).map (fun g => ((g.line n).slot l).toNat) | _ => none
def tagAfter (o : Host.Outcome State Fault Refusal) (n : Nat) : Option Nat :=
  match o with | .next t => (t.group? 0 0).map (fun g => g.tag n) | _ => none
def flagsAfter (o : Host.Outcome State Fault Refusal) : Option (BitVec 32) :=
  match o with | .next t => (t.group? 0 0).map (·.flags) | _ => none
def standsAfter (o : Host.Outcome State Fault Refusal) (fi : Nat) : Option (Nat × Nat × FragSt × Nat) :=
  match o with | .next t => (t.frag? 0 fi).map (fun f => (f.blk, f.idx, f.st, f.cause)) | _ => none
def byteAfter (o : Host.Outcome State Fault Refusal) (k : Nat) : Option Byte :=
  match o with | .next t => some (t.mem.read k) | _ => none

/-- Vector registers: an instruction on these lines. -/
def run1 (l : List (Nat × Nat × Nat)) (i : Instr) : Host.Outcome State Fault Refusal := exec i (tState (tGroup l) placeFragment)

-- R135's example: four I8 elements, wrapped, with no flag.
theorem test_iadd_i8 :
    let o := run1 [(1, 1, 0x7F059C64), (2, 1, 0x01F69C64)] (.iadd ⟨gp, 3, 1, 2, 0, 1, 0⟩)
    slotAfter o 3 0 = some 0x80FB38C8 ∧ tagAfter o 3 = some 1 ∧ flagsAfter o = some 0 := by decide +kernel

-- The same, saturated.
theorem test_iadd_sat_i8 :
    slotAfter (run1 [(1, 1, 0x7F059C64), (2, 1, 0x01F69C64)] (.iadd ⟨gp, 3, 1, 2, 64, 1, 0⟩)) 3 31 = some 0x7FFB807F := by decide +kernel

-- The examples of CLMUL and CLMULH on N8.
theorem test_clmul_n8 :
    let l := [(1, 5, 0x0B0B0B0B), (2, 5, 0x06060606)]
    slotAfter (run1 l (.clmul ⟨gp, 3, 1, 2, 0, 5, 0⟩)) 3 0 = some 0x3A3A3A3A ∧ slotAfter (run1 l (.clmulh ⟨gp, 3, 1, 2, 0, 5, 0⟩)) 3 0 = some 0 := by
  decide +kernel

-- DOT4's example, from the word that the spec writes.
theorem test_dot4 :
    let o := run1 [(4, 1, 0xFC03FE01), (5, 5, 0xC81E140A), (6, 3, 100)] (.dot4 ⟨⟨false, 15⟩, 9, 4, 5, 6, 31, 0⟩)
    slotAfter o 9 0 = some 0xFFFFFD80 ∧ tagAfter o 9 = some 3 := by decide +kernel

-- R131: an I8 ABS of −128 wraps to −128, and of −1 gives 1.
theorem test_iabs_i8 : slotAfter (run1 [(1, 1, 0x8001FF80)] (.iabs ⟨gp, 3, 1, 0, 0, 1, 0⟩)) 3 0 = some 0x80010180 := by decide +kernel

-- The example of R326: the fields of an HBM address.
theorem test_hbm_fields :
    let pa := 0x1A2B3C4D40
    hbmStack pa = 5 ∧ hbmChannel pa = 19 ∧ hbmGroup pa = 1 ^^^ 2 ∧ hbmBank pa = 1 ∧ hbmCol pa = 15 ∧ hbmRow pa = 26796 ∧ homeDie pa = 2 := by decide +kernel

-- The tile descriptors of R256's example.
theorem test_tile_words :
    parseTile 0 0x822000C0 0x24800 0 = some ⟨0, 32, 17, 0, 192, true, 0x4800, 0⟩
    ∧ parseTile 0x1800 0x80200180 0x24A00 0 = some ⟨0x1800, 32, 1, 0, 384, true, 0x4A00, 0⟩ ∧ parseAcc 0x4C00 = some 0x4C00 := by decide +kernel

-- R44's example of a header.
theorem test_header :
    let h : Iword := 0xF10180C0000C1800
    Hdr.valid h = true ∧ Hdr.length h = 6 ∧ Hdr.live h = 24 ∧ Hdr.reconv h = 12 ∧ Hdr.pref h = 1 ∧ Hdr.mend h = true := by decide +kernel

-- NOP, from the word that the spec writes, as the first instruction after reset: its fragment goes on to the next iword.
theorem test_nop_step : standsAfter (step (State.reset.withFetchWord 64 0x70E7800000000000)) 0 = some (0x10000, 1, .ready, 0) := by decide +kernel

-- EXIT by every lane (R24): the group is gone.
theorem test_exit_step :
    (match step (State.reset.withFetchWord 64 0x7067800000000000) with | .next t => t.group? 0 0 | _ => some gV) = none := by decide +kernel

-- R63: CSRR of a privileged number parks with GF_PRIVILEGE.
theorem test_csrr_privileged : standsAfter (run1 [] (.csrr ⟨gp, 3, 0, 0x800, 0⟩)) 0 = some (0x10000, 0, .parked, Cause.privilege) := by decide +kernel

-- A source's tag that is not the expected one (R83): the fragment parks with GF_TAG_MISMATCH, and writes nothing.
theorem test_tag_mismatch :
    let o := run1 [(1, 11, 7), (2, 3, 5), (3, 3, 9)] (.iadd ⟨gp, 3, 1, 2, 0, 3, 0⟩)
    standsAfter o 0 = some (0x10000, 0, .parked, Cause.tagMismatch) ∧ slotAfter o 3 0 = some 9 := by decide +kernel

-- A guard keeps the lanes in which it is false (R46): p1 is true in lane 2 alone.
theorem test_guard :
    let o := exec (.ineg ⟨⟨false, 1⟩, 3, 1, 0, 0, 3, 0⟩) (tState { tGroup [(1, 3, 7), (3, 3, 9)] with preds := [(1, 4)] } placeFragment)
    slotAfter o 3 2 = some 0xFFFFFFF9 ∧ slotAfter o 3 1 = some 9 := by decide +kernel

-- FADD of 1.0 and 2.0 in F32; of the largest number and itself, which overflows to infinity.
theorem test_fadd : slotAfter (run1 [(1, 11, 0x3F800000), (2, 11, 0x40000000)] (.fadd ⟨gp, 3, 1, 2, 0, 11, 0⟩)) 3 0 = some 0x40400000 := by decide +kernel
theorem test_fadd_overflow :
    slotAfter (run1 [(1, 11, 0x7F7FFFFF)] (.fadd ⟨gp, 3, 1, 1, 0, 11, 0⟩)) 3 0 = some 0x7F800000 := by decide +kernel

-- ST of 4 bytes (R187): the least significant byte at the lowest address, and lane 31's value where the lanes agree on the address (R168).
theorem test_st_bytes :
    let o := exec (.st ⟨gp, 1, 30, 0, 2, 3⟩) (tPaged (tGroup [(1, 3, 0x11223344), (30, 0, 0x20000), (31, 0, 0)]) placeFragment)
    byteAfter o 0x20000 = some 0x44 ∧ byteAfter o 0x20003 = some 0x11 ∧ byteAfter o 0x20004 = some 0 := by decide +kernel

-- ICMP (R235): LT of −1 and 1 as I32 is true in every lane, as N32 in none.
theorem test_icmp :
    let p : Nat → Option Mask := fun t =>
      match run1 [(1, t, 0xFFFFFFFF), (2, t, 1)] (.icmp ⟨gp, 1, 15, 1, 2, 15, 0, 2, BitVec.ofNat 5 t⟩) with
      | .next s => (s.group? 0 0).map (fun g => g.pred 1)
      | _ => none
    p 3 = some (BitVec.allOnes 32) ∧ p 7 = some 0 := by decide +kernel

-- BR to the block's own header (R219, R220): the lanes stand at that block, which the fragment has not entered.
theorem test_br : standsAfter (exec (.br ⟨gp, -1, 0, 0⟩) sC) 0 = some (0x10000, 0, .ready, 0) := by decide +kernel

-- BAR by part of a group (R228): the lanes sleep.
theorem test_bar_sleeps :
    standsAfter (exec (.bar ⟨gp, 0, 0, 3⟩) (tState gC { placeFragment with mask := 0xFFFF })) 0 = some (0x10000, 1, .asleep (.bar 3), 0) := by decide +kernel

-- The spec's table of F32 values into J8E4, four values at a time.
theorem test_cvt_j8e4 :
    let o := run1 [(8, 11, 0x3F800000), (9, 11, 0x40533333), (10, 11, 0x44160000), (11, 11, 0xC4160000)] (.cvt ⟨gp, 40, 8, 0, 13, 11, 0⟩)
    slotAfter o 40 0 = some 0xFF7F4538 ∧ tagAfter o 40 = some 13
    ∧ flagsAfter o = some ((AF.overflow ||| AF.inexact).zeroExtend 32) := by decide +kernel
theorem test_cvt_j8e4_small :
    let o := run1 [(8, 11, 0x3B800000), (9, 11, 0x3BC00000), (10, 11, 0), (11, 11, 0)] (.cvt ⟨gp, 40, 8, 0, 13, 11, 0⟩)
    slotAfter o 40 0 = some 0x00000100 ∧ flagsAfter o = some ((AF.underflow ||| AF.inexact).zeroExtend 32) := by decide +kernel

-- The spec's BF16 chunks in A56F: 1.0 and then 2^−45 twice leave 1.0; the two small products in one chunk leave the next value.
theorem test_a56f_chunks :
    let one : Nat := 0x003FF00000000000
    let tiny : FV := .fin false 1 (-45)
    let two : FV := .fin false 1 (-44)
    (accumulate Tg.a56f 0 (.fin false 1 0)).1 = one ∧ accumulate Tg.a56f one tiny = (one, AF.inexact) ∧ (accumulate Tg.a56f one two).1 = one + 1 := by
  decide +kernel

-- SHL (R131): the count is taken modulo the width, so 33 shifts a word by 1, and 31 leaves bit 31.
theorem test_shl : slotAfter (run1 [(1, 7, 3), (2, 7, 33)] (.shl ⟨gp, 3, 1, 2, 0, 7, 0⟩)) 3 0 = some 6
    ∧ slotAfter (run1 [(1, 7, 3), (2, 7, 31)] (.shl ⟨gp, 3, 1, 2, 0, 7, 0⟩)) 3 0 = some 0x80000000 := by decide +kernel

end Sys2Proof.Tests
end

/-! Proofs of the management registers, features, interrupts and the mailbox (R11, R384 to R390): first what the tables, the small updates of the
state and the shared operations of Machine/Manage.lean do, then each register and each request by them. -/

namespace Sys2Proof.Machine

section
variable {α : Type}

/-- A filter by key hides the keys that it does not select, and no other. -/
theorem Table.find_filter_key (t : Table α) (p : Nat → Bool) (n : Nat) :
    Table.find (t.filter (fun e => p e.1)) n = if p n = true then Table.find t n else none := by
  induction t with
  | nil => simp
  | cons e t ih =>
    by_cases hp : p e.1 = true
    · rw [List.filter_cons_of_pos (p := fun e : Nat × α => p e.1) hp]
      by_cases he : e.1 = n
      · subst he
        simp [Table.find, hp]
      · simp [Table.find, he, ih]
    · rw [List.filter_cons_of_neg (p := fun e : Nat × α => p e.1) hp, ih]
      by_cases he : e.1 = n
      · subst he
        simp [hp]
      · simp [Table.find, he]

theorem Table.find_del (t : Table α) (n k : Nat) : Table.find (Table.del t n) k = if k = n then none else Table.find t k := by
  by_cases h : k = n
  · simp [h]
  · simp [h, Table.find_del_ne t h]

/-- Keys that are all greater than `n` are all kept where `n` is left out. -/
theorem Table.filter_ne_of_greater (t : Table α) (n : Nat) (h : ∀ e ∈ t, n < e.1) : t.filter (fun e => e.1 != n) = t :=
  List.filter_eq_self.mpr (fun e he => by have := h e he; simp; omega)

/-- A sum over a table with a new entry: the entry, and all that stood under other keys. -/
theorem Table.sum_put (t : Table α) (n : Nat) (x : α) (f : α → Nat) (h : t.Pairwise (fun a b => a.1 < b.1)) :
    ((Table.put t n x).map (fun e => f e.2)).sum = ((t.filter (fun e => e.1 != n)).map (fun e => f e.2)).sum + f x := by
  induction t with
  | nil => simp [Table.put]
  | cons a t ih =>
    obtain ⟨hlt, ht⟩ := List.pairwise_cons.mp h
    simp only [Table.put]
    split
    · rename_i heq
      have hrest : t.filter (fun e => e.1 != n) = t := Table.filter_ne_of_greater t n (fun e he => heq ▸ hlt e he)
      rw [List.filter_cons_of_neg (by simp [heq]), hrest]
      simp [Nat.add_comm]
    · rename_i hne
      split
      · rename_i hn
        rw [Table.filter_ne_of_greater (a :: t) n (fun e he => by
          rcases List.mem_cons.mp he with rfl | he
          · exact hn
          · exact Nat.lt_trans hn (hlt e he))]
        simp [Nat.add_comm]
      · rw [List.filter_cons_of_pos (by simpa using Ne.symm hne)]
        simp [ih ht, Nat.add_assoc]

end

/-- A running sum is the sum. -/
theorem foldl_add_eq_sum {α : Type} (f : α → Nat) (l : List α) (a : Nat) : l.foldl (fun n e => n + f e) a = a + (l.map f).sum := by
  induction l generalizing a with
  | nil => rfl
  | cons e l ih => simp [ih, Nat.add_assoc]

theorem mem_insertNat (l : List Nat) (n k : Nat) : k ∈ insertNat l n ↔ k = n ∨ k ∈ l := by
  induction l with
  | nil => simp [insertNat]
  | cons a l ih =>
    simp only [insertNat]
    split
    · rename_i h
      simp [h]
    · split
      · simp
      · simp only [List.mem_cons, ih]
        exact or_left_comm

theorem mem_member (l : List Nat) (x k : Nat) (on : Bool) : k ∈ member l x on ↔ if k = x then on = true else k ∈ l := by
  cases on
  · by_cases h : k = x <;> simp [member, h]
  · by_cases h : k = x <;> simp [member, mem_insertNat, h]

-- Contexts, tenancies and the mailbox.

@[simp] theorem State.ctx_updCtx_self (s : State) (c : Nat) (f : Ctx → Ctx) : (s.updCtx c f).ctx c = f (s.ctx c) :=
  Table.getD_setD_self _ _ _ _

theorem State.ctx_updCtx_ne (s : State) {c j : Nat} (f : Ctx → Ctx) (h : j ≠ c) : (s.updCtx c f).ctx j = s.ctx j :=
  Table.getD_setD_ne _ _ _ h

@[simp] theorem State.ten_updTen_self (s : State) (n : Nat) (f : Ten → Ten) : (s.updTen n f).ten n = f (s.ten n) :=
  Table.getD_setD_self _ _ _ _

theorem State.ten_updTen_ne (s : State) {n j : Nat} (f : Ten → Ten) (h : j ≠ n) : (s.updTen n f).ten j = s.ten j :=
  Table.getD_setD_ne _ _ _ h

/-- R387: a refusal leaves an error word, and nothing else. -/
theorem State.refuse_refusedTo (s : State) (who : Nat) : RefusedTo s (s.refuse who) who := ⟨_, rfl⟩

theorem State.within_of_le (s t : State) {v lo hi : Nat} (h : lo ≤ v ∧ v ≤ hi) : s.within v lo hi t = t := by
  simp [State.within, h]

theorem State.within_of_out (s t : State) {v lo hi : Nat} (h : v < lo ∨ hi < v) : s.within v lo hi t = s.refuse 64 := by
  have hn : ¬ (lo ≤ v ∧ v ≤ hi) := by omega
  simp [State.within, hn]

/-- R287: what is left of the deficit of a tenancy at a level once the tenancies without ready nodes have lost theirs. -/
theorem State.deficit_settleDeficits (s : State) (p j : Nat) (hj : j < 64) :
    Table.getD s.settleDeficits.deficits 0 (p * 64 + j)
      = if s.nodes.any (fun e => e.2.st == .ready && s.prioOf e.2 == p && (s.ctx e.2.ctx).ten == j) then
          Table.getD s.deficits 0 (p * 64 + j) else 0 := by
  have hlevel : (p * 64 + j) / 64 = p := by omega
  have hten : (p * 64 + j) % 64 = j := by omega
  unfold State.settleDeficits Table.getD
  dsimp only
  rw [Table.find_filter_key s.deficits
    (fun k => s.nodes.any (fun e => e.2.st == .ready && s.prioOf e.2 == k / 64 && (s.ctx e.2.ctx).ten == k % 64)), hlevel, hten]
  split <;> rfl

-- Writes of registers (R11, R388).

/-- A register whose value the device keeps where it lies from `lo` to `hi`, which leaves `u`. -/
theorem registerWrite_within {s u : State} {r : MgmtReg} {v : Dword} {lo hi : Nat} (h : s.writeRegister r v = s.within v.toNat lo hi u) :
    (lo ≤ v.toNat ∧ v.toNat ≤ hi → exec (.registerWrite r v) s = .next u)
    ∧ (v.toNat < lo ∨ hi < v.toNat → ∃ t, exec (.registerWrite r v) s = .next t ∧ RefusedTo s t 64) := by
  have he : exec (.registerWrite r v) s = .next (s.within v.toNat lo hi u) := congrArg _ h
  refine ⟨fun hv => ?_, fun hv => ⟨_, ?_, s.refuse_refusedTo 64⟩⟩
  · rw [he, State.within_of_le s u hv]
  · rw [he, State.within_of_out s u hv]

/-- A field of a context (R206, R309, R310). -/
theorem registerWrite_ctx {s : State} {r : MgmtReg} {v : Dword} {lo hi c : Nat} {f : Ctx → Ctx}
    (h : s.writeRegister r v = s.within v.toNat lo hi (s.updCtx c f)) :
    (lo ≤ v.toNat ∧ v.toNat ≤ hi → ∃ t, exec (.registerWrite r v) s = .next t ∧ t = { s with ctxs := t.ctxs }
      ∧ t.ctx c = f (s.ctx c) ∧ ∀ j, j ≠ c → t.ctx j = s.ctx j)
    ∧ (v.toNat < lo ∨ hi < v.toNat → ∃ t, exec (.registerWrite r v) s = .next t ∧ RefusedTo s t 64) := by
  obtain ⟨hin, hout⟩ := registerWrite_within h
  exact ⟨fun hv => ⟨_, hin hv, rfl, s.ctx_updCtx_self c f, fun j hj => s.ctx_updCtx_ne f hj⟩, hout⟩

/-- A field of a tenancy (R388). -/
theorem registerWrite_ten {s : State} {r : MgmtReg} {v : Dword} {lo hi n : Nat} {f : Ten → Ten}
    (h : s.writeRegister r v = s.within v.toNat lo hi (s.updTen n f)) :
    (lo ≤ v.toNat ∧ v.toNat ≤ hi → ∃ t, exec (.registerWrite r v) s = .next t ∧ t = { s with tens := t.tens }
      ∧ t.ten n = f (s.ten n) ∧ ∀ j, j ≠ n → t.ten j = s.ten j)
    ∧ (v.toNat < lo ∨ hi < v.toNat → ∃ t, exec (.registerWrite r v) s = .next t ∧ RefusedTo s t 64) := by
  obtain ⟨hin, hout⟩ := registerWrite_within h
  exact ⟨fun hv => ⟨_, hin hv, rfl, s.ten_updTen_self n f, fun j hj => s.ten_updTen_ne f hj⟩, hout⟩

/-- R1, R8: no register of a context, tenancy, port or core that does not exist is written. -/
theorem registerWrite_missing (s : State) {r : MgmtReg} (v : Dword) (h : regExists r = false) :
    ∃ t, exec (.registerWrite r v) s = .next t ∧ RefusedTo s t 64 := by
  refine ⟨_, ?_, s.refuse_refusedTo 64⟩
  simp [exec, execRegisterWrite, State.writeRegister, h]

theorem State.writeRegister_priorityCeiling (s : State) (v : Dword) {n : Nat} (hn : n < 64) :
    s.writeRegister (.priorityCeiling n) v = s.within v.toNat 0 11 (s.updTen n (fun t => { t with ceiling := v.toNat })).settleDeficits := by
  simp [State.writeRegister, regExists, hn]

/-- R287, R388: a tenancy's priority ceiling moves its nodes' priorities, so deficits may go. -/
theorem registerWrite_priorityCeiling (s : State) (v : Dword) {n : Nat} (hn : n < 64) (hv : v.toNat ≤ 11) :
    ∃ t, exec (.registerWrite (.priorityCeiling n) v) s = .next t ∧ t = { s with tens := t.tens, deficits := t.deficits }
      ∧ t.ten n = { s.ten n with ceiling := v.toNat } ∧ (∀ j, j ≠ n → t.ten j = s.ten j)
      ∧ ∀ p j, j < 64 → Table.getD t.deficits 0 (p * 64 + j)
          = if s.nodes.any (fun e => e.2.st == .ready && t.prioOf e.2 == p && (s.ctx e.2.ctx).ten == j) then
              Table.getD s.deficits 0 (p * 64 + j) else 0 := by
  let f : Ten → Ten := fun t => { t with ceiling := v.toNat }
  exact ⟨(s.updTen n f).settleDeficits, (registerWrite_within (s.writeRegister_priorityCeiling v hn)).1 ⟨Nat.zero_le _, hv⟩, rfl,
    s.ten_updTen_self n f, fun j hj => s.ten_updTen_ne f hj, fun p j hj => (s.updTen n f).deficit_settleDeficits p j hj⟩

/-- R155, R388: a context that is free is given to a tenancy that may hold one more; the write is refused otherwise. -/
theorem State.giveContext_eq (s : State) (c n : Nat) :
    s.giveContext c n = if c < 1024 ∧ n < 64 ∧ (s.ctx c).mode = .free ∧ s.held n < (s.ten n).contexts then
      s.updCtx c (fun y => { y with ten := n, mode := .live }) else s.refuse 64 := by
  unfold State.giveContext
  by_cases h : c < 1024 ∧ n < 64 ∧ (s.ctx c).mode = .free ∧ s.held n < (s.ten n).contexts
  · obtain ⟨hc, hn, hm, hk⟩ := h
    simp [hc, hn, hm, hk, Nat.not_le.mpr hc, Nat.not_le.mpr hn, Nat.not_le.mpr hk]
  · rw [if_neg h, if_pos]
    simp only [Bool.or_eq_true, decide_eq_true_eq, bne_iff_ne, ne_eq]
    refine Decidable.byContradiction (fun hn => ?_)
    simp only [not_or, Nat.not_le, Decidable.not_not] at hn
    obtain ⟨⟨⟨hc, hn⟩, hm⟩, hk⟩ := hn
    exact h ⟨hc, hn, hm, hk⟩

theorem registerWrite_contextTenancy (s : State) (v : Dword) {c : Nat} (hc : c < 1024) :
    exec (.registerWrite (.contextTenancy c) v) s
      = .next (if c < 1024 ∧ v.toNat < 64 ∧ (s.ctx c).mode = .free ∧ s.held v.toNat < (s.ten v.toNat).contexts then
          s.updCtx c (fun y => { y with ten := v.toNat, mode := .live }) else s.refuse 64) := by
  rw [← State.giveContext_eq]
  simp [exec, execRegisterWrite, State.writeRegister, regExists, hc]

/-- R286: the cores of a context's allocation. -/
theorem registerWrite_allocation (s : State) (v : Dword) {c core : Nat} (hc : c < 1024) (hk : core < 720) :
    exec (.registerWrite (.allocation c core) v) s
      = .next (s.updCtx c (fun y => { y with alloc := member y.alloc core (v.getLsbD 0) })) := by
  simp [exec, execRegisterWrite, State.writeRegister, regExists, hc, hk]

-- CXL windows (R5, R334, R335).

/-- The windows of the other ports. -/
def State.otherWindows (s : State) (p : Nat) : Nat := (s.cxl.filter (fun e => e.1 != p)).foldl (fun n e => n + e.2.window) 0

/-- What the ports' windows come to with a new one among them. -/
theorem cxl_windows_put (s : State) (p : Nat) (q : CxlPort) (h : s.cxl.Pairwise (fun a b => a.1 < b.1)) :
    ((Table.put s.cxl p q).map (fun e => e.2.window)).foldl (· + ·) 0 = s.otherWindows p + q.window := by
  rw [State.otherWindows, ← List.sum_eq_foldl_nat, foldl_add_eq_sum, Table.sum_put s.cxl p q CxlPort.window h, Nat.zero_add]

/-- R335: a port whose device is more than memory is given no window. -/
theorem registerWrite_cxlWindow_device (s : State) (v : Dword) {p : Nat} (hp : p < 4) :
    exec (.registerWrite (.cxlWindow p false) v) s = .next (s.refuse 64) := by
  simp [exec, execRegisterWrite, State.writeRegister, regExists, hp, State.setWindow]

theorem registerWrite_cxlWindow_memory (s : State) (v : Dword) {p : Nat} (hp : p < 4) (h : s.cxl.Pairwise (fun a b => a.1 < b.1)) :
    exec (.registerWrite (.cxlWindow p true) v) s = .next (if s.otherWindows p + v.toNat ≤ 7168 then
      { s with cxl := Table.put s.cxl p { Table.getD s.cxl CxlPort.fresh p with window := v.toNat } } else s.refuse 64) := by
  simp [exec, execRegisterWrite, State.writeRegister, regExists, hp, State.setWindow, cxl_windows_put s p _ h]

-- Features and interrupts (R388, R390).

theorem featureAccept_again {s : State} {a : BitVec 8} (v : BitVec 128) (h : s.accept = some a) : exec (.featureAcceptWrite v) s = .next s := by
  simp [exec, execFeatureAcceptWrite, State.acceptFeatures, h]

/-- R390: the first write accepts the offered features among those that it names. -/
theorem featureAccept_first {s : State} (v : BitVec 128) (h : s.accept = none) :
    exec (.featureAcceptWrite v) s = .next { s with accept := some ((v &&& s.offerReg).truncate 8) } := by
  simp [exec, execFeatureAcceptWrite, State.acceptFeatures, h]

theorem interruptAck_outside (s : State) (ten : Nat) {vec : Nat} (h : 64 ≤ vec) : exec (.interruptAck ten vec) s = .next (s.refuse ten) := by
  simp [exec, execInterruptAck, State.ackInt, h]

theorem interruptAck_own (s : State) (ten : Nat) {vec : Nat} (h : vec < 64) :
    exec (.interruptAck ten vec) s = .next { s with pendingInt := Table.del s.pendingInt (ten * 64 + vec) } := by
  simp [exec, execInterruptAck, State.ackInt, Nat.not_le.mpr h]

-- Requests (R387).

theorem State.owns_iff (s : State) (ten c : Nat) : s.owns ten c = true ↔ (s.ctx c).mode ≠ .free ∧ (s.ctx c).ten = ten := by
  simp [State.owns]

/-- The context that a request is about, where only the tenancy that holds it may make the request. -/
def requestCtx : Request → Option Nat
  | .resetContext c | .submitNode c _ | .createGroup c _ _ _ _ | .attest c _ | .hostAccess c _ => some c
  | .writeRange .. | .loadPattern .. | .ackInterrupt _ | .nodeDone _ => none

/-- A request about a context that another tenancy holds, or none. -/
theorem State.request_foreign {s : State} {ten c : Nat} (r : Request) (hr : requestCtx r = some c) (h : s.owns ten c = false) :
    s.request ten r = s.refuse ten := by
  cases r with
  | writeRange | loadPattern | ackInterrupt | nodeDone => cases hr
  | resetContext | submitNode | createGroup | attest | hostAccess => cases hr; simp [State.request, h]

theorem mailboxRequest_foreign {s : State} {ten c : Nat} (r : Request) (hr : requestCtx r = some c) (h : s.owns ten c = false) :
    ∃ t, exec (.mailboxRequest ten r) s = .next t ∧ RefusedTo s t ten :=
  ⟨_, congrArg Host.Outcome.next (s.request_foreign r hr h), s.refuse_refusedTo ten⟩

theorem mailboxRequest_createGroup_refused {s : State} (ten : Nat) {c group ranks rank : Nat} {ue : List Nat}
    (hr : s.collRefused c group ranks rank ue = true) :
    exec (.mailboxRequest ten (.createGroup c group ranks rank ue)) s = .next (s.refuse ten) := by
  simp [exec, execMailboxRequest, State.request, hr]

section
variable {s : State} {ten c : Nat} (h : s.owns ten c = true)
include h

theorem mailboxRequest_resetContext : exec (.mailboxRequest ten (.resetContext c)) s = exec (.contextReset c) s := by
  simp [exec, execMailboxRequest, execContextReset, State.request, h]

theorem mailboxRequest_submitNode (addr : Dword) :
    exec (.mailboxRequest ten (.submitNode c addr)) s = exec (.hostSubmission c addr) s := by
  simp [exec, execMailboxRequest, execHostSubmission, State.request, h]

/-- R386: a node of the host's own queue is reported done. -/
theorem mailboxRequest_nodeDone {nid : Nat} {n : Node} (hn : Table.find s.nodes nid = some n) (hc : n.ctx = c) (he : n.exec = 1)
    (hs : n.st = .placed) : exec (.mailboxRequest ten (.nodeDone nid)) s = exec (.hostNodeDone nid) s := by
  simp [exec, execMailboxRequest, execHostNodeDone, State.request, hn, hc, h, he, hs]

theorem mailboxRequest_createGroup {group ranks rank : Nat} {ue : List Nat} (hr : s.collRefused c group ranks rank ue = false) :
    exec (.mailboxRequest ten (.createGroup c group ranks rank ue)) s = .next (s.makeColl c group ranks rank ue) := by
  simp [exec, execMailboxRequest, State.request, h, hr]

theorem mailboxRequest_attest (nonce : List Byte) : exec (.mailboxRequest ten (.attest c nonce)) s = .next (s.attestTo ten c nonce) := by
  simp [exec, execMailboxRequest, State.request, h]

theorem mailboxRequest_hostAccess (a : HostAccess) : exec (.mailboxRequest ten (.hostAccess c a)) s = .next (s.hostThread ten c a) := by
  simp [exec, execMailboxRequest, State.request, h]

end

-- Accesses of host threads (R162, R209, R386).

/-- A running maximum is no less than where it starts, nor than what it runs over. -/
theorem le_foldl_max {α : Type} (f : α → Nat) (l : List α) (a : Nat) :
    a ≤ l.foldl (fun m e => max m (f e)) a ∧ ∀ x ∈ l, f x ≤ l.foldl (fun m e => max m (f e)) a := by
  induction l generalizing a with
  | nil => exact ⟨Nat.le_refl a, fun x hx => nomatch hx⟩
  | cons e l ih =>
    obtain ⟨hstart, hrest⟩ := ih (max a (f e))
    refine ⟨Nat.le_trans (Nat.le_max_left _ _) hstart, fun x hx => ?_⟩
    rcases List.mem_cons.mp hx with rfl | hx
    · exact Nat.le_trans (Nat.le_max_right _ _) hstart
    · exact hrest x hx

/-- R209: a fence waits for the stores that host threads have made. -/
theorem hostThread_fence (s : State) (ten c : Nat) :
    s.time ≤ (s.hostThread ten c .fence).time
    ∧ ∀ f ∈ s.flight, f.core = hostCore → f.slot = hostSlot → f.tv ≤ (s.hostThread ten c .fence).time := by
  refine ⟨Nat.le_max_left _ _, fun f hf hcore hslot => Nat.le_trans ?_ (Nat.le_max_right _ _)⟩
  exact (le_foldl_max Flight.tv _ 0).2 f (List.mem_filter.mpr ⟨hf, by simp [hcore, hslot]⟩)

/-- An engine's reads of frames make only homes act (R353, R356, R370). -/
theorem engineFetch_home (s : State) (core ctx key n : Nat) : HomeOnly s (s.engineFetch core ctx key n) := by
  unfold State.engineFetch
  refine HomeOnly.foldl _ (fun u p => ?_) _ s
  extract_lets sp frame
  exact HomeOnly.ite ((recallFrame_home u frame).trans (homeHold_home _ frame sp.1 sp.2))
    ((homeHold_home u frame sp.1 sp.2).trans (HomeOnly.foldl _ ask_home _ _))

theorem hostThread_load_unshared {s : State} {c n : Nat} (ten : Nat) (va : Dword)
    (hp : s.probe hostCore c va.toNat n .load false false = none) (hs : s.hostShared c va.toNat n = false) :
    s.hostThread ten c (.load va n) = s.refuse ten := by
  simp [State.hostThread, hp, hs]

/-- A load of sound bytes whose pages are ready does what its reads at the homes do. -/
theorem hostThread_load_shared {s : State} {c n : Nat} (ten : Nat) (va : Dword)
    (hp : s.probe hostCore c va.toNat n .load false false = none) (hs : s.hostShared c va.toNat n = true)
    (ht : s.touchAll hostCore c va.toNat n false = s) :
    let u := (s.partsAt hostCore c va.toNat n).foldl (fun s p => s.engineFetch hostCore c p.1 p.2) s
    (u.loadVa hostCore hostSlot c va.toNat n).2.2 = [] → s.hostThread ten c (.load va n) = u := by
  intro u hu
  simp only [State.hostThread, hp, hs, ht, Bool.not_true, Bool.false_eq_true, if_false]
  rw [hu]

theorem hostThread_store_unshared {s : State} {c : Nat} (ten : Nat) (va : Dword) {bs : List Byte}
    (hp : s.probe hostCore c va.toNat bs.length .store false false = none) (hs : s.hostShared c va.toNat bs.length = false) :
    s.hostThread ten c (.store va bs) = s.refuse ten := by
  simp [State.hostThread, hp, hs]

/-- A store to one page that is ready is a store of the host's agent at the page's key. -/
theorem hostThread_store_shared {s : State} {c : Nat} (ten : Nat) (va : Dword) {bs : List Byte}
    (hp : s.probe hostCore c va.toNat bs.length .store false false = none) (hs : s.hostShared c va.toNat bs.length = true)
    (hpage : pageParts va.toNat bs.length = [(va.toNat, bs.length)]) (ht : s.touch hostCore c va.toNat true = s) :
    s.hostThread ten c (.store va bs) = (s.store ⟨hostCore, hostSlot, 0⟩ c (s.keyAt hostCore c va.toNat true) 0 bs).1 := by
  simp [State.hostThread, hp, hs, hpage, ht]

/-- An access within one frame has one part. -/
theorem frameParts_single {key n : Nat} (hn : 0 < n) (h : key % 256 + n ≤ 256) : frameParts key n = [(key, n)] := by
  have hcount : (key + n - 1) / 256 + 1 - key / 256 = 1 := by omega
  have hlo : max key ((key / 256 + 0) * 256) = key := by omega
  have hhi : min (key + n) ((key / 256 + 0 + 1) * 256) - key = n := by omega
  rw [frameParts, if_neg (by omega), hcount]
  simp only [List.range_one, List.map_cons, List.map_nil, hlo, hhi]

/-- The bytes of a store within one frame that is not dropped stand in memory. -/
theorem store_read_inside (s : State) (a : Agent) (ctx key hint : Nat) (bs : List Byte) (h : key % 256 + bs.length ≤ 256)
    (hd : s.dropsStore key = false) (i : Nat) (hi : i < bs.length) :
    (s.store a ctx key hint bs).1.mem.read (key + i) = bs.getD i 0 := by
  rw [State.store, frameParts_single (by omega) h]
  simp only [State.storeParts, Nat.sub_self, List.drop_zero, List.take_length]
  rw [(storeFrame_spec s .plain a ctx key hint bs).2.2 hd i hi, List.getD_eq_getElem?_getD, List.getElem?_eq_getElem hi, Option.getD_some]

end Sys2Proof.Machine

section
open Sys2Proof Sys2Proof.Machine

/-- Settles O49: the registers by the range that each is held to, the requests by whether the tenancy holds the context, the accesses of host threads
by what homes and stores do. -/
theorem management : Obligations.Management := by
  unfold Obligations.Management
  refine ⟨fun s v c ten core => ?_, fun s r v h => registerWrite_missing s v h, fun s p v hp => ?_, fun s v => ?_, fun s ten vec => ?_,
    fun s ten idx slot c vec nid group ranks rank w0 w1 w2 w3 src addr ue nonce a => ?_⟩
  · intro x hc ht hk
    refine ⟨rfl, rfl, rfl, fun r hr => registerWrite_ctx ?_, fun r hr => registerWrite_ten ?_, registerWrite_priorityCeiling s v ht,
      fun hv => (registerWrite_within (s.writeRegister_priorityCeiling v ht)).2 (.inr hv), ?_,
      ⟨_, registerWrite_allocation s v hc hk, rfl, ?_, fun k => ?_⟩⟩
    · simp only [List.mem_cons, List.not_mem_nil, or_false] at hr
      rcases hr with rfl | rfl | rfl
      · simp [State.writeRegister, regExists, hc, x]
      · simp [State.writeRegister, regExists, hc, x]
      · rw [State.within_of_le _ _ ⟨Nat.zero_le _, Nat.le_of_lt v.isLt⟩]
        simp [State.writeRegister, regExists, hc, x]
    · simp only [List.mem_cons, List.not_mem_nil, or_false] at hr
      rcases hr with rfl | rfl | rfl | rfl | rfl | rfl | rfl <;> simp [State.writeRegister, regExists, ht, x]
    · rw [registerWrite_contextTenancy s v hc]
      refine ⟨fun hmay => ?_, fun hmay => ?_⟩
      · rw [if_pos hmay]
        exact ⟨_, rfl, rfl, s.ctx_updCtx_self c _⟩
      · rw [if_neg hmay]
        exact ⟨_, rfl, s.refuse_refusedTo 64⟩
    · rw [State.ctx_updCtx_self]
    · rw [State.ctx_updCtx_self, mem_member]
  · refine ⟨⟨_, registerWrite_cxlWindow_device s v hp, s.refuse_refusedTo 64⟩, fun hrise => ?_⟩
    rw [registerWrite_cxlWindow_memory s v hp hrise]
    refine ⟨fun (hfit : s.otherWindows p + v.toNat ≤ 7168) => ?_, fun (hover : 7168 < s.otherWindows p + v.toNat) => ?_⟩
    · rw [if_pos hfit]
      exact ⟨_, rfl, rfl, ⟨_, Table.find_put_self _ _ _, rfl⟩, fun k hk => Table.find_put_ne _ _ hk⟩
    · rw [if_neg (Nat.not_le.mpr hover)]
      exact ⟨_, rfl, s.refuse_refusedTo 64⟩
  · refine ⟨fun a ha => featureAccept_again v ha, fun ha => ⟨_, _, featureAccept_first v ha, rfl, fun k hk => ?_⟩⟩
    simp [hk]
  · exact ⟨fun h => ⟨_, interruptAck_outside s ten h, s.refuse_refusedTo ten⟩,
      fun h => ⟨_, interruptAck_own s ten h, rfl, fun k => Table.find_del _ _ _⟩⟩
  · intro own ask
    have hown : own → s.owns ten c = true := (s.owns_iff ten c).mpr
    have haccess : ∀ a, own → ask (.hostAccess c a) = .next (s.hostThread ten c a) := fun a h => mailboxRequest_hostAccess (hown h) a
    refine ⟨rfl, rfl, rfl, fun h => ⟨mailboxRequest_resetContext (hown h), mailboxRequest_submitNode (hown h) addr⟩,
      fun h r hr => mailboxRequest_foreign (c := c) r ?_ ?_, fun n hn hc h he hs => mailboxRequest_nodeDone (hown h) hn hc he hs,
      fun h hr => ⟨_, mailboxRequest_createGroup (hown h) hr, rfl, Table.find_put_self _ _ _⟩,
      fun h hr => ⟨_, mailboxRequest_createGroup_refused ten hr, s.refuse_refusedTo ten⟩, fun h => mailboxRequest_attest (hown h) nonce,
      fun h => ⟨_, haccess .fence h, rfl, hostThread_fence s ten c⟩, fun va n h hp => ?_, fun va bs h hp => ?_⟩
    · simp only [List.mem_cons, List.not_mem_nil, or_false] at hr
      rcases hr with rfl | rfl | rfl | rfl | rfl <;> rfl
    · exact Bool.eq_false_iff.mpr (fun ho => h ((s.owns_iff ten c).mp ho))
    · rw [haccess _ h]
      refine ⟨fun hs => ?_, ?_⟩
      · rw [hostThread_load_unshared ten va hp hs]
        exact ⟨_, rfl, s.refuse_refusedTo ten⟩
      · intro hs ht u hu
        rw [hostThread_load_shared ten va hp hs ht hu]
        exact ⟨rfl, HomeOnly.foldl _ (fun _ _ => engineFetch_home _ _ _ _ _) _ s⟩
    · rw [haccess _ h]
      refine ⟨fun hs => ?_, ?_⟩
      · rw [hostThread_store_unshared ten va hp hs]
        exact ⟨_, rfl, s.refuse_refusedTo ten⟩
      · intro key hs hpage ht hfit hd
        rw [hostThread_store_shared ten va hp hs hpage ht]
        exact ⟨_, rfl, store_read_inside s _ c key 0 bs hfit hd, (store_spec s _ c key 0 bs).2⟩

end

/-! Proofs of the encoding (R39, R42, R55 to R65): a word is taken apart and put together format by format, and the classes' lists number the
encoder's rows. -/

namespace Sys2Proof

-- Decoding what the encoder writes.

section
variable (c : BitVec 4) (op : BitVec 8)

@[simp] theorem clsOf_encV (f : FmtV) : clsOf (encV c op f) = c.toNat := clsOf_encHead _ _ _ _
@[simp] theorem opOf_encV (f : FmtV) : opOf (encV c op f) = op.toNat := opOf_encHead _ _ _ _
@[simp] theorem clsOf_encI (f : FmtI) (w : Bool) : clsOf (encI op f w) = 3 := clsOf_encHead _ _ _ _
@[simp] theorem opOf_encI (f : FmtI) (w : Bool) : opOf (encI op f w) = op.toNat := opOf_encHead _ _ _ _
@[simp] theorem clsOf_encM (f : FmtM) : clsOf (encM c op f) = c.toNat := clsOf_encHead _ _ _ _
@[simp] theorem opOf_encM (f : FmtM) : opOf (encM c op f) = op.toNat := opOf_encHead _ _ _ _
@[simp] theorem clsOf_encC (f : FmtC) : clsOf (encC op f) = 7 := clsOf_encHead _ _ _ _
@[simp] theorem opOf_encC (f : FmtC) : opOf (encC op f) = op.toNat := opOf_encHead _ _ _ _

end

section
variable (op : BitVec 8) (rest : List Iword)

theorem decodeRaw_encV0 (f : FmtV) : decodeRaw (encV 0 op f) rest = pick ops0 f op.toNat := by simp [decodeRaw, parseV_encV]
theorem decodeRaw_encV1 (f : FmtV) : decodeRaw (encV 1 op f) rest = pick ops1 f op.toNat := by simp [decodeRaw, parseV_encV]
theorem decodeRaw_encV2 (f : FmtV) : decodeRaw (encV 2 op f) rest = pick ops2 f op.toNat := by simp [decodeRaw, parseV_encV]
theorem decodeRaw_encV11 (f : FmtV) : decodeRaw (encV 11 op f) rest = pick ops11 f op.toNat := by simp [decodeRaw, parseV_encV]
theorem decodeRaw_encM4 (f : FmtM) : decodeRaw (encM 4 op f) rest = pick ops4 f op.toNat := by simp [decodeRaw, parseM_encM]
theorem decodeRaw_encM5 (f : FmtM) : decodeRaw (encM 5 op f) rest = pick ops5 f op.toNat := by simp [decodeRaw, parseM_encM]

theorem decodeRaw_encT (f : FmtT) : decodeRaw (encT op f) rest = pick ops6 f op.toNat := by
  have hc : clsOf (encT op f) = 6 := clsOf_encHead _ _ _ _
  have ho : opOf (encT op f) = op.toNat := opOf_encHead _ _ _ _
  simp [decodeRaw, hc, ho, parseT_encT]

theorem decodeRaw_encP (f : FmtP) : decodeRaw (encP op f) rest = pick ops8 f op.toNat := by
  have hc : clsOf (encP op f) = 8 := clsOf_encHead _ _ _ _
  have ho : opOf (encP op f) = op.toNat := opOf_encHead _ _ _ _
  simp only [decodeRaw, decodeP, hc, ho, parseP_encP, low_encP]
  cases pick ops8 f op.toNat <;> rfl

theorem decodeRaw_encE (f : FmtE) : decodeRaw (encE op f) rest = pick ops9 f op.toNat := by
  have hc : clsOf (encE op f) = 9 := clsOf_encHead _ _ _ _
  have ho : opOf (encE op f) = op.toNat := opOf_encHead _ _ _ _
  simp [decodeRaw, hc, ho, parseE_encE]

theorem decodeRaw_encS (f : FmtS) : decodeRaw (encS op f) rest = pick ops10 f op.toNat := by
  have hc : clsOf (encS op f) = 10 := clsOf_encHead _ _ _ _
  have ho : opOf (encS op f) = op.toNat := opOf_encHead _ _ _ _
  simp [decodeRaw, hc, ho, parseS_encS]

/-- R56: class 0x3 from opcode 0x01 on. -/
theorem decodeRaw_encI (f : FmtI) (h : op.toNat ≠ 0) : decodeRaw (encI op f false) rest = pick ops3 f (op.toNat - 1) := by
  obtain ⟨-, -, hlow⟩ := low_encI op f false
  simp only [decodeRaw, decodeI, clsOf_encI, opOf_encI, parseI_encI, hlow, if_neg h]
  cases pick ops3 f (op.toNat - 1) <;> rfl

theorem decodeRaw_movi (f : FmtI) : decodeRaw (encI 0 f false) rest = .ok (.movi f) := by
  obtain ⟨hw, hlow, -⟩ := low_encI 0 f false
  simp only [decodeRaw, decodeI, clsOf_encI, opOf_encI, parseI_encI, hw, hlow]
  rfl

theorem decodeRaw_moviW (f : FmtI) (e : Iword) : decodeRaw (encI 0 f true) (e :: rest) = .ok (.moviW f e) := by
  obtain ⟨hw, hlow, -⟩ := low_encI 0 f true
  simp only [decodeRaw, decodeI, clsOf_encI, opOf_encI, parseI_encI, hw, hlow]
  rfl

/-- R59: class 0x7 from opcode 0x02 on. -/
theorem decodeRaw_encC (f : FmtC) (h : 2 ≤ op.toNat) : decodeRaw (encC op f) rest = pick ops7 f (op.toNat - 2) := by
  have h0 : op.toNat ≠ 0 := by omega
  have h1 : op.toNat ≠ 1 := by omega
  simp [decodeRaw, decodeC, parseC_encC, h0, h1]

theorem decodeRaw_br (f : FmtC) : decodeRaw (encC 0 f) rest = .ok (.br f) := by simp [decodeRaw, decodeC, parseC_encC]

theorem decodeRaw_brm (f : FmtC) (e0 e1 : Iword) : decodeRaw (encC 1 f) (e0 :: e1 :: rest) = .ok (.brm f e0 e1) := by
  simp [decodeRaw, decodeC, parseC_encC]

end

/-- R291: a well-formed CTAIL has MOD[2] clear, and one that opens a chain has it set. -/
theorem ctailForm_of_wellFormed {f : FmtE} :
    (wellFormed (.ctail f) = true → ctailForm f = .ctail f) ∧ (wellFormed (.ctailOpen f) = true → ctailForm f = .ctailOpen f) := by
  have hbit : f.mod.getLsbD 2 = decide (f.mod.toNat / 4 % 2 = 1) := Nat.testBit_eq_decide_div_mod_eq
  constructor <;> intro h <;> simp only [wellFormed, fieldsLegal, Bool.and_eq_true, decide_eq_true_eq] at h
  · have hclear : f.mod.getLsbD 2 = false := by rw [hbit, decide_eq_false_iff_not]; omega
    simp only [ctailForm, hclear, Bool.false_eq_true, if_false]
  · have hset : f.mod.getLsbD 2 = true := by rw [hbit, decide_eq_true_iff]; omega
    simp only [ctailForm, hset, if_true]

/-- The words of `i` are as many as it takes, and decode to it before its fields are checked, whatever follows them. -/
def Spelled (i : Instr) : Prop :=
  ∃ w ext, encode i = w :: ext ∧ ext.length + 1 = i.iwords ∧ ∀ rest, decodeRaw w (ext ++ rest) = .ok i

theorem spelled_of {i : Instr} {w : Iword} (he : encode i = [w]) (hn : i.iwords = 1) (h : ∀ rest, decodeRaw w rest = .ok i) : Spelled i :=
  ⟨w, [], he, hn.symm, h⟩

/-- R63: every instruction stands in its class's list at its opcode. -/
theorem spelled_of_wellFormed (i : Instr) (hw : wellFormed i = true) (hi : i.isEvent = false) : Spelled i := by
  cases i with
  | iadd | isub | imul | imulh | imad | imin | imax | iabs | ineg | and | or | xor | not | shl | shr | sar | rotl | popc | clz | brev | sel
  | clmul | clmulh | bfx | bfi | shuf | bcast | ireduce | dot4 => exact spelled_of rfl rfl (decodeRaw_encV0 _ · _)
  | fadd | fsub | fmul | ffma | fmin | fmax | fabs | fneg | frcp | frsq | fsqrt | fdiv | fexp2 | flog2 | fsinpi | fcospi | fclass | frnd
  | fscale | fdot2 | freduce => exact spelled_of rfl rfl (decodeRaw_encV1 _ · _)
  | cvt | cvts | scalesel | tag | tagr | pack | unpack | bpsplit | bpjoin => exact spelled_of rfl rfl (decodeRaw_encV2 _ · _)
  | mov | rget | rput | sbind | sstat => exact spelled_of rfl rfl (decodeRaw_encV11 _ · _)
  | movi f => exact spelled_of rfl rfl (decodeRaw_movi · f)
  | moviW f e => exact ⟨_, [e], rfl, rfl, fun rest => decodeRaw_moviW rest f e⟩
  | iaddi | andi | ori | xori | shli | shri | sari | imuli | lea => exact spelled_of rfl rfl (decodeRaw_encI _ · _ (by decide))
  | ld | lda | ldt | ldu | pref => exact spelled_of rfl rfl (decodeRaw_encM4 _ · _)
  | st | stl | stt | atom | atomf | cas | flush | inv | zero => exact spelled_of rfl rfl (decodeRaw_encM5 _ · _)
  | tdesc | tload | tstore | tfromh | ttoh | tzero | mma | accz | drain | accget | accput | ttrans | gset | gget =>
    exact spelled_of rfl rfl (decodeRaw_encT _ · _)
  | br f => exact spelled_of rfl rfl (decodeRaw_br · f)
  | brm f e0 e1 => exact ⟨_, [e0, e1], rfl, rfl, fun rest => decodeRaw_brm rest f e0 e1⟩
  | jtab | jind | call | ret | exit | bar | barc | yield | rejoin | kill | tfence | trap | nop | fragq =>
    exact spelled_of rfl rfl (decodeRaw_encC _ · _ (by decide))
  | icmp | fcmp | pand | por | pxor | pnot | pmov | pany | pset => exact spelled_of rfl rfl (decodeRaw_encP _ · _)
  | ctail f => exact spelled_of rfl rfl fun rest => (decodeRaw_encE 1 rest f).trans (congrArg _ (ctailForm_of_wellFormed.1 hw))
  | ctailOpen f => exact spelled_of rfl rfl fun rest => (decodeRaw_encE 1 rest f).trans (congrArg _ (ctailForm_of_wellFormed.2 hw))
  | cput | semadd | semwait | semread | publish | enq | svc | mwait | collabort | talloc | tfree | fence =>
    exact spelled_of rfl rfl (decodeRaw_encE _ · _)
  | csrr | csrw | csrs | csrc | clock | errq => exact spelled_of rfl rfl (decodeRaw_encS _ · _)
  | _ => exact nomatch hi

theorem decode_encode {i : Instr} (hw : wellFormed i = true) (hi : i.isEvent = false) (rest : List Iword) :
    decode (encode i ++ rest) = .ok i ∧ (encode i).length = i.iwords := by
  obtain ⟨w, ext, he, hn, hd⟩ := spelled_of_wellFormed i hw hi
  rw [he]
  exact ⟨by simp [decode, hd, hw], hn⟩

-- Encoding what words decode to.

section
variable (w : Iword)

theorem ofNat_clsOf : BitVec.ofNat 4 (clsOf w) = w.extractLsb' 60 4 := BitVec.ofNat_toNat _ _

theorem ofNat_opOf : BitVec.ofNat 8 (opOf w) = w.extractLsb' 52 8 := BitVec.ofNat_toNat _ _

theorem ofBool_getLsbD (b : Nat) : BitVec.ofBool (w.getLsbD b) = w.extractLsb' b 1 := by
  ext k hk
  simp [Nat.lt_one_iff.mp hk]

/-- R39: the common fields of a word over its other bits are the word. -/
theorem encHead_parse : encHead (BitVec.ofNat 4 (clsOf w)) (BitVec.ofNat 8 (opOf w)) (guardOf w) (w.extractLsb' 0 47) = w := by
  simp (disch := rfl) only [encHead, ofNat_clsOf, ofNat_opOf, guardOf, ofBool_getLsbD, BitVec.extractLsb'_append_extractLsb'_eq_extractLsb']
  exact BitVec.extractLsb'_eq_self

theorem encHead_of_body {c : Nat} {b : BitVec 47} (hc : clsOf w = c) (hb : b = w.extractLsb' 0 47) :
    encHead (BitVec.ofNat 4 c) (BitVec.ofNat 8 (opOf w)) (guardOf w) b = w := by
  rw [← hc, hb, encHead_parse]

/-! The fields of each format, taken from a word, stand in their places (R55 to R62). -/

theorem encV_parseV {c : Nat} (hc : clsOf w = c) : encV (BitVec.ofNat 4 c) (BitVec.ofNat 8 (opOf w)) (parseV w) = w :=
  encHead_of_body w hc (by simp (disch := rfl) only [parseV, BitVec.extractLsb'_append_extractLsb'_eq_extractLsb'])

theorem encI_parseI (hc : clsOf w = 3) (h : w.extractLsb' 0 4 = 0#4) : encI (BitVec.ofNat 8 (opOf w)) (parseI w) (w.getLsbD 4) = w :=
  encHead_of_body w hc (by
    simp (disch := rfl) only [parseI, ofBool_getLsbD, ← h, BitVec.extractLsb'_append_extractLsb'_eq_extractLsb'])

theorem encM_parseM {c : Nat} (hc : clsOf w = c) : encM (BitVec.ofNat 4 c) (BitVec.ofNat 8 (opOf w)) (parseM w) = w :=
  encHead_of_body w hc (by simp (disch := rfl) only [parseM, BitVec.extractLsb'_append_extractLsb'_eq_extractLsb'])

theorem encT_parseT (hc : clsOf w = 6) : encT (BitVec.ofNat 8 (opOf w)) (parseT w) = w :=
  encHead_of_body w hc (by simp (disch := rfl) only [parseT, BitVec.extractLsb'_append_extractLsb'_eq_extractLsb'])

theorem encC_parseC (hc : clsOf w = 7) : encC (BitVec.ofNat 8 (opOf w)) (parseC w) = w :=
  encHead_of_body w hc (by simp (disch := rfl) only [parseC, BitVec.extractLsb'_append_extractLsb'_eq_extractLsb'])

theorem encP_parseP (hc : clsOf w = 8) (h : w.getLsbD 0 = false) : encP (BitVec.ofNat 8 (opOf w)) (parseP w) = w :=
  encHead_of_body w hc (by
    have h0 : 0#1 = w.extractLsb' 0 1 := by rw [← ofBool_getLsbD, h]; rfl
    simp (disch := rfl) only [parseP, h0, BitVec.extractLsb'_append_extractLsb'_eq_extractLsb'])

theorem encE_parseE (hc : clsOf w = 9) : encE (BitVec.ofNat 8 (opOf w)) (parseE w) = w :=
  encHead_of_body w hc (by simp (disch := rfl) only [parseE, BitVec.extractLsb'_append_extractLsb'_eq_extractLsb'])

theorem encS_parseS (hc : clsOf w = 10) : encS (BitVec.ofNat 8 (opOf w)) (parseS w) = w :=
  encHead_of_body w hc (by simp (disch := rfl) only [parseS, BitVec.extractLsb'_append_extractLsb'_eq_extractLsb'])

end

/-- A class's list numbers its rows from opcode `first` on: an instruction picked from it has one word, which holds its opcode. -/
theorem encode_of_pick {α : Type} {l : List (α → Instr)} {f : α} {n first : Nat} {enc : BitVec 8 → Iword} {i : Instr} (h : pick l f n = .ok i)
    (hrows : l.map (fun c => encode (c f)) = (List.range l.length).map (fun k => [enc (BitVec.ofNat 8 (k + first))])) :
    encode i = [enc (BitVec.ofNat 8 (n + first))] := by
  unfold pick at h
  split at h
  case h_2 => cases h
  case h_1 c hc =>
    cases h
    obtain ⟨hn, rfl⟩ := List.getElem?_eq_some_iff.mp hc
    simpa [hn] using congrArg (·[n]?) hrows

/-- `w` and the iwords after it begin with the words of `i`. -/
def Spells (w : Iword) (rest : List Iword) (i : Instr) : Prop := ∃ ext rest', rest = ext ++ rest' ∧ encode i = w :: ext

theorem spells_of_pick {α : Type} {l : List (α → Instr)} {f : α} {n : Nat} {w : Iword} {i : Instr} (rest : List Iword) (enc : BitVec 8 → Iword)
    (first : Nat) (hw : enc (BitVec.ofNat 8 (n + first)) = w) (h : pick l f n = .ok i)
    (hrows : l.map (fun c => encode (c f)) = (List.range l.length).map (fun k => [enc (BitVec.ofNat 8 (k + first))])) : Spells w rest i :=
  ⟨[], rest, rfl, hw ▸ encode_of_pick h hrows⟩

theorem encode_ctailForm (f : FmtE) : encode (ctailForm f) = [encE 0x01 f] := by
  unfold ctailForm
  split <;> rfl

/-- The five low bits of format I are W over the reserved bits (R56). -/
theorem low_of_low5 {w : Iword} (h : w.extractLsb' 0 5 = 0#5) : w.getLsbD 4 = false ∧ w.extractLsb' 0 4 = 0#4 := by
  have hbit : ∀ b < 5, w.getLsbD b = false := fun b hb => by simpa [hb] using congrArg (BitVec.getLsbD · b) h
  refine ⟨hbit 4 (by decide), ?_⟩
  ext b hb
  simp [hbit b (by omega)]

/-- Class 0x3 (R56). -/
theorem spells_of_decodeI {w : Iword} {rest : List Iword} {i : Instr} (hc : clsOf w = 3) (h : decodeI w rest = .ok i) : Spells w rest i := by
  have henc := encI_parseI w hc
  unfold decodeI at h
  split at h
  case isTrue h0 =>
    rw [h0] at henc
    split at h
    case isTrue hw =>
      rw [hw] at henc
      split at h
      case h_1 => cases h
      case h_2 e rest =>
        split at h
        case isTrue hlow =>
          cases h
          exact ⟨[e], rest, rfl, congrArg (· :: [e]) (henc hlow)⟩
        case isFalse => cases h
    case isFalse hw =>
      rw [Bool.eq_false_iff.mpr hw] at henc
      split at h
      case isTrue hlow =>
        cases h
        exact ⟨[], rest, rfl, congrArg (· :: []) (henc hlow)⟩
      case isFalse => cases h
  case isFalse h0 =>
    split at h
    case h_1 => cases h
    case h_2 hp =>
      split at h
      case isTrue hlow5 =>
        cases h
        obtain ⟨hw, hlow⟩ := low_of_low5 hlow5
        have henc := henc hlow
        rw [hw, show opOf w = opOf w - 1 + 1 by omega] at henc
        exact spells_of_pick rest (encI · (parseI w) false) 1 henc hp rfl
      case isFalse => cases h

/-- Class 0x7 (R59). -/
theorem spells_of_decodeC {w : Iword} {rest : List Iword} {i : Instr} (hc : clsOf w = 7) (h : decodeC w rest = .ok i) : Spells w rest i := by
  have henc := encC_parseC w hc
  unfold decodeC at h
  split at h
  case isTrue h0 =>
    rw [h0] at henc
    cases h
    exact ⟨[], rest, rfl, congrArg (· :: []) henc⟩
  case isFalse h0 =>
    split at h
    case isTrue h1 =>
      rw [h1] at henc
      split at h
      case h_1 e0 e1 rest =>
        cases h
        exact ⟨[e0, e1], rest, rfl, congrArg (· :: [e0, e1]) henc⟩
      case h_2 => cases h
    case isFalse h1 =>
      rw [show opOf w = opOf w - 2 + 2 by omega] at henc
      exact spells_of_pick rest (encC · (parseC w)) 2 henc h rfl

/-- Class 0x8 (R60). -/
theorem spells_of_decodeP {w : Iword} (rest : List Iword) {i : Instr} (hc : clsOf w = 8) (h : decodeP w = .ok i) : Spells w rest i := by
  unfold decodeP at h
  split at h
  case h_1 => cases h
  case h_2 hp =>
    split at h
    case isTrue => cases h
    case isFalse h0 =>
      cases h
      exact spells_of_pick rest (encP · (parseP w)) 0 (encP_parseP w hc (Bool.eq_false_iff.mpr h0)) hp rfl

theorem spells_of_decodeRaw {w : Iword} {rest : List Iword} {i : Instr} (h : decodeRaw w rest = .ok i) : Spells w rest i := by
  unfold decodeRaw at h
  split at h
  case h_1 hc => exact spells_of_pick rest (encV 0 · (parseV w)) 0 (encV_parseV w hc) h rfl
  case h_2 hc => exact spells_of_pick rest (encV 1 · (parseV w)) 0 (encV_parseV w hc) h rfl
  case h_3 hc => exact spells_of_pick rest (encV 2 · (parseV w)) 0 (encV_parseV w hc) h rfl
  case h_4 hc => exact spells_of_decodeI hc h
  case h_5 hc => exact spells_of_pick rest (encM 4 · (parseM w)) 0 (encM_parseM w hc) h rfl
  case h_6 hc => exact spells_of_pick rest (encM 5 · (parseM w)) 0 (encM_parseM w hc) h rfl
  case h_7 hc => exact spells_of_pick rest (encT · (parseT w)) 0 (encT_parseT w hc) h rfl
  case h_8 hc => exact spells_of_decodeC hc h
  case h_9 hc => exact spells_of_decodeP rest hc h
  case h_10 hc => exact spells_of_pick rest (encE · (parseE w)) 0 (encE_parseE w hc) h (by simp only [ops9, List.map, encode_ctailForm]; rfl)
  case h_11 hc => exact spells_of_pick rest (encS · (parseS w)) 0 (encS_parseS w hc) h rfl
  case h_12 hc => exact spells_of_pick rest (encV 11 · (parseV w)) 0 (encV_parseV w hc) h rfl
  case h_13 => cases h
  case h_14 => cases h

theorem encode_of_decode {ws : List Iword} {i : Instr} (h : decode ws = .ok i) :
    wellFormed i = true ∧ i.isEvent = false ∧ ∃ rest, ws = encode i ++ rest := by
  unfold decode at h
  split at h
  case h_1 => cases h
  case h_2 w rest =>
    split at h
    case h_1 => cases h
    case h_2 j hj =>
      split at h
      case isFalse => cases h
      case isTrue hw =>
        cases h
        obtain ⟨ext, rest', rfl, he⟩ := spells_of_decodeRaw hj
        exact ⟨hw, by simp [Instr.isEvent, he], rest', by simp [he]⟩

end Sys2Proof

section
open Sys2Proof Sys2Proof.Machine

/-- Settles O55: every well-formed instruction is spelled by words that decode to it, and words that decode spell what they decode to. -/
theorem decodeEncode : Obligations.DecodeEncode :=
  ⟨fun _ rest hw hi => decode_encode hw hi rest, fun _ _ h => encode_of_decode h⟩

/-- Settles O56: the decoder evaluated on each word. -/
theorem decodeWords : Obligations.DecodeWords :=
  ⟨rfl, rfl, rfl, rfl, rfl, rfl, rfl, rfl, rfl, rfl, rfl, rfl, rfl, rfl⟩

end

namespace Sys2Proof.Machine

/-! Translation (R161, R165, R212, R311): a PUBLISH whose shadow entry is poisoned. -/

/-- A PUBLISH of the page at 0x20000 in context 0, whose translation is an entry at 0x42000 of the second tier (TIER 01) with SV set. -/
def poisonedPublish : Inval := ⟨0, 0x20000, 4096, some 0⟩

/-- That PUBLISH under way in a live context whose tables stand at 0x40000. The shadow entry, at 0x43000, reads 0 (TIER 00) and is poisoned. -/
def poisonedShadow : State := { State.reset with
  mem := ((State.reset.mem.writeNat 0x40000 8 0x41001).writeNat 0x41000 8 0x42001).writeNat 0x42000 8 (1 + 2 + 4 + 2 ^ 5 + 2 ^ 6 + 2 ^ 8)
  poison := [0x43000 / 16]
  invals := [poisonedPublish]
  ctxs := [(0, { State.reset.ctx 0 with mode := .live, root := 0x40000 })] }

/-- The statement's hypotheses hold of the range: its one entry with a shadow is that at 0x42000. -/
theorem poisonedShadow_shadowed :
    poisonedShadow.invals.find? (fun i => i.ctx == 0 && i.start == (0x20000 : Dword).toNat && i.len == (4096 : Dword).toNat) = some poisonedPublish
    ∧ poisonedShadow.shadowed 0 0x20000 4096 = [0x42000] := by
  decide +kernel

/-- R311: the exchange would read a poisoned entry: the context is lost, and the entry keeps its TIER. -/
theorem poisonedShadow_keeps_entry :
    let t := poisonedShadow.invalidationDone 0 0x20000 4096
    (t.ctx 0).mode = .lost ∧ t.mem.readNat 0x42000 8 = poisonedShadow.mem.readNat 0x42000 8 ∧ (t.mem.readNat 0x42000 8).testBit 6 = true
    ∧ (poisonedShadow.mem.readNat 0x43000 8).testBit 6 = false := by
  decide +kernel

end Sys2Proof.Machine

section
open Sys2Proof Sys2Proof.Machine

/-- Refutes O43: where the walker meets a poisoned shadow entry, the end of a PUBLISH's invalidation loses the context and exchanges nothing (R311,
R312); the statement asks for the exchange all the same. -/
theorem not_translationAndFlash : ¬ Obligations.TranslationAndFlash := by
  unfold Obligations.TranslationAndFlash
  rintro ⟨-, -, hinval, -⟩
  obtain ⟨hfind, hshadowed⟩ := poisonedShadow_shadowed
  obtain ⟨t, ht, -, -, -, hexchange⟩ := hinval poisonedShadow 0 0x20000 4096 poisonedPublish hfind
  obtain ⟨-, -, hkept, hshadow⟩ := poisonedShadow_keeps_entry
  have hrun : exec (.invalidationComplete 0 0x20000 4096) poisonedShadow = .next (poisonedShadow.invalidationDone 0 0x20000 4096) := rfl
  obtain rfl : poisonedShadow.invalidationDone 0 0x20000 4096 = t := Host.Outcome.next.inj (hrun.symm.trans ht)
  have hbit := ((hexchange 0x42000 rfl hshadowed).1 6 (by decide)).1
  rw [if_pos (.inl rfl), hkept, hshadow] at hbit
  exact Bool.noConfusion hbit

end

namespace Sys2Proof.Machine

/-! Loading a container (R156, R391, R392): a root pointer that is not a multiple of 8. -/

/-- A container of version 2, which R391 does not know: one code segment of 4,097 bytes, on the last page below 2^48 and the page at 2^48. -/
def twoPageContainer : List Byte :=
  ([0x53, 0x57, 0x46, 0x43] ++ leBytes 2 4 ++ leBytes 1 8 ++ leBytes 0 16 ++ leBytes 64 8 ++ leBytes 0 24)
    ++ (leBytes 0 8 ++ leBytes (2 ^ 48 - 4096) 8 ++ leBytes 4097 8 ++ leBytes 0 16) ++ List.replicate 4000 0

/-- A device whose context 0 has its root pointer at 0x40FEC, and 0x46001 at 0x40FF4. Five levels of tables lead from the lower page to its
entry at 0x40FF8, which reads 3 (V and leaf). The level-4 pointer of the upper page, at 0x40FF4, has the low half of that entry as its high half.
It reads 0x3_0004_6001, and at 0x3_0004_6000 there is nothing. Where the entry's V is cleared it reads 0x2_0004_6001, and the tables from there lead
to an entry at 0x49000, which maps the upper page. -/
def misalignedRoot : State :=
  let words : List (Nat × Nat) :=
    [(0x40FEC, 0x43001), (0x43FF8, 0x44001), (0x44FF8, 0x45001), (0x45FF8, 0x40001), (0x40FF4, 0x46001), (0x40FF8, 3),
      (0x200046000, 0x47001), (0x47000, 0x48001), (0x48000, 0x49001), (0x49000, 3)]
  { State.reset with
    mem := words.foldl (fun m e => m.writeNat e.1 8 e.2) State.reset.mem
    ctxs := [(0, { State.reset.ctx 0 with mode := .live, root := 0x40FEC })] }

/-- Only the lower page has an entry before the load. -/
theorem misalignedRoot_prepared :
    (misalignedRoot.ctx 0).mode ≠ .free ∧ containerBad twoPageContainer = true
    ∧ misalignedRoot.preparedPages 0 (segmentsOf twoPageContainer) = [(2 ^ 48 - 4096, 0x40FF8, 3)] := by
  decide +kernel

theorem misalignedRoot_entriesApart : misalignedRoot.EntriesApart 0 [(2 ^ 48 - 4096, 0x40FF8, 3)] := by
  unfold State.EntriesApart Apart
  decide +kernel

/-- The refused container has unmapped the upper page too, by the entry to which the change of the lower page's entry leads. -/
theorem misalignedRoot_unmaps_upper :
    (misalignedRoot.load 0 twoPageContainer).mem.read 0x49000 = 2 ∧ misalignedRoot.mem.read 0x49000 = 3 := by
  decide +kernel

end Sys2Proof.Machine

section
open Sys2Proof Sys2Proof.Machine

/-- Refutes O50: the entries of prepared pages stand apart from the pointers by which those pages are found, but where the root pointer is not a
multiple of 8 one may overlap the pointer of a page that has no entry; unmapping the first page then gives the second an entry, and it is written as
well, which the statement rules out. (R156 aligns tables to 4 KiB; the statement takes every state.) -/
theorem not_containers : ¬ Obligations.Containers := by
  unfold Obligations.Containers
  intro h
  obtain ⟨hmode, hbad, hprepared⟩ := misalignedRoot_prepared
  obtain ⟨-, hload⟩ := h misalignedRoot 0 twoPageContainer
  obtain ⟨t, ht, -, -, hframe⟩ := (hload hmode).1 fun ⟨hlayout, _⟩ => Bool.noConfusion (hbad.symm.trans hlayout)
  obtain rfl : misalignedRoot.load 0 twoPageContainer = t := Host.Outcome.next.inj ht
  rw [hprepared] at hframe
  have hkept := (hframe misalignedRoot_entriesApart).2 0x49000 (by decide)
  obtain ⟨hafter, hbefore⟩ := misalignedRoot_unmaps_upper
  rw [hafter, hbefore] at hkept
  exact absurd hkept (by decide)

end
